-- ==== Sys2Proof/Word.lean ====
section
/-! DEFINITION. Words and the sparse map every part of the state is held in. -/

namespace Sys2Proof

/-- One byte. -/
abbrev Byte := BitVec 8
/-- A 32-bit register word (R9). -/
abbrev Word := BitVec 32
/-- A 64-bit address, pair or instruction word (R85). -/
abbrev DWord := BitVec 64
/-- A lane mask: bit L is lane L, 0 to 95 (R15). -/
abbrev Mask := BitVec 96

/-- A sparse map in one canonical form: keys strictly rising, no entry equal to the value that an unlisted key
reads as. -/
abbrev NMap (α : Type) := List (Nat × α)

/-- The value at `k`, or `d` where `k` is not listed. -/
def NMap.get {α : Type} (d : α) : NMap α → Nat → α
  | [], _ => d
  | (j, v) :: m, k => if k = j then v else NMap.get d m k

/-- An entry put before the first one of a greater key. -/
def NMap.insert {α : Type} (k : Nat) (v : α) : NMap α → NMap α
  | [] => [(k, v)]
  | (j, w) :: m => if k < j then (k, v) :: (j, w) :: m else (j, w) :: NMap.insert k v m

/-- The map with `v` at `k`; writing the value an unlisted key reads as removes the entry. -/
def NMap.set {α : Type} [DecidableEq α] (d : α) (m : NMap α) (k : Nat) (v : α) : NMap α :=
  if v = d then m.filter fun e => e.1 != k else NMap.insert k v (m.filter fun e => e.1 != k)

/-- The canonical form of a map whose unlisted keys read as `d` and whose keys are at least `lo`. -/
def NMap.wfFrom {α : Type} [DecidableEq α] (d : α) : Nat → NMap α → Bool
  | _, [] => true
  | lo, (j, v) :: m => decide (lo ≤ j) && !decide (v = d) && NMap.wfFrom d (j + 1) m

/-- The canonical form. -/
def NMap.wf {α : Type} [DecidableEq α] (d : α) (m : NMap α) : Bool := NMap.wfFrom d 0 m

/-- The entries of a map whose key satisfies `p` are dropped. -/
def NMap.drop {α : Type} (p : Nat → Bool) (m : NMap α) : NMap α := m.filter fun e => !p e.1

end Sys2Proof
end

