-- ==== Sys2Proof/Syntax.lean ====
section
/-! DEFINITION. The instructions and events of the opcode table, one constructor per row, and the formats' fields. -/

namespace Sys2Proof

/-- Type codes (Table 04-7); `rsv` holds a reserved code, 20 to 31. -/
inductive Ty where
  | dflt | i8 | i16 | i32 | i64 | n8 | n16 | n32 | n64 | b8 | b16 | b32 | b64 | f32 | f16 | bf16 | e4m3 | e5m2
  | e2m1 | slot
  | rsv (code : Nat)
  deriving DecidableEq, Repr

/-- Rounding codes (R91); `rsv` holds a reserved code, 5 to 7. -/
inductive Rnd where
  | rn | rz | rd | ru | sr
  | rsv (code : Nat)
  deriving DecidableEq, Repr

/-- A source field with its kind bit: kind 0 a register index, kind 1 a constant code (R91, R92). -/
inductive Src where
  | reg (n : Nat)
  | code (c : Nat)
  deriving DecidableEq, Repr

/-- Format A (Table 04-4), with the literal word that follows (0 where the instruction carries none). Indices are
numbers without bound, since REP steps them past their field's width (R99). -/
structure OpA where
  s : Bool
  keep : Nat
  d : Nat
  a : Src
  b : Src
  c : Src
  rnd : Rnd
  typ : Ty
  sub : BitVec 6
  lit : DWord
  deriving DecidableEq, Repr

/-- Format M (Table 04-8). -/
structure OpM where
  d : Nat
  b : Nat
  bs : Bool
  off : BitVec 24
  wt : Nat
  sc : Nat
  cp : Nat
  aop : Nat
  rsv : Bool
  deriving DecidableEq, Repr

/-- Format B (Table 04-10). -/
structure OpB where
  reg : Nat
  rk : Bool
  cond : Nat
  rsv : BitVec 11
  disp : BitVec 32
  deriving DecidableEq, Repr

/-- Format E (Table 04-11). -/
structure OpE where
  d : Nat
  a : Nat
  b : Nat
  c : Nat
  fs : Nat
  mode : BitVec 17
  deriving DecidableEq, Repr

/-- Format P (Table 04-12). -/
structure OpP where
  n : Nat
  step : BitVec 4
  rsv : BitVec 46
  deriving DecidableEq, Repr

/-- The launch to be replayed, with the LOC and the physical address of its error (R404, Table 17-3). -/
structure ReplayDue where
  launch : Nat
  loc : Nat
  addr : Nat
  deriving DecidableEq, Repr

/-- The node that a fabric request comes from, and the port through which it comes (R427). -/
structure Peer where
  node : Nat
  port : Nat
  deriving DecidableEq, Repr

/-- Where data fails its check: the hand-over of Table 17-5 and the physical address. -/
structure ErrSite where
  handover : Nat
  addr : Nat
  deriving DecidableEq, Repr

/-- A share's limits, RATE and CAPK (Table 10-2). -/
structure ShareCap where
  rate : Nat
  capk : Nat
  deriving DecidableEq, Repr

/-- What the power controller measures (R420): a thermal limit below the node cap, and the average package power. -/
structure PowerReading where
  throttle : Bool
  avgw : Nat
  deriving DecidableEq, Repr

/-- What meets an uncorrectable error (R412, R417, R426): nothing yet; a command or the completion of a unit; the instruction that
a split issues, which reads a register with wrong parity; or a read or atomic in flight that fails over a link. -/
inductive ErrUse where
  | none
  | unit (crew : Nat)
  | split (g n : Nat)
  | op (id : Nat)
  deriving DecidableEq, Repr

/-- One constructor per row of the opcode table: the program instructions with the fields of their format, and the
device's events with the units they name. -/
inductive Instr where
  /-- CLAUSE_START (R87): A split starts its next clause once every flag named by WAIT is clear; the clause is fetched, checked and its first word issues. -/
  | clauseStart (g n : Nat)
  /-- OPERATION_COMPLETE (R88): A long-latency operation reaches its completion point and subtracts one from the counts of the flags it set. -/
  | operationComplete (op : Nat)
  /-- IADD (R124): Integer add, optionally saturating. -/
  | iadd (o : OpA)
  /-- ISUB (R124): Integer subtract, optionally saturating. -/
  | isub (o : OpA)
  /-- IMUL (R124): Integer multiply, low word, optionally saturating. -/
  | imul (o : OpA)
  /-- IMULH (R124): Upper word of the 64-bit integer product. -/
  | imulh (o : OpA)
  /-- IMAD (R124): Integer multiply-add, optionally saturating. -/
  | imad (o : OpA)
  /-- IMIN (R124): Integer minimum. -/
  | imin (o : OpA)
  /-- IMAX (R124): Integer maximum. -/
  | imax (o : OpA)
  /-- IABS (R124): Integer absolute value. -/
  | iabs (o : OpA)
  /-- INEG (R124): Integer negation. -/
  | ineg (o : OpA)
  /-- IADDC (R124): Add with carry in, optionally returning the carry out. -/
  | iaddc (o : OpA)
  /-- ICMP (R125): Integer comparison writing 1 or 0. -/
  | icmp (o : OpA)
  /-- SEL (R125): Select a or b by a condition value. -/
  | sel (o : OpA)
  /-- SHL (R126): Logical shift left. -/
  | shl (o : OpA)
  /-- SHR (R126): Logical shift right. -/
  | shr (o : OpA)
  /-- SAR (R126): Arithmetic shift right. -/
  | sar (o : OpA)
  /-- ROL (R126): Rotate left. -/
  | rol (o : OpA)
  /-- AND (R126): Bitwise AND. -/
  | and (o : OpA)
  /-- OR (R126): Bitwise OR. -/
  | or (o : OpA)
  /-- XOR (R126): Bitwise XOR. -/
  | xor (o : OpA)
  /-- NOT (R126): Bitwise NOT. -/
  | not (o : OpA)
  /-- ANDN (R126): a AND NOT b. -/
  | andn (o : OpA)
  /-- BFX (R127): Bit-field extract. -/
  | bfx (o : OpA)
  /-- BFI (R127): Bit-field insert. -/
  | bfi (o : OpA)
  /-- POPC (R127): Population count. -/
  | popc (o : OpA)
  /-- CLZ (R127): Count leading zeros. -/
  | clz (o : OpA)
  /-- BREV (R127): Bit reverse. -/
  | brev (o : OpA)
  /-- LEA (R128): 64-bit scaled address computation. -/
  | lea (o : OpA)
  /-- ADD64 (R128): 64-bit add on register pairs. -/
  | add64 (o : OpA)
  /-- MOV (R129): Register move. -/
  | mov (o : OpA)
  /-- MOVI (R129): Move of a constant or literal. -/
  | movi (o : OpA)
  /-- MOVS (R129): Move with sign or zero extension of 8 or 16 bits. -/
  | movs (o : OpA)
  /-- LPERM (R130): Per-lane gather from another lane. -/
  | lperm (o : OpA)
  /-- LPUSH (R130): Per-lane scatter into other lanes, highest source lane winning. -/
  | lpush (o : OpA)
  /-- LBCAST (R130): Broadcast one lane's value. -/
  | lbcast (o : OpA)
  /-- LSHFL (R130): Lane shuffle up, down, xor or rotate. -/
  | lshfl (o : OpA)
  /-- LSCAN (R131): Prefix scan over active lanes. -/
  | lscan (o : OpA)
  /-- LRED (R131): Reduction over active lanes into every active lane. -/
  | lred (o : OpA)
  /-- LVOTE (R132): Any, all or ballot vote into s-registers. -/
  | lvote (o : OpA)
  /-- FIRSTLANE (R132): Value or index of the lowest active lane. -/
  | firstlane (o : OpA)
  /-- BRA (R133): Unconditional relative branch. -/
  | bra (o : OpB)
  /-- BRC (R116): Conditional branch that may divide the split. -/
  | brc (o : OpB)
  /-- CALL (R133): Call, writing the return address to an s pair. -/
  | call (o : OpB)
  /-- RET (R133): Return to the address in an s pair. -/
  | ret (o : OpB)
  /-- JMPI (R133): Indirect jump. -/
  | jmpi (o : OpB)
  /-- SPLITSYNC (R133): Set the split's join point. -/
  | splitsync (o : OpB)
  /-- EXIT (R134): Remove the active lanes; end the split when none remain. -/
  | exit (o : OpE)
  /-- REP (R99): Repeat the following instruction with stepped register fields. -/
  | rep (o : OpP)
  /-- NOP (R134): No operation. -/
  | nop (o : OpE)
  /-- YIELD (R134): Give up the split's issue turn. -/
  | yield (o : OpE)
  /-- REGGROW (R137): Request more register rows, answered at once or after waiting. -/
  | reggrow (o : OpA)
  /-- REGGROW_GRANT (R121): A waiting REGGROW is granted oldest first when rows are free. -/
  | reggrowGrant (core : Nat)
  /-- REGGROW_DENY (R122): When every resident group is blocked in REGGROW, the youngest group's requests are denied. -/
  | reggrowDeny (core : Nat)
  /-- REGSHRINK (R138): Release register rows once no outstanding operation writes them. -/
  | regshrink (o : OpA)
  /-- SREAD (R139): Read a special register. -/
  | sread (o : OpA)
  /-- SWRITE (R139): Write a special register; HPRIME writes act as a fence. -/
  | swrite (o : OpA)
  /-- FADD (R155): FP32 add. -/
  | fadd (o : OpA)
  /-- FSUB (R155): FP32 subtract. -/
  | fsub (o : OpA)
  /-- FMUL (R155): FP32 multiply. -/
  | fmul (o : OpA)
  /-- FFMA (R155): FP32 fused multiply-add. -/
  | ffma (o : OpA)
  /-- FMIN (R156): FP32 minimumNumber. -/
  | fmin (o : OpA)
  /-- FMAX (R156): FP32 maximumNumber. -/
  | fmax (o : OpA)
  /-- FCMP (R157): FP32 comparison. -/
  | fcmp (o : OpA)
  /-- FCLASS (R157): FP32 classification mask. -/
  | fclass (o : OpA)
  /-- FRND (R158): Round FP32 to integral value. -/
  | frnd (o : OpA)
  /-- FTOI (R158): FP32 to integer conversion. -/
  | ftoi (o : OpA)
  /-- ITOF (R158): Integer to FP32 conversion. -/
  | itof (o : OpA)
  /-- RCPSEED (R160): Reciprocal seed. -/
  | rcpseed (o : OpA)
  /-- RSQSEED (R160): Reciprocal square root seed. -/
  | rsqseed (o : OpA)
  /-- LG2SEED (R160): Base-2 logarithm seed. -/
  | lg2seed (o : OpA)
  /-- EX2SEED (R160): Base-2 exponential seed. -/
  | ex2seed (o : OpA)
  /-- RRPI (R161): Exact reduction by pi/2, or the quadrant. -/
  | rrpi (o : OpA)
  /-- RRLN2 (R161): Exact reduction by ln 2, or the multiple. -/
  | rrln2 (o : OpA)
  /-- FEXP (R159): FP32 exponent as integer. -/
  | fexp (o : OpA)
  /-- FMANT (R159): FP32 significand in [1,2). -/
  | fmant (o : OpA)
  /-- LDEXP (R159): Scale FP32 by a power of two. -/
  | ldexp (o : OpA)
  /-- CVT (R162): Convert a single value between formats. -/
  | cvt (o : OpA)
  /-- PK (R163): Convert two FP32 values into packed elements. -/
  | pk (o : OpA)
  /-- UNPK (R163): Unpack one element exactly. -/
  | unpk (o : OpA)
  /-- HADD2 (R164): Packed 16-bit add. -/
  | hadd2 (o : OpA)
  /-- HMUL2 (R164): Packed 16-bit multiply. -/
  | hmul2 (o : OpA)
  /-- HFMA2 (R164): Packed 16-bit fused multiply-add. -/
  | hfma2 (o : OpA)
  /-- DOT4 (R165): Four-element 8-bit dot product under the sum rule. -/
  | dot4 (o : OpA)
  /-- DOT8 (R165): Eight-element 4-bit dot product. -/
  | dot8 (o : OpA)
  /-- DOTS (R165): Two-element 16-bit dot product. -/
  | dots (o : OpA)
  /-- SCALE (R166): Apply an E8M0 scale byte. -/
  | scale (o : OpA)
  /-- AMAXB (R166): Largest magnitude over a lane block. -/
  | amaxb (o : OpA)
  /-- QNT (R166): Quantise one element against a block maximum. -/
  | qnt (o : OpA)
  /-- LD (R173): Load from memory. -/
  | ld (o : OpM)
  /-- ST (R173): Store to memory. -/
  | st (o : OpM)
  /-- LDS (R176): Load from the crew's scratchpad. -/
  | lds (o : OpM)
  /-- STS (R176): Store to the crew's scratchpad. -/
  | sts (o : OpM)
  /-- ATOM (R178): Atomic read-modify-write returning the old value. -/
  | atom (o : OpM)
  /-- RED (R178): Atomic read-modify-write without return. -/
  | red (o : OpM)
  /-- PREF (R186): Prefetch a line. -/
  | pref (o : OpM)
  /-- CWB (R187): Write back dirty NC sectors. -/
  | cwb (o : OpM)
  /-- CINV (R187): Write back and drop lines from the cluster cache. -/
  | cinv (o : OpM)
  /-- BANKCFG (R188): Switch SRAM banks between CACHE, SCRATCH, FIFO and OFF. -/
  | bankcfg (o : OpE)
  /-- FPUSH (R192): Push a slot of a FIFO bank, waiting until it is empty in phase. -/
  | fpush (o : OpM)
  /-- FPOP (R192): Pop a slot of a FIFO bank, waiting until it is full in phase. -/
  | fpop (o : OpM)
  /-- FENCE (R198): Hold the split until earlier memory operations reach their completion points. -/
  | fence (o : OpE)
  /-- GBAR (R201): Group barrier over the live splits. -/
  | gbar (o : OpE)
  /-- NBARINIT (R205): Initialise a named barrier. -/
  | nbarinit (o : OpE)
  /-- NBARARR (R206): Arrive at a named barrier. -/
  | nbararr (o : OpE)
  /-- NBARWAIT (R207): Wait for a named barrier's phase to change. -/
  | nbarwait (o : OpE)
  /-- NBARSYNC (R208): Arrive at a named barrier and wait for the phase. -/
  | nbarsync (o : OpE)
  /-- MWATCH (R210): Arm the split's watch on a line. -/
  | mwatch (o : OpM)
  /-- MWAIT (R211): Sleep until the armed watch is triggered. -/
  | mwait (o : OpE)
  /-- WATCH_TRIGGER (R211): A write, invalidation, recall or capacity drop at the serving slice triggers a watch and wakes its sleeper. -/
  | watchTrigger (slice line : Nat)
  /-- TICKET (R213): Draw consecutive iteration numbers from a 64-bit counter. -/
  | ticket (o : OpM)
  /-- HENC (R226): Encode a rational as a Hensel code. -/
  | henc (o : OpA)
  /-- HDEC (R229): Recover numerator and denominator from a Hensel code. -/
  | hdec (o : OpA)
  /-- HADD (R225): Hensel code addition. -/
  | hadd (o : OpA)
  /-- HSUB (R225): Hensel code subtraction. -/
  | hsub (o : OpA)
  /-- HMUL (R225): Hensel code multiplication. -/
  | hmul (o : OpA)
  /-- HNEG (R225): Hensel code negation. -/
  | hneg (o : OpA)
  /-- HINV (R227): Hensel code inverse. -/
  | hinv (o : OpA)
  /-- HDIV (R227): Hensel code division. -/
  | hdiv (o : OpA)
  /-- HEQ (R228): Hensel code equality. -/
  | heq (o : OpA)
  /-- HDIG (R228): Digit of a code or its valuation. -/
  | hdig (o : OpA)
  /-- HNORM (R228): Canonical form, or narrowing of a wide code. -/
  | hnorm (o : OpA)
  /-- MMA (R245): Matrix multiply-accumulate into an accumulator. -/
  | mma (o : OpE)
  /-- MMAS (R246): Structured-sparse matrix multiply-accumulate. -/
  | mmas (o : OpE)
  /-- MMA_PERFORM (R241): The matrix engine performs a queued command on its accumulator and buffer in arrival order. -/
  | mmaPerform (core op : Nat)
  /-- ACQ (R240): Request an accumulator's token. -/
  | acq (o : OpE)
  /-- ACC_TOKEN_GRANT (R240): The token moves to the group once earlier commands complete and the engine holds it. -/
  | accTokenGrant (core op : Nat)
  /-- REL (R240): Return an accumulator's token. -/
  | rel (o : OpE)
  /-- ACCRD (R251): Read accumulator columns into registers. -/
  | accrd (o : OpE)
  /-- ACCRD_MEM (R252): Store a whole accumulator to memory with conversion. -/
  | accrdMem (o : OpE)
  /-- ACCWR (R251): Write registers into accumulator columns. -/
  | accwr (o : OpE)
  /-- ACCZ (R251): Zero an accumulator. -/
  | accz (o : OpE)
  /-- CMPR (R247): Compress to structured-sparse form with metadata. -/
  | cmpr (o : OpE)
  /-- MOPLD (R253): Load a B operand into an operand buffer. -/
  | mopld (o : OpE)
  /-- EBUDGET_REFILL (R249): Each reference period adds RATE to the budget up to CAP, releasing stalled issues in order. -/
  | ebudgetRefill (cluster : Nat)
  /-- CBCFG (R260): Configure a crossbar tile's mode, pool and ration. -/
  | cbcfg (o : OpE)
  /-- CBGATE (R274): Run one gate on a tile. -/
  | cbgate (o : OpE)
  /-- CBRUN (R274): Run a gate schedule over passes. -/
  | cbrun (o : OpE)
  /-- TILE_COMMAND_START (R270): A tile starts its next queued command when the previous one has finished. -/
  | tileCommandStart (tile : Nat)
  /-- CROSSBAR_GATE (R264): A tile performs one gate of a run, rotating scratch lines and admitting reads at the boundary. -/
  | crossbarGate (tile : Nat)
  /-- CBREAD (R275): Read a tile line into registers, possibly admitted during a run. -/
  | cbread (o : OpE)
  /-- CBWRITE (R276): Write tile lines from memory images. -/
  | cbwrite (o : OpE)
  /-- CBMAP (R277): Read a scratch map. -/
  | cbmap (o : OpE)
  /-- CBMAP_RESET (R277): Reset a scratch map to identity. -/
  | cbmapReset (o : OpE)
  /-- CBSTAT_ST (R278): Read a tile's status word. -/
  | cbstatSt (o : OpE)
  /-- CBSTAT_LIFE (R278): Read a line's lifetime counter. -/
  | cbstatLife (o : OpE)
  /-- CBSTAT_CAL (R298): Read CAL bits and the BAD row count. -/
  | cbstatCal (o : OpE)
  /-- CBSTAT_BAD (R298): Read a chunk of BAD bits. -/
  | cbstatBad (o : OpE)
  /-- CBSTAT_OVF (R298): Read a chunk of OVF bits. -/
  | cbstatOvf (o : OpE)
  /-- CBPROG (R295): Program weight rows with program-and-verify. -/
  | cbprog (o : OpE)
  /-- CBPROG_ROW (R289): The tile programs and verifies one row. -/
  | cbprogRow (tile : Nat) (verified : Bool)
  /-- CBCAL (R296): Calibrate named row blocks. -/
  | cbcal (o : OpE)
  /-- CBCAL_BLOCK (R290): The tile calibrates one row block and admits waiting reads and multiplies at its end. -/
  | cbcalBlock (tile : Nat)
  /-- CBMVM (R294): Matrix-vector multiply on a tile in a matrix-vector mode. -/
  | cbmvm (o : OpE)
  /-- CBMVM_PERFORM (R291): The tile checks rows, calibrates lapsed blocks, forms passes and writes exact results. -/
  | cbmvmPerform (tile : Nat)
  /-- CPY (R318): Start a copy described by a layout record. -/
  | cpy (o : OpE)
  /-- CPYL (R318): Start a copy with coordinates from the leader lane. -/
  | cpyl (o : OpE)
  /-- COPY_ACCEPT (R309): A copy is accepted when every destination line is in K. -/
  | copyAccept (cmd : Nat)
  /-- COPY_COMPLETE (R310): A copy's last write completes its tag count and lowers its barrier's byte count. -/
  | copyComplete (cmd : Nat)
  /-- TAGWANY (R312): Wait for any masked tag to be done. -/
  | tagwany (o : OpE)
  /-- TAGWALL (R312): Wait for every masked tag count to be zero. -/
  | tagwall (o : OpE)
  /-- TAGFIRST (R312): Report the lowest done masked tag without waiting. -/
  | tagfirst (o : OpE)
  /-- TAGCLR (R312): Clear DONE of masked tags. -/
  | tagclr (o : OpE)
  /-- TBINIT (R314): Initialise a transaction barrier. -/
  | tbinit (o : OpE)
  /-- TBARR (R314): Arrive at a transaction barrier, optionally adding bytes. -/
  | tbarr (o : OpE)
  /-- TBEXPECT (R314): Add expected bytes to a transaction barrier. -/
  | tbexpect (o : OpE)
  /-- TBWAIT (R320): Wait for a transaction barrier phase change. -/
  | tbwait (o : OpE)
  /-- TBINVAL (R315): Invalidate a transaction barrier, ending waits and detaching copies. -/
  | tbinval (o : OpE)
  /-- SRED (R335): Start one stack-side reduce command. -/
  | sred (o : OpE)
  /-- SREDB (R335): Start a batch of stack-side reduce commands. -/
  | sredb (o : OpE)
  /-- SRED_ACCEPT (R329): A reduce command is accepted when its output lines are in K. -/
  | sredAccept (cmd : Nat)
  /-- SRED_COMPUTE (R330): The engine gathers rows, reduces them, writes output and then the completion word. -/
  | sredCompute (cmd : Nat)
  /-- SRSTAT_CNT (R336): Read outstanding and error counts. -/
  | srstatCnt (o : OpE)
  /-- SRSTAT_ERR (R336): Read the last failing record address. -/
  | srstatErr (o : OpE)
  /-- SRSTAT_CODE (R336): Read the last failing status and position. -/
  | srstatCode (o : OpE)
  /-- SRSTAT_CLR (R336): Clear the crew's reduce error state. -/
  | srstatClr (o : OpE)
  /-- TSPAWN (R366): Insert a task record into a ready table. -/
  | tspawn (o : OpE)
  /-- INSERTION_QUEUE_DRAIN (R360): A waiting task in the insertion queue is inserted when a table entry frees. -/
  | insertionQueueDrain (die : Nat)
  /-- TCANCEL (R367): Remove matching ready entries. -/
  | tcancel (o : OpE)
  /-- EVSET (R368): Set or clear event-vector bits. -/
  | evset (o : OpE)
  /-- EVWAIT (R368): Wait for event-vector bits. -/
  | evwait (o : OpE)
  /-- LAUNCH (R369): Append a launch record to a queue. -/
  | launch (o : OpE)
  /-- LAUNCH_PUBLISH (R369): The task engine copies the record into its slot and advances TAIL in index order once room exists. -/
  | launchPublish (op : Nat)
  /-- RESNEW (R370): Allocate a residency handle. -/
  | resnew (o : OpE)
  /-- RESPRI (R370): Set a handle's priority. -/
  | respri (o : OpE)
  /-- RESEVICT (R370): Evict a handle's lines, optionally freeing it. -/
  | resevict (o : OpE)
  /-- RESDEMOTE (R370): Demote a handle and mark its lines as preferred victims. -/
  | resdemote (o : OpE)
  /-- RESQRY_TILE (R371): Read the cluster's residency entry for a tile. -/
  | resqryTile (o : OpE)
  /-- RESQRY_HND (R371): Read a residency handle. -/
  | resqryHnd (o : OpE)
  /-- RESQRY_SCORE (R371): Compute a task record's placement score here. -/
  | resqryScore (o : OpE)
  /-- RESDECL (R372): Add or release the crew's residency claims. -/
  | resdecl (o : OpE)
  /-- TRAP (R396): Raise a software trap. -/
  | trap (o : OpE)
  /-- RTT (R397): Return from the trap handler. -/
  | rtt (o : OpE)
  /-- PHINT (R398): Pre-emption point naming what to save. -/
  | phint (o : OpE)
  /-- BKPT (R396): Raise a breakpoint trap. -/
  | bkpt (o : OpE)
  /-- TLBINV (R399): Drop cached translations of a page range. -/
  | tlbinv (o : OpE)
  /-- TLBINV_ALL (R399): Drop every cached translation of the context. -/
  | tlbinvAll (o : OpE)
  /-- CTXSAVE (R400): Write the group's image to memory. -/
  | ctxsave (o : OpE)
  /-- CTXLOAD (R400): Load registers from a group image. -/
  | ctxload (o : OpE)
  /-- HALT (R401): Stop every group of the context and write a halt record. -/
  | halt (o : OpE)
  /-- GETK (R44): An engine takes a line as its destination. -/
  | getk (cmd : Nat)
  /-- ENDK (R44): An engine's last write to a line is done; queued requests proceed. -/
  | endk (cmd line : Nat)
  /-- EVC (R44): Drop a clean copy. -/
  | evc (slice line : Nat)
  /-- WBE (R44): Write back dirty sectors and drop an M copy. -/
  | wbe (slice line : Nat)
  /-- INVALIDATE (R44): A serving slice invalidates its clusters' copies of a line and acknowledges. -/
  | invalidate (slice line : Nat)
  /-- INV_ACK (R44): An invalidation acknowledgement reaches the home; the last one ends the transaction. -/
  | invAck (slice line : Nat)
  /-- FWD (R44): The owner slice acts on a forwarded request and answers the home. -/
  | fwd (line : Nat)
  /-- FWD_ANSWER (R44): The owner's answer reaches the home and decides the next state. -/
  | fwdAnswer (line : Nat)
  /-- VERSION_SPILL (R384): A held version line spills to the version log, or the log is full and the version is discarded. -/
  | versionSpill (unit line : Nat)
  /-- CACHE_EVICT (R356): A line leaves the cluster cache, writing back dirty NC sectors and updating residency. -/
  | cacheEvict (cluster line : Nat)
  /-- QUEUE_TAIL_READ (R341): The command processor woken on a queue header reads TAIL and a new record and forwards it. -/
  | queueTailRead (ctx q : Nat)
  /-- LAUNCH_RECORD_FORWARD (R341): A command processor receives a launch record with its queue and index from the home die. -/
  | launchRecordForward (die : Nat)
  /-- LAUNCH_ADMIT (R341): A die admits the next record in index order, checks it and advances DONEd. -/
  | launchAdmit (die ctx q : Nat)
  /-- LAUNCH_REGISTRATION (R346): The event home registers an admitted launch and starts those whose wait masks are set. -/
  | launchRegistration (launch : Nat)
  /-- EVENT_UPDATE (R345): The event home applies an event or handle update and sends it with any launch starts to every die. -/
  | eventUpdate (die : Nat)
  /-- DISTRIBUTION_REPORT (R347): The registering die receives a die's count of units taken. -/
  | distributionReport (launch die : Nat)
  /-- LAUNCH_END (R347): When the live count is zero and versions settled, held writes are released, DONEW written, MSI-X signalled and the set mask applied. -/
  | launchEnd (launch : Nat)
  /-- CREW_START (R360): A crew starts on the best cluster where it can start whole. -/
  | crewStart (die : Nat)
  /-- TASK_DISPATCH (R361): A cluster chooses a READY entry and creates its group. -/
  | taskDispatch (cluster : Nat)
  /-- STEAL (R363): An idle cluster starts stealing a startable entry from the richest cluster of its die. -/
  | steal (thief : Nat)
  /-- STEAL_COPY (R363): The thief receives the entry copy, inserts it PENDING and sends ACK. -/
  | stealCopy (die : Nat)
  /-- STEAL_ACK (R363): The victim accepts ACK, removes the entry and sends CONFIRM. -/
  | stealAck (die : Nat)
  /-- STEAL_CONFIRM (R363): On CONFIRM the PENDING entry becomes READY. -/
  | stealConfirm (die : Nat)
  /-- GROUP_RETIRE (R23): A group retires when every split has exited and all flags are clear. -/
  | groupRetire (g : Nat)
  /-- CREW_RETIRE (R23): A crew retires when its groups retired and its commands completed, releasing its resources. -/
  | crewRetire (crew : Nat)
  /-- TASK_COMPLETION (R351): The task engine takes successor lines, checks, commits and decrements counters, releasing tasks at zero. -/
  | taskCompletion (crew : Nat)
  /-- GROUP_STOP (R388): The save engine stops a group at a pre-emption point once its operations completed. -/
  | groupStop (g : Nat)
  /-- CREW_SAVE (R390): When all groups of a crew have stopped, their images and crew state are saved. -/
  | crewSave (crew : Nat)
  /-- CREW_RESUME (R391): A saved crew is restored where it can start whole, tokens, tags and barriers included. -/
  | crewResume (crew : Nat)
  /-- TIME_SLICE_EXPIRY (R392): A crew's time slice expires and makes a pre-emption request if others wait for the cluster. -/
  | timeSliceExpiry (crew : Nat)
  /-- FAULT_RECORD_WRITE (R381): A waiting fault record is written when the ring has room and PROD advances. -/
  | faultRecordWrite (ctx : Nat)
  /-- REPLY_RETRY (R382): Driver REPLY 1: parked groups retry or continue. -/
  | replyRetry (ctx record : Nat)
  /-- REPLY_DELIVER (R382): Driver REPLY 2: the trap is delivered to the handler. -/
  | replyDeliver (ctx record : Nat)
  /-- REPLY_END (R382): Driver REPLY 3: the parked groups end. -/
  | replyEnd (ctx record : Nat)
  /-- REPLY_RESUME (R382): Driver REPLY 4: halted groups continue or the context is switched in. -/
  | replyResume (ctx record : Nat)
  /-- PARKED_SHARE_SWITCH (R394): Too many parked groups switch the context out with a KIND 4 record. -/
  | parkedShareSwitch (ctx : Nat)
  /-- REPLAY (R404): A replayable launch that consumed an uncorrectable error is ended, rolled back and admitted again. -/
  | replay (due : ReplayDue)
  /-- REDUNDANT_COMPARE (R409): When both copies end their signatures are compared; commit, rerun or fatal. -/
  | redundantCompare (crew : Nat)
  /-- REGISTER_CONTEXT (R375): CTXCMD operation 1 registers a context descriptor. -/
  | registerContext (ctx : Nat)
  /-- RE_REGISTER_CONTEXT (R380): CTXCMD operation 2 re-reads the descriptor and drops the context's translations. -/
  | reRegisterContext (ctx : Nat)
  /-- TEAR_DOWN_CONTEXT (R411): CTXCMD operation 3 tears down a context once its commands end, tiles and FIFO banks are released. -/
  | tearDownContext (ctx : Nat)
  /-- ERROR_RECORD_WRITE (R414): A die writes an error record to the host ring, advances ERRPROD and signals vector 0. -/
  | errorRecordWrite (die : Nat)
  /-- CONTAINMENT (R415): A class 2 error stops all work, writes black boxes and sends ERR_FATAL. -/
  | containment (die : Nat)
  /-- SPURIOUS_WAKE (R30): A split sleeping in MWAIT wakes with no write or invalidation of the watched line behind it, and the wake gives no sbw edge. -/
  | spuriousWake (g n : Nat)
  /-- DRIFT_MONITOR (R290): A tile's drift monitor clears a block's CAL bit when its references drift. -/
  | driftMonitor (tile block : Nat)
  /-- RDS (R44): Directory read for caching. -/
  | rds (slice line : Nat)
  /-- RDU (R44): Directory read without keeping a copy. -/
  | rdu (sender line : Nat) (engine : Bool)
  /-- WR (R44): Byte-masked write at the home. -/
  | wr (slice cluster : Option Nat) (pa : Nat) (bytes : List Byte)
  /-- DIRTY (R44): Notice of the first write to a line held in E. -/
  | dirty (slice line : Nat)
  /-- VWR (R44): First write of a line by a versioned unit. -/
  | vwr (unit line : Nat)
  /-- CMT (R44): Commit of a versioned unit applied to one line. -/
  | cmt (unit line : Nat)
  /-- DIS (R44): Discard of a versioned unit applied to one line. -/
  | dis (unit line : Nat)
  /-- RECALL (R49): The snoop filter frees an entry by recalling its line. -/
  | recall (line : Nat)
  /-- CACHE_FILL (R356): A line fills into the cluster cache and its residency entry counts it. -/
  | cacheFill (cluster line ctx tile : Nat)
  /-- BAR0_WRITE (R411): Host write to a BAR0 register with no behaviour of its own. -/
  | bar0Write (off val : Nat)
  /-- HOST_READ (R411): Host read of device memory through BAR2. -/
  | hostRead (addr len : Nat)
  /-- HOST_WRITE (R411): Host write of device memory through BAR2. -/
  | hostWrite (addr : Nat) (bytes : List Byte)
  /-- INBOUND_FABRIC_REQUEST (R427): An inbound fabric request is performed at the target's home slice. -/
  | inboundFabricRequest (peer : Peer) (addr kind len operand cmp : Nat) (bytes : List Byte)
  /-- FABRIC_WRITE_NOT_ACCEPTED (R426): A fabric write not accepted after retries is fatal. -/
  | fabricWriteNotAccepted (die port node : Nat)
  /-- MEMORY_ERROR_CORRECTED (R412): A corrected memory error makes a class 0 record. -/
  | memoryErrorCorrected (die addr : Nat)
  /-- HOST_LINK_REPLAY (R412): A host link replay makes a class 0 record. -/
  | hostLinkReplay (die : Nat)
  /-- DIE_TO_DIE_FLIT_RETRY (R412): A die-to-die flit retry makes a class 0 record. -/
  | dieToDieFlitRetry (die pair : Nat)
  /-- FABRIC_FLIT_RETRY (R412): A fabric flit retry makes a class 0 record. -/
  | fabricFlitRetry (die port : Nat)
  /-- UNCORRECTABLE_ERROR (R412): An uncorrectable error is detected and classed as recovered by replay or fatal. -/
  | uncorrectableError (die : Nat) (site : ErrSite) (use : ErrUse)
  /-- HOT_RESET (R416): A hot or link-down reset returns the device to its power-on state except black boxes and crossbar cells. -/
  | hotReset
  /-- RETENTION_ENTER (R418): An idle cluster enters retention at the power controller's choice. -/
  | retentionEnter (cluster : Nat)
  /-- RETENTION_EXIT (R418): A cluster leaves retention when work is placed on it, cold-resetting if state was lost. -/
  | retentionExit (cluster : Nat) (lost : Bool)
  /-- POWER_RATE_UPDATE (R420): The power controller sets RATE and CAPK of every share. -/
  | powerRateUpdate (ctx cluster : Nat) (cap : ShareCap) (power : PowerReading)
  /-- NODE_CAP_MESSAGE (R422): A node manager's MCTP message sets the node cap. -/
  | nodeCapMessage (watts : Nat)
  /-- WATCHDOG_EXPIRY (R424): A missed watchdog service forces fail-safe rates and a 2,000 W cap. -/
  | watchdogExpiry
  /-- FIRMWARE_UPDATE_START (R424): The start of a power firmware update triggers the watchdog's fail-safe. -/
  | firmwareUpdateStart
  /-- WATCHDOG_SERVICE (R424): The firmware services the watchdog; after a restart its values return and FAILSAFE clears. -/
  | watchdogService
  /-- DROOP_STRETCH (R421): A supply droop stretches a cluster's clock until it recovers. -/
  | droopStretch (cluster : Nat)
  /-- SERIES_PAIR_OVERCURRENT (R423): An imbalance beyond the shunt or a pair current above rating stretches clocks. -/
  | seriesPairOvercurrent (die pair : Nat) (both released : Bool)
  /-- THERMAL_TRIP (R424): A sensor at 115 degrees C stops the clocks as a fatal event. -/
  | thermalTrip (die sensor : Nat)
  /-- BOOT_STAGE_VERIFY (R429): A firmware stage is verified and measured before it runs, or rejected into boot-failure state. -/
  | bootStageVerify (die stage : Nat) (digest : BitVec 384) (verified rollback : Bool)
  /-- GET_VERSION (R430): SPDM GET_VERSION request. -/
  | getVersion (mctp : Bool)
  /-- GET_CAPABILITIES (R430): SPDM GET_CAPABILITIES request. -/
  | getCapabilities (mctp : Bool)
  /-- NEGOTIATE_ALGORITHMS (R430): SPDM NEGOTIATE_ALGORITHMS request. -/
  | negotiateAlgorithms (mctp : Bool)
  /-- GET_DIGESTS (R430): SPDM GET_DIGESTS request. -/
  | getDigests (mctp : Bool)
  /-- GET_CERTIFICATE (R430): SPDM GET_CERTIFICATE request. -/
  | getCertificate (mctp : Bool)
  /-- CHALLENGE (R430): SPDM CHALLENGE request, answered with a signed response. -/
  | challenge (mctp : Bool) (nonce : BitVec 384)
  /-- GET_MEASUREMENTS (R430): SPDM GET_MEASUREMENTS request reporting the running firmware's measurements. -/
  | getMeasurements (mctp : Bool)
  /-- POWER_ON (R416): The return of power brings the device to its power-on state: cores and clusters are cold-reset, the black-box SEQ counters restart, and boot begins. -/
  | powerOn
  /-- DROOP_RELEASE (R421): When the supply recovers from a droop, the detector releases the stretch of that cluster's clock. -/
  | droopRelease (cluster : Nat)
  deriving DecidableEq, Repr

end Sys2Proof
end

