-- ==== Sys2Proof/Machine/Shape.lean ====
section
/-! DEFINITION. What each entry of the manual accepts in the fields of its format: the files and widths of its operands,
its types, roundings and modes. The encoding checks (orders 5 and 6 of Table 04-16), the register bounds (order 7) and
REP's stepping rule (R99) are all read from these shapes. -/

namespace Sys2Proof

/-- Elements a 32-bit register holds in an element type (R143): 2, 4 or 8. -/
def Ty.perWord : Ty → Nat
  | .f16 | .bf16 | .dflt => 2
  | .e2m1 => 8
  | _ => 4

/-- SUB as a number. -/
def OpA.subN (o : OpA) : Nat := o.sub.toNat

/-- SUB[5:3]. -/
def OpA.subHi (o : OpA) : Nat := o.sub.toNat / 8

/-- SUB[2:0]. -/
def OpA.subLo (o : OpA) : Nat := o.sub.toNat % 8

/-- Registers of a Hensel code: SUB[0] selects wide codes (R223). -/
def OpA.hw (o : OpA) : Nat := if o.sub.getLsbD 0 then 4 else 2

/-- The type is the unsigned .n32. -/
def OpA.isN32 (o : OpA) : Bool := o.typ == .n32

/-- The register that SRC0 names. -/
def OpA.areg (o : OpA) : Nat := match o.a with
  | .reg n => n
  | .code _ => 0

/-- A mode bit. -/
def OpE.bit (o : OpE) (i : Nat) : Bool := o.mode.getLsbD i

/-- MODE[hi:lo] as a number. -/
def OpE.bits (o : OpE) (hi lo : Nat) : Nat := o.mode.toNat / 2 ^ lo % 2 ^ (hi + 1 - lo)

/-- Registers that an ACCRD or ACCWR moves: MODE[11:6] + 1 (Table 10-7). -/
def OpE.cnt (o : OpE) : Nat := o.bits 11 6 + 1

/-- The codes a format-A word carries in the fields that an entry uses. -/
def Src.lit? : Src → Option Nat
  | .code c => if c = 0x17E ∨ c = 0x17F then some c else none
  | .reg _ => none

/-- A word carries a literal code in some source field, used or not (R100). -/
def OpA.carriesLit (o : OpA) : Bool := o.a.lit?.isSome || o.b.lit?.isSome || o.c.lit?.isSome

def Ty.isRsv : Ty → Bool
  | .rsv _ => true
  | _ => false

def Rnd.isRsv : Rnd → Bool
  | .rsv _ => true
  | _ => false

/-- The code of a rounding (R91). -/
def Rnd.code : Rnd → Nat
  | .rn => 0 | .rz => 1 | .rd => 2 | .ru => 3 | .sr => 4 | .rsv c => c

def Src.bump (f : Src) (k : Nat) : Src := match f with
  | .reg n => .reg (n + k)
  | .code c => .code c

end Sys2Proof

namespace Sys2Proof.Machine

/-- A trap cause (Table 16-2). -/
abbrev Cause := Nat

/-- What a source field holds: nothing, a register only, a constant code only, or either; with its width in
registers. -/
inductive Use where
  | none
  | reg (w : Nat)
  | con (w : Nat)
  | any (w : Nat)
  deriving DecidableEq, Repr

/-- A format-E or format-M register field: zero, a number that is no operand of a file, or an operand of the named
file. `v` and `s` carry the width in registers and the alignment of the first index. -/
inductive File where
  | zero
  | num
  | v (w al : Nat)
  | s (w al : Nat)
  | acc | flag | tag | bar | tile | buf
  deriving DecidableEq, Repr

/-- Format A: destination, sources, accepted types and roundings, defined SUB bits, and the entry's further encoding
failures of cause 0x01 and 0x02. -/
structure ShA where
  o : OpA
  sOk : Bool := false
  d : File
  a : Use
  b : Use := .none
  c : Use := .none
  tys : List Ty := []
  dflt : Bool := true
  rnd : Nat := 0
  mask : BitVec 6 := 0
  bad1 : Bool := false
  bad2 : Bool := false
  /-- An exact-rational entry, whose TYP must be 0 (R223). -/
  hens : Bool := false

/-- Format M. -/
structure ShM where
  o : OpM
  d : File
  bs : List Bool := [false, true]
  wts : List Nat
  scs : List Nat := [4]
  cps : List Nat := [0]
  atomic : Bool := false
  bad1 : Bool := false
  bad2 : Bool := false

/-- Format E: the four fields, whether FS is used, the defined MODE bits. -/
structure ShE where
  o : OpE
  d : File := .zero
  a : File := .zero
  b : File := .zero
  c : File := .zero
  fs : Bool := false
  mask : BitVec 17 := 0
  bad1 : Bool := false
  bad2 : Bool := false

/-- Bytes of a WT code (Table 07-2). -/
def wtBytes (wt : Nat) : Nat := match wt with
  | 0 | 1 => 1 | 2 | 3 => 2 | 4 => 4 | 5 => 8 | _ => 16

/-- Registers that hold a WT's data. -/
def wtRegs (wt : Nat) : Nat := match wt with
  | 5 => 2 | 6 => 4 | _ => 1

/-- The special registers that Tables 05-12, 09-2, 10-1 and 16-3 assign (R139). -/
def srAssigned (n : Nat) : Bool :=
  decide (n ≤ 0x18) || (decide (0x20 ≤ n) && decide (n ≤ 0x26)) || (decide (0x30 ≤ n) && decide (n ≤ 0x3B))

/-- Two-source integer and logic entries of block 0x00 that also have a scalar form. -/
def shInt (o : OpA) (tys : List Ty) (mask : BitVec 6) (b : Use := .any 1) (c : Use := .none) (bad2 : Bool := false) :
    ShA :=
  { o, sOk := true, d := if o.s then .s 1 1 else .v 1 1, a := .any 1, b, c, tys, mask, bad2 }

/-- The destination of a format-A entry with a scalar form, `w` registers wide. -/
def dOf (o : OpA) (w : Nat) : File := if o.s then .s w w else .v w w

/-- Entries of block 0x40 (R154). -/
def shFp (o : OpA) (tys : List Ty) (rnd : Nat) (mask : BitVec 6) (b : Use := .none) (c : Use := .none)
    (bad2 : Bool := false) : ShA :=
  { o, sOk := true, d := dOf o 1, a := .any 1, b, c, tys, rnd, mask, bad2 }

/-- SUB with the bits a slot form uses: all of them where SUB[2:0] names the slot and [5:3] holds a number. -/
def slotMask (o : OpA) (expl slot : BitVec 6) : BitVec 6 := if o.typ = .slot then slot else expl

/-- The format-A entries: chapters 05, 06 and 09. -/
def shapeA : Instr → Option ShA
  -- integer arithmetic (R124)
  | .iadd o | .isub o | .imul o => some (shInt o [.i32, .n32] 1)
  | .imulh o | .imin o | .imax o => some (shInt o [.i32, .n32] 0)
  | .imad o => some (shInt o [.i32, .n32] 1 (c := .any 1))
  | .iabs o | .ineg o => some (shInt o [.i32] 1 (b := .none))
  | .iaddc o => some (shInt o [.n32] 1 (c := .any 1))
  -- comparison and selection (R125)
  | .icmp o => some (shInt o [.i32, .n32] 7 (bad2 := decide (5 < o.subLo)))
  | .sel o => some (shInt o [.b32] 0 (c := .any 1))
  -- shifts and logic (R126)
  | .shl o | .shr o | .sar o | .rol o | .and o | .or o | .xor o | .andn o => some (shInt o [.b32] 0)
  | .not o => some (shInt o [.b32] 0 (b := .none))
  -- bit fields and counts (R127)
  | .bfx o => some (shInt o [.n32, .i32] 0 (c := .any 1))
  | .bfi o => some (shInt o [] 0 (c := .any 1))
  | .popc o | .clz o | .brev o => some (shInt o [] 0 (b := .none))
  -- addresses and moves (R128, R129)
  | .lea o => some { o, sOk := true, d := dOf o 2, a := .any 2, b := .any 1, tys := [.i32, .n32], mask := 63 }
  | .add64 o => some { o, sOk := true, d := dOf o 2, a := .any 2, b := .any 2 }
  | .mov o =>
    let w := if o.typ = .b64 then 2 else 1
    some { o, sOk := true, d := dOf o w, a := .any w, tys := [.b32, .b64] }
  | .movi o =>
    let w := if o.typ = .b64 then 2 else 1
    some { o, sOk := true, d := dOf o w, a := .con w, tys := [.b32, .b64] }
  | .movs o => some (shInt o [.i16, .i8, .n16, .n8] 0 (b := .none))
  -- cross-lane (R130 to R132)
  | .lperm o | .lpush o => some { o, d := .v 1 1, a := .reg 1, b := .any 1 }
  | .lbcast o => some { o, d := .v 1 1, a := .reg 1, b := .con 1 }
  | .lshfl o => some { o, d := .v 1 1, a := .reg 1, b := .con 1, mask := 3 }
  | .lscan o =>
    some { o, d := .v 1 1, a := .reg 1, tys := [.i32, .n32], mask := 15, bad2 := decide (5 < o.subLo) }
  | .lred o =>
    some { o, d := .v 1 1, a := .reg 1, tys := [.i32, .n32], mask := 7, bad2 := decide (5 < o.subLo) }
  | .lvote o => some { o, d := .s 3 1, a := .reg 1, mask := 3, bad2 := decide (o.subN % 4 = 3) }
  | .firstlane o => some { o, d := .s 1 1, a := .reg 1, mask := 1 }
  -- register growth (R137, R138) and special registers (R139)
  | .reggrow o => some { o, d := .s 1 1, a := .con 1 }
  | .regshrink o => some { o, d := .zero, a := .con 1 }
  | .sread o =>
    some { o, d := if o.subN = 0 then .v 1 1 else .s 1 1, a := .none, mask := 63, bad1 := !srAssigned o.subN }
  | .swrite o => some { o, d := .zero, a := .con 1, mask := 63, bad1 := !srAssigned o.subN }
  -- FP32 (R155 to R161)
  | .fadd o | .fsub o | .fmul o => some (shFp o [.f32] 3 0 (b := .any 1))
  | .ffma o => some (shFp o [.f32] 3 1 (b := .any 1) (c := .any 1))
  | .fmin o | .fmax o => some (shFp o [.f32] 0 0 (b := .any 1))
  | .fcmp o => some (shFp o [.f32] 0 7 (b := .any 1) (bad2 := decide (o.subLo = 7)))
  | .fclass o => some (shFp o [.f32] 0 0)
  | .frnd o => some (shFp o [] 3 0)
  | .ftoi o | .itof o => some (shFp o [.i32, .n32] 3 0)
  | .rcpseed o | .rsqseed o | .lg2seed o | .ex2seed o => some (shFp o [.f32] 0 0)
  | .rrpi o | .rrln2 o => some (shFp o [.f32] 0 1)
  | .fexp o | .fmant o => some (shFp o [.f32] 0 0)
  | .ldexp o => some (shFp o [.f32] 3 0 (b := .any 1))
  -- conversion and packing (R162, R163)
  | .cvt o =>
    some (shFp o [.f32, .f16, .bf16, .e4m3, .e5m2, .e2m1, .i8, .slot] 4 (slotMask o 0b111001 63)
      (bad2 := decide (o.subHi = 7)))
  | .pk o =>
    some (shFp o [.bf16, .f16, .e4m3, .e5m2, .e2m1, .i8, .slot] 4 (slotMask o 0b111001 63) (b := .any 1)
      (c := .any 1) (bad2 := o.typ != .slot && decide (o.typ.perWord ≤ 2 * o.subHi)))
  | .unpk o =>
    some (shFp o [.bf16, .f16, .e4m3, .e5m2, .e2m1, .i8, .slot] 0 (slotMask o 0b111000 63)
      (bad2 := o.typ != .slot && decide (o.typ.perWord ≤ o.subHi)))
  -- packed arithmetic and dot products (R164, R165)
  | .hadd2 o | .hmul2 o => some (shFp o [.f16, .bf16] 3 0 (b := .any 1))
  | .hfma2 o => some (shFp o [.f16, .bf16] 3 0 (b := .any 1) (c := .any 1))
  | .dot4 o =>
    some (shFp o [.e4m3, .e5m2, .i8, .slot] 0 (slotMask o 1 7) (b := .any 1) (c := .any 1)
      (bad2 := o.typ != .slot && o.typ != .i8 && o.sub.getLsbD 0))
  | .dot8 o =>
    some (shFp o [.e2m1, .slot] 0 (slotMask o 1 7) (b := .any 1) (c := .any 1)
      (bad2 := o.typ != .slot && o.sub.getLsbD 0))
  | .dots o =>
    some (shFp o [.bf16, .f16, .slot] 0 (slotMask o 1 7) (b := .any 1) (c := .any 1)
      (bad2 := o.typ != .slot && o.sub.getLsbD 0))
  -- scales and quantisation (R166)
  | .scale o => some (shFp o [] 3 0b011000 (b := .any 1))
  | .amaxb o => some (shFp o [.f32] 0 7 (bad2 := decide (5 < o.subLo)))
  | .qnt o =>
    some { o, sOk := true, d := dOf o 1, a := .any 1, b := .any 1, c := .any 1, tys := [.slot], dflt := false,
           mask := 63 }
  -- exact rationals (R223, R224)
  | .henc o => some { o, d := .v o.hw o.hw, a := .any (o.hw / 2), b := .any (o.hw / 2), mask := 1, hens := true }
  | .hdec o => some { o, d := .v o.hw o.hw, a := .reg o.hw, mask := 3, hens := true }
  | .hadd o | .hsub o | .hmul o | .hdiv o =>
    some { o, d := .v o.hw o.hw, a := .reg o.hw, b := .reg o.hw, mask := 1, hens := true }
  | .hneg o | .hinv o => some { o, d := .v o.hw o.hw, a := .reg o.hw, mask := 1, hens := true }
  | .heq o => some { o, d := .v 1 1, a := .reg o.hw, b := .reg o.hw, mask := 1, hens := true }
  | .hdig o =>
    let i := o.subN / 2 % 4
    some { o, d := .v 1 1, a := .reg o.hw, mask := 15, hens := true,
           bad2 := decide (o.hw ≤ i) || (o.sub.getLsbD 3 && decide (i ≠ 0)) }
  | .hnorm o =>
    let w := if o.sub.getLsbD 1 then 2 else o.hw
    some { o, d := .v w w, a := .reg o.hw, mask := 3, hens := true, bad1 := o.sub.getLsbD 1 && !o.sub.getLsbD 0 }
  | _ => none

/-- Whether an atomic operation accepts a width (Table 07-5). -/
def aopWt (aop wt : Nat) : Bool :=
  if aop = 10 ∨ aop = 11 ∨ aop = 12 then wt == 4 else if aop = 13 then wt == 5 else wt == 4 || wt == 5

/-- Registers that D names in an atomic: compare and new value for .cas (R178). -/
def atomD (o : OpM) : File :=
  let w := wtRegs o.wt
  if o.aop = 9 then .v (2 * w) (2 * w) else .v w w

/-- The format-M entries: Tables 07-1 and 08-1. -/
def shapeM : Instr → Option ShM
  | .ld o | .st o => some { o, d := .v (wtRegs o.wt) (wtRegs o.wt), wts := [0, 1, 2, 3, 4, 5, 6], cps := [0, 1, 2] }
  | .lds o | .sts o => some { o, d := .v (wtRegs o.wt) (wtRegs o.wt), wts := [0, 1, 2, 3, 4, 5, 6] }
  | .atom o | .red o =>
    some { o, d := atomD o, wts := [4, 5], scs := [0, 1, 2, 3, 4, 5], atomic := true, bad1 := !aopWt o.aop o.wt }
  | .pref o => some { o, d := .zero, wts := [0], cps := [0, 1, 2] }
  | .cwb o | .cinv o => some { o, d := .zero, wts := [0] }
  | .fpush o | .fpop o =>
    some { o, d := .v 1 1, bs := [true], wts := [4], bad2 := decide (32 ≤ o.off.toNat) }
  | .mwatch o => some { o, d := .zero, wts := [0] }
  | .ticket o => some { o, d := .v 2 2, bs := [true], wts := [5], scs := [0, 1, 2, 3, 4, 5] }
  | _ => none

/-- The format-E entries: Tables 07-6, 08-1, 10-7, 11-6, 12-3, 13-6, 14-4, 15-9 and 16-8. -/
def shapeE : Instr → Option ShE
  | .exit o | .nop o | .yield o => some { o }
  | .bankcfg o => some { o, a := .s 1 1, mask := 3 }
  | .fence o | .gbar o => some { o, mask := 7, bad2 := decide (5 < o.bits 2 0) }
  | .nbarinit o => some { o, d := .bar, mask := 127, bad1 := o.bits 6 4 == 0, bad2 := decide (5 < o.bits 6 4) }
  | .nbararr o => some { o, d := .bar, a := if o.bit 0 then .s 1 1 else .zero, mask := 1 }
  | .nbarwait o => some { o, d := .bar, a := .s 1 1 }
  | .nbarsync o => some { o, d := .bar }
  | .mwait o => some { o }
  | .mma o => some { o, d := .acc, a := .v 1 1, b := .buf, c := .v 1 1, fs := true, mask := 0b11101111 }
  | .mmas o => some { o, d := .acc, a := .v 1 1, b := .buf, c := .v 1 1, fs := true, mask := 0b11111111 }
  | .acq o | .rel o | .accz o => some { o, d := .acc }
  | .accrd o =>
    some { o, d := .v o.cnt 1, a := .acc, mask := 0xFFF, bad2 := decide (64 < o.bits 5 0 + o.cnt) }
  | .accrdMem o => some { o, d := .s 2 2, a := .acc, c := .s 1 1, fs := true, mask := 0x1000 }
  | .accwr o =>
    some { o, d := .acc, a := .v o.cnt 1, mask := 0xFFF, bad2 := decide (64 < o.bits 5 0 + o.cnt) }
  | .cmpr o => some { o, d := .v 1 1, a := .v 2 2, c := .v 1 1, fs := true, mask := 15 }
  | .mopld o => some { o, d := .buf, a := .s 2 2, fs := true, mask := 1 }
  | .cbcfg o => some { o, d := .tile, a := .s 1 1 }
  | .cbgate o => some { o, d := .tile, a := .s 2 2 }
  | .cbrun o => some { o, d := .tile, a := .s 2 2, b := .s 1 1, mask := 0x1FFFF }
  | .cbread o =>
    some { o, d := .v 1 1, a := .tile, c := if o.bit 10 then .s 1 1 else .zero, mask := 0xFFF,
           bad1 := o.bit 10 && o.bit 11 }
  | .cbwrite o =>
    some { o, d := .tile, a := .s 2 2, mask := 0xFFFF, bad2 := decide (512 < o.bits 8 0 + o.bits 14 9 + 1) }
  | .cbmap o => some { o, d := .v 1 1, a := .tile, mask := 1 }
  | .cbmapReset o => some { o, a := .tile, mask := 3 }
  | .cbstatSt o | .cbstatCal o => some { o, d := .s 2 2, a := .tile, mask := 7 }
  | .cbstatLife o | .cbstatBad o | .cbstatOvf o => some { o, d := .s 2 2, a := .tile, c := .s 1 1, mask := 7 }
  | .cbprog o => some { o, d := .tile, a := .s 2 2, b := .s 1 1 }
  | .cbcal o => some { o, d := .tile, mask := 0xFF }
  | .cbmvm o => some { o, d := .s 1 1, a := .s 2 2, b := .s 2 2, c := .s 2 2, fs := true, mask := 0xFF }
  | .cpy o => some { o, d := .tag, a := .s 2 2, c := if o.bit 0 then .s 2 2 else .zero, mask := 1 }
  | .cpyl o =>
    some { o, d := .tag, a := .v 2 2, b := .v (if o.bit 1 then 8 else 4) 4,
           c := if o.bit 0 then .s 2 2 else .zero, mask := 3 }
  | .tagwany o | .tagfirst o => some { o, d := .s 1 1, a := .s 2 2, mask := 1 }
  | .tagwall o | .tagclr o => some { o, a := .s 2 2 }
  | .tbinit o | .tbexpect o => some { o, a := .s 2 2, b := .s 1 1 }
  | .tbarr o =>
    some { o, d := if o.bit 1 then .s 1 1 else .zero, a := .s 2 2, b := if o.bit 0 then .s 1 1 else .zero,
           mask := 3 }
  | .tbwait o => some { o, d := .s 1 1, a := .s 2 2, c := .s 1 1, mask := 1 }
  | .tbinval o => some { o, a := .s 2 2 }
  | .sred o => some { o, a := .s 2 2 }
  | .sredb o => some { o, a := .s 2 2, b := .s 1 1 }
  | .srstatCnt o | .srstatErr o | .srstatCode o => some { o, d := .s 2 2, mask := 3 }
  | .srstatClr o => some { o, mask := 3 }
  | .tspawn o => some { o, a := .s 2 2 }
  | .tcancel o => some { o, d := .s 1 1, a := .s 1 1 }
  | .evset o => some { o, a := .s 2 2, mask := 7 }
  | .evwait o => some { o, d := .s 2 2, a := .s 2 2, mask := 3 }
  | .launch o => some { o, a := .s 2 2, mask := 7 }
  | .resnew o => some { o, d := .s 1 1, a := .s 2 2, b := .s 1 1 }
  | .respri o => some { o, a := .s 1 1, mask := 15 }
  | .resevict o => some { o, a := .s 1 1, mask := 1 }
  | .resdemote o => some { o, a := .s 1 1 }
  | .resqryTile o => some { o, d := .s 2 2, a := .s 2 2, mask := 3 }
  | .resqryHnd o => some { o, d := .s 4 4, a := .s 1 1, mask := 3 }
  | .resqryScore o => some { o, d := .s 1 1, a := .s 2 2, mask := 3 }
  | .resdecl o => some { o, a := .s 2 2, b := .s 1 1, mask := 1 }
  | .trap o | .bkpt o => some { o, mask := 0xFF }
  | .rtt o | .halt o => some { o }
  | .phint o => some { o, a := .s 2 2, b := .s 1 1, c := .s 1 1 }
  | .tlbinv o => some { o, a := .s 2 2, b := .s 1 1, mask := 1 }
  | .tlbinvAll o => some { o, mask := 1 }
  | .ctxsave o | .ctxload o => some { o, a := .s 2 2 }
  | _ => none

/-! ### Encoding checks -/

/-- A used source field's failure of cause 0x01: a kind the entry forbids, a bad pair or quad index, 0x17F or an odd
s-index on a 64-bit source (R92, R101). -/
def Use.bad1 (u : Use) (f : Src) : Bool := match u, f with
  | .none, _ => false
  | .reg _, .code _ => true
  | .con _, .reg _ => true
  | .reg w, .reg n => n % w != 0
  | .any w, .reg n => n % w != 0
  | .con w, .code c | .any w, .code c =>
    decide (1 < w) && (c == 0x17F || (decide (0x180 ≤ c) && c % 2 == 1))

/-- A source field's failure of cause 0x02: a reserved constant code, or an unused field that is not zero. -/
def Use.bad2 (u : Use) (f : Src) : Bool := match u, f with
  | .none, f => f != .reg 0
  | _, .code c => decide (0x110 ≤ c) && decide (c ≤ 0x17D)
  | _, _ => false

/-- Literal halves that a used source reads: (L0, L1). -/
def Use.lits (u : Use) (f : Src) : Bool × Bool := match u, f with
  | .none, _ | _, .reg _ => (false, false)
  | .con w, .code c | .any w, .code c | .reg w, .code c =>
    (c == 0x17E, c == 0x17F || (c == 0x17E && decide (1 < w)))

/-- An operand field's failure of cause 0x01: beyond its file, or a bad first index (R98, R101). -/
def File.bad1 (f : File) (n : Nat) : Bool := match f with
  | .v _ al | .s _ al => n % al != 0
  | .acc => decide (15 < n)
  | .flag => decide (11 < n)
  | .tag => decide (63 < n)
  | .bar => decide (31 < n)
  | .tile => decide (63 < n)
  | .buf => decide (3 < n)
  | _ => false

/-- A field that must be zero and is not (cause 0x02). -/
def File.bad2 (f : File) (n : Nat) : Bool := f == .zero && n != 0

/-- Registers beyond the group's count, or an s-index of 128 or more: cause 0x03 (R94, R98, R101). -/
def File.over (f : File) (count n : Nat) : Bool := match f with
  | .v w _ => decide (count < n + w)
  | .s w _ => decide (128 < n + w)
  | _ => false

/-- The register bound of a source field: kind 0 names a v-register, or an s-register in scalar form. -/
def Use.over (u : Use) (s : Bool) (count : Nat) (f : Src) : Bool := match u, f with
  | .reg w, .reg n | .any w, .reg n => File.over (if s then .s w w else .v w w) count n
  | _, _ => false

/-- Order 5 of Table 04-16 for format A. An entry that does not round, and an instruction with TYP 19, take no RND but 0,
reserved codes among the others (R93, R152, R223). DEDUCED (log 126): an entry of R160 with a fixed rounding is such an entry. -/
def ShA.fail1 (h : ShA) : Bool :=
  (h.o.s && !h.sOk)
  || (h.hens && h.o.typ != .dflt)
  || (h.rnd == 0 && h.o.rnd != .rn)
  || (!h.o.typ.isRsv && !(h.tys.contains h.o.typ || (h.dflt && h.o.typ == .dflt)))
  || (!h.o.rnd.isRsv && decide (h.rnd < h.o.rnd.code))
  || (h.o.typ == .slot && h.o.rnd != .rn)
  || h.d.bad1 h.o.d || h.a.bad1 h.o.a || h.b.bad1 h.o.b || h.c.bad1 h.o.c || h.bad1

/-- Order 6 of Table 04-16 for format A. -/
def ShA.fail2 (h : ShA) : Bool :=
  h.o.typ.isRsv || h.o.rnd.isRsv || decide (h.o.sub &&& ~~~h.mask ≠ 0)
  || h.d.bad2 h.o.d || h.a.bad2 h.o.a || h.b.bad2 h.o.b || h.c.bad2 h.o.c
  || (h.c == .none && h.o.keep == 3)
  || (!((h.a.lits h.o.a).1 || (h.b.lits h.o.b).1 || (h.c.lits h.o.c).1) && h.o.lit.toNat % 2 ^ 32 != 0)
  || (!((h.a.lits h.o.a).2 || (h.b.lits h.o.b).2 || (h.c.lits h.o.c).2) && decide (2 ^ 32 ≤ h.o.lit.toNat))
  || h.bad2

/-- Order 5 for format M (R96, R168, R197). -/
def ShM.fail1 (h : ShM) : Bool :=
  !h.bs.contains h.o.bs || h.d.bad1 h.o.d || h.o.b % 2 != 0
  || (decide (h.o.wt < 7) && !h.wts.contains h.o.wt)
  || (decide (h.o.sc < 6) && !h.scs.contains h.o.sc)
  || (decide (h.o.cp < 3) && !h.cps.contains h.o.cp)
  || (h.atomic && decide (h.o.aop < 14) && decide (h.o.wt < 7) && h.bad1)

/-- Order 6 for format M. -/
def ShM.fail2 (h : ShM) : Bool :=
  h.d.bad2 h.o.d || decide (7 ≤ h.o.wt) || decide (6 ≤ h.o.sc) || decide (3 ≤ h.o.cp)
  || (if h.atomic then decide (14 ≤ h.o.aop) else h.o.aop != 0) || h.o.rsv || h.bad2

/-- Order 5 for format E. -/
def ShE.fail1 (h : ShE) : Bool :=
  h.d.bad1 h.o.d || h.a.bad1 h.o.a || h.b.bad1 h.o.b || h.c.bad1 h.o.c || h.bad1

/-- CBMVM's tile stands in MODE[5:0] and cannot exceed 63; every other number is checked in its field. Order 6. -/
def ShE.fail2 (h : ShE) : Bool :=
  h.d.bad2 h.o.d || h.a.bad2 h.o.a || h.b.bad2 h.o.b || h.c.bad2 h.o.c || (!h.fs && h.o.fs != 0)
  || decide (h.o.mode &&& ~~~h.mask ≠ 0) || h.bad2

/-- Order 5 for format B (R133): CALL, RET and JMPI need an even s-register. -/
def fail1B : Instr → Bool
  | .call o | .ret o | .jmpi o => !o.rk || o.reg % 2 != 0
  | _ => false

/-- Order 6 for format B. -/
def fail2B : Instr → Bool
  | .bra o | .splitsync o => o.reg != 0 || o.rk || o.cond != 0 || o.rsv != 0
  | .brc o => decide (5 < o.cond) || o.rsv != 0
  | .call o | .jmpi o => o.cond != 0 || o.rsv != 0
  | .ret o => o.cond != 0 || o.rsv != 0 || o.disp != 0
  | _ => false

/-- The first failing encoding check of orders 5 and 6 (Table 04-16), as its cause. Events have no encoding and no
check. -/
def encCheck (i : Instr) : Option Cause :=
  let f1 := match i with
    | .rep _ => false
    | i => match shapeA i, shapeM i, shapeE i with
      | some h, _, _ => h.fail1
      | _, some h, _ => h.fail1
      | _, _, some h => h.fail1
      | _, _, _ => fail1B i
  let f2 := match i with
    | .rep o => o.rsv != 0
    | i => match shapeA i, shapeM i, shapeE i with
      | some h, _, _ => h.fail2
      | _, some h, _ => h.fail2
      | _, _, some h => h.fail2
      | _, _, _ => fail2B i
  if f1 then some 0x01 else if f2 then some 0x02 else none

/-- Order 7: a register index at or beyond its bound (R94, R98, R101). MMA, MMAS and CMPR name spans that depend on
their slots and are bounded with them (R250); the C field of an MMA is bounded here as a v-register too, whatever its slot names
(DESIGN CHOICE, log 125). -/
def boundBad (i : Instr) (count : Nat) : Bool :=
  match shapeA i, shapeM i, shapeE i with
  | some h, _, _ =>
    h.d.over count h.o.d || h.a.over h.o.s count h.o.a || h.b.over h.o.s count h.o.b || h.c.over h.o.s count h.o.c
  | _, some h, _ =>
    h.d.over count h.o.d || (if h.o.bs then File.s 2 2 else File.v 2 2).over count h.o.b
  | _, _, some h => h.d.over count h.o.d || h.a.over count h.o.a || h.b.over count h.o.b || h.c.over count h.o.c
  | _, _, _ => match i with
    | .brc o => (if o.rk then File.s 1 1 else File.v 1 1).over count o.reg
    | .call o | .ret o | .jmpi o => (File.s 2 2).over count o.reg
    | _ => false

/-! ### Stepping under REP (R99) -/

/-- The step width of an operand of a file: 2 for a pair, 4 for a quad of v- or s-registers, else 1. R99 gives no width for a
field that names another run of registers; the model takes the multiple that the field's first index must be (log 103). -/
def File.stepW : File → Option Nat
  | .zero | .num => none
  | .v _ al | .s _ al => some al
  | _ => some 1

/-- The step width of a source field: none for one that the entry does not use, for a constant, and for a field in which the
entry takes constants alone. -/
def Use.stepW (u : Use) (f : Src) : Option Nat := match u, f with
  | .none, _ | _, .code _ | .con _, _ => Option.none
  | .reg w, .reg _ | .any w, .reg _ => some w

/-- The step widths of the four fields of an instruction's format, none for a field that may not be stepped. DESIGN CHOICE (log
124): the C field of an MMA may be stepped whether or not its slot names scale registers. -/
def stepWidths (i : Instr) : List (Option Nat) :=
  match shapeA i, shapeM i, shapeE i with
  | some h, _, _ => [h.d.stepW, h.a.stepW h.o.a, h.b.stepW h.o.b, h.c.stepW h.o.c]
  | _, some h, _ => [h.d.stepW, some 2, none, none]
  | _, _, some h => [h.d.stepW, h.a.stepW, h.b.stepW, h.c.stepW]
  | _, _, _ => [none, none, none, none]

end Sys2Proof.Machine
end

