-- ==== Sys2Proof/Machine/Opcodes.lean ====
section
/-! DEFINITION. The opcode map (Table 04-14) and the format of every opcode (Table 04-15), read from a constructor. -/

namespace Sys2Proof

/-- An instruction as its opcode and its format's fields; where several rows share one opcode, `mask` and `val` say
which value of the MODE bits in `mask` selects the row. -/
inductive Form where
  | a (op : Nat) (o : OpA)
  | m (op : Nat) (o : OpM)
  | b (op : Nat) (o : OpB)
  | e (op : Nat) (mask val : BitVec 17) (o : OpE)
  | p (op : Nat) (o : OpP)
  | event
  deriving DecidableEq, Repr

/-- The opcode and format of every instruction (Tables 04-14 and 04-15); an event has none. -/
def Instr.form : Instr → Form
  | .iadd o => .a 0x00 o
  | .isub o => .a 0x01 o
  | .imul o => .a 0x02 o
  | .imulh o => .a 0x03 o
  | .imad o => .a 0x04 o
  | .imin o => .a 0x05 o
  | .imax o => .a 0x06 o
  | .iabs o => .a 0x07 o
  | .ineg o => .a 0x08 o
  | .iaddc o => .a 0x09 o
  | .icmp o => .a 0x0A o
  | .sel o => .a 0x0B o
  | .shl o => .a 0x0C o
  | .shr o => .a 0x0D o
  | .sar o => .a 0x0E o
  | .rol o => .a 0x0F o
  | .and o => .a 0x10 o
  | .or o => .a 0x11 o
  | .xor o => .a 0x12 o
  | .not o => .a 0x13 o
  | .andn o => .a 0x14 o
  | .bfx o => .a 0x15 o
  | .bfi o => .a 0x16 o
  | .popc o => .a 0x17 o
  | .clz o => .a 0x18 o
  | .brev o => .a 0x19 o
  | .lea o => .a 0x1A o
  | .add64 o => .a 0x1B o
  | .mov o => .a 0x1C o
  | .movi o => .a 0x1D o
  | .movs o => .a 0x1E o
  | .lperm o => .a 0x1F o
  | .lpush o => .a 0x20 o
  | .lbcast o => .a 0x21 o
  | .lshfl o => .a 0x22 o
  | .lscan o => .a 0x23 o
  | .lred o => .a 0x24 o
  | .lvote o => .a 0x25 o
  | .firstlane o => .a 0x26 o
  | .bra o => .b 0x27 o
  | .brc o => .b 0x28 o
  | .call o => .b 0x29 o
  | .ret o => .b 0x2A o
  | .jmpi o => .b 0x2B o
  | .splitsync o => .b 0x2C o
  | .exit o => .e 0x2D 0 0 o
  | .rep o => .p 0x2E o
  | .nop o => .e 0x2F 0 0 o
  | .yield o => .e 0x30 0 0 o
  | .reggrow o => .a 0x31 o
  | .regshrink o => .a 0x32 o
  | .sread o => .a 0x33 o
  | .swrite o => .a 0x34 o
  | .fadd o => .a 0x40 o
  | .fsub o => .a 0x41 o
  | .fmul o => .a 0x42 o
  | .ffma o => .a 0x43 o
  | .fmin o => .a 0x44 o
  | .fmax o => .a 0x45 o
  | .fcmp o => .a 0x46 o
  | .fclass o => .a 0x47 o
  | .frnd o => .a 0x48 o
  | .ftoi o => .a 0x49 o
  | .itof o => .a 0x4A o
  | .rcpseed o => .a 0x4B o
  | .rsqseed o => .a 0x4C o
  | .lg2seed o => .a 0x4D o
  | .ex2seed o => .a 0x4E o
  | .rrpi o => .a 0x4F o
  | .rrln2 o => .a 0x50 o
  | .fexp o => .a 0x51 o
  | .fmant o => .a 0x52 o
  | .ldexp o => .a 0x53 o
  | .cvt o => .a 0x54 o
  | .pk o => .a 0x55 o
  | .unpk o => .a 0x56 o
  | .hadd2 o => .a 0x57 o
  | .hmul2 o => .a 0x58 o
  | .hfma2 o => .a 0x59 o
  | .dot4 o => .a 0x5A o
  | .dot8 o => .a 0x5B o
  | .dots o => .a 0x5C o
  | .scale o => .a 0x5D o
  | .amaxb o => .a 0x5E o
  | .qnt o => .a 0x5F o
  | .ld o => .m 0x70 o
  | .st o => .m 0x71 o
  | .lds o => .m 0x72 o
  | .sts o => .m 0x73 o
  | .atom o => .m 0x74 o
  | .red o => .m 0x75 o
  | .pref o => .m 0x76 o
  | .cwb o => .m 0x77 o
  | .cinv o => .m 0x78 o
  | .bankcfg o => .e 0x79 0 0 o
  | .fpush o => .m 0x7A o
  | .fpop o => .m 0x7B o
  | .fence o => .e 0x90 0 0 o
  | .gbar o => .e 0x91 0 0 o
  | .nbarinit o => .e 0x92 0 0 o
  | .nbararr o => .e 0x93 0 0 o
  | .nbarwait o => .e 0x94 0 0 o
  | .nbarsync o => .e 0x95 0 0 o
  | .mwatch o => .m 0x96 o
  | .mwait o => .e 0x97 0 0 o
  | .ticket o => .m 0x98 o
  | .henc o => .a 0xA0 o
  | .hdec o => .a 0xA1 o
  | .hadd o => .a 0xA2 o
  | .hsub o => .a 0xA3 o
  | .hmul o => .a 0xA4 o
  | .hneg o => .a 0xA5 o
  | .hinv o => .a 0xA6 o
  | .hdiv o => .a 0xA7 o
  | .heq o => .a 0xA8 o
  | .hdig o => .a 0xA9 o
  | .hnorm o => .a 0xAA o
  | .mma o => .e 0xB0 0 0 o
  | .mmas o => .e 0xB1 0 0 o
  | .acq o => .e 0xB2 0 0 o
  | .rel o => .e 0xB3 0 0 o
  | .accrd o => .e 0xB4 4096 0 o
  | .accrdMem o => .e 0xB4 4096 4096 o
  | .accwr o => .e 0xB5 0 0 o
  | .accz o => .e 0xB6 0 0 o
  | .cmpr o => .e 0xB7 0 0 o
  | .mopld o => .e 0xB8 0 0 o
  | .cbcfg o => .e 0xC0 0 0 o
  | .cbgate o => .e 0xC1 0 0 o
  | .cbrun o => .e 0xC2 0 0 o
  | .cbread o => .e 0xC3 0 0 o
  | .cbwrite o => .e 0xC4 0 0 o
  | .cbmap o => .e 0xC5 2 0 o
  | .cbmapReset o => .e 0xC5 2 2 o
  | .cbstatSt o => .e 0xC9 7 0 o
  | .cbstatLife o => .e 0xC9 7 1 o
  | .cbstatCal o => .e 0xC9 7 2 o
  | .cbstatBad o => .e 0xC9 7 3 o
  | .cbstatOvf o => .e 0xC9 7 4 o
  | .cbprog o => .e 0xC6 0 0 o
  | .cbcal o => .e 0xC7 0 0 o
  | .cbmvm o => .e 0xC8 0 0 o
  | .cpy o => .e 0xD0 0 0 o
  | .cpyl o => .e 0xD1 0 0 o
  | .tagwany o => .e 0xD2 0 0 o
  | .tagwall o => .e 0xD3 0 0 o
  | .tagfirst o => .e 0xD4 0 0 o
  | .tagclr o => .e 0xD5 0 0 o
  | .tbinit o => .e 0xD6 0 0 o
  | .tbarr o => .e 0xD7 0 0 o
  | .tbexpect o => .e 0xD8 0 0 o
  | .tbwait o => .e 0xD9 0 0 o
  | .tbinval o => .e 0xDA 0 0 o
  | .sred o => .e 0xE0 0 0 o
  | .sredb o => .e 0xE1 0 0 o
  | .srstatCnt o => .e 0xE2 3 0 o
  | .srstatErr o => .e 0xE2 3 1 o
  | .srstatCode o => .e 0xE2 3 2 o
  | .srstatClr o => .e 0xE2 3 3 o
  | .tspawn o => .e 0xE8 0 0 o
  | .tcancel o => .e 0xE9 0 0 o
  | .evset o => .e 0xEA 0 0 o
  | .evwait o => .e 0xEB 0 0 o
  | .launch o => .e 0xEC 0 0 o
  | .resnew o => .e 0xED 0 0 o
  | .respri o => .e 0xEE 0 0 o
  | .resevict o => .e 0xEF 0 0 o
  | .resdemote o => .e 0xF0 0 0 o
  | .resqryTile o => .e 0xF1 3 0 o
  | .resqryHnd o => .e 0xF1 3 1 o
  | .resqryScore o => .e 0xF1 3 2 o
  | .resdecl o => .e 0xF2 0 0 o
  | .trap o => .e 0xF8 0 0 o
  | .rtt o => .e 0xF9 0 0 o
  | .phint o => .e 0xFA 0 0 o
  | .bkpt o => .e 0xFB 0 0 o
  | .tlbinv o => .e 0xFC 1 0 o
  | .tlbinvAll o => .e 0xFC 1 1 o
  | .ctxsave o => .e 0xFD 0 0 o
  | .ctxload o => .e 0xFE 0 0 o
  | .halt o => .e 0xFF 0 0 o
  | .clauseStart _ _ | .operationComplete _ | .reggrowGrant _ | .reggrowDeny _ | .watchTrigger _ _
  | .mmaPerform _ _ | .accTokenGrant _ _ | .ebudgetRefill _ | .tileCommandStart _ | .crossbarGate _
  | .cbprogRow _ _ | .cbcalBlock _ | .cbmvmPerform _ | .driftMonitor _ _ | .copyAccept _ | .copyComplete _
  | .sredAccept _ | .sredCompute _ | .insertionQueueDrain _ | .launchPublish _ | .rds _ _ | .rdu _ _ _
  | .wr _ _ _ _ | .dirty _ _ | .getk _ | .endk _ _ | .vwr _ _ | .cmt _ _ | .dis _ _ | .evc _ _ | .wbe _ _
  | .recall _ | .invalidate _ _ | .invAck _ _ | .fwd _ | .fwdAnswer _ | .versionSpill _ _ | .cacheFill _ _ _ _
  | .cacheEvict _ _ | .queueTailRead _ _ | .launchRecordForward _ | .launchAdmit _ _ _ | .launchRegistration _
  | .eventUpdate _ | .distributionReport _ _ | .launchEnd _ | .crewStart _ | .taskDispatch _ | .steal _
  | .stealCopy _ | .stealAck _ | .stealConfirm _ | .groupRetire _ | .crewRetire _ | .taskCompletion _
  | .groupStop _ | .crewSave _ | .crewResume _ | .timeSliceExpiry _ | .faultRecordWrite _ | .replyRetry _ _
  | .replyDeliver _ _ | .replyEnd _ _ | .replyResume _ _ | .parkedShareSwitch _ | .replay _
  | .redundantCompare _ | .registerContext _ | .reRegisterContext _ | .tearDownContext _ | .bar0Write _ _
  | .hostRead _ _ | .hostWrite _ _ | .inboundFabricRequest _ _ _ _ _ _ _ | .fabricWriteNotAccepted _ _ _
  | .memoryErrorCorrected _ _ | .hostLinkReplay _ | .dieToDieFlitRetry _ _ | .fabricFlitRetry _ _
  | .uncorrectableError _ _ _ | .errorRecordWrite _ | .containment _ | .hotReset | .retentionEnter _
  | .retentionExit _ _ | .powerRateUpdate _ _ _ _ | .nodeCapMessage _ | .watchdogExpiry | .firmwareUpdateStart
  | .watchdogService | .droopStretch _ | .seriesPairOvercurrent _ _ _ _ | .thermalTrip _ _
  | .bootStageVerify _ _ _ _ _ | .getVersion _ | .getCapabilities _ | .negotiateAlgorithms _ | .getDigests _
  | .getCertificate _ | .challenge _ _ | .getMeasurements _ | .powerOn | .droopRelease _ | .spuriousWake _ _ => .event

/-- The opcodes of format A (Table 04-15). -/
def isFormatA (op : Nat) : Bool :=
  decide (op ≤ 0x26) || (decide (0x31 ≤ op) && decide (op ≤ 0x34)) || (decide (0x40 ≤ op) && decide (op ≤ 0x5F))
    || (decide (0xA0 ≤ op) && decide (op ≤ 0xAA))

/-- The mnemonic's opcode, or none for an event. -/
def Instr.opcode (i : Instr) : Option Nat := match i.form with
  | .a op _ | .m op _ | .b op _ | .e op _ _ _ | .p op _ => some op
  | .event => none

end Sys2Proof
end

