-- ==== Sys2Proof/WellFormed.lean ====
section
/-! DEFINITION. When an instruction term stands for an instruction of the manual: its fields fit its format, its
selector is its row's, and no encoding check of Table 04-16 fails. -/

namespace Sys2Proof

/-- A source field fits its nine bits. -/
def Src.fits : Src → Bool
  | .reg n => decide (n < 512)
  | .code c => decide (c < 512)

/-- A type's code is below 32, and a reserved one is not an assigned one. -/
def Ty.fits : Ty → Bool
  | .rsv c => decide (20 ≤ c) && decide (c < 32)
  | _ => true

def Rnd.fits : Rnd → Bool
  | .rsv c => decide (5 ≤ c) && decide (c < 8)
  | _ => true

/-- Format A fits; a literal word is present only where a source field carries a literal code (R100). -/
def OpA.fits (o : OpA) : Bool :=
  decide (o.keep < 4) && decide (o.d < 512) && o.a.fits && o.b.fits && o.c.fits && o.rnd.fits && o.typ.fits
    && (o.carriesLit || o.lit == 0)

def OpM.fits (o : OpM) : Bool :=
  decide (o.d < 512) && decide (o.b < 512) && decide (o.wt < 8) && decide (o.sc < 8) && decide (o.cp < 4)
    && decide (o.aop < 16)

def OpB.fits (o : OpB) : Bool := decide (o.reg < 512) && decide (o.cond < 8)

def OpE.fits (o : OpE) : Bool :=
  decide (o.d < 512) && decide (o.a < 512) && decide (o.b < 512) && decide (o.c < 512) && decide (o.fs < 8)

def OpP.fits (o : OpP) : Bool := decide (o.n < 64)

/-- The term is an instruction of its format: what `encode` writes and `decode` reads back. -/
def Instr.encodable (i : Instr) : Bool := match i.form with
  | .a _ o => o.fits
  | .m _ o => o.fits
  | .b _ o => o.fits
  | .e _ mask val o => o.fits && decide (o.mode &&& mask = val)
  | .p _ o => o.fits
  | .event => false

/-- The instruction is well formed: encodable, and no check of orders 5 and 6 of Table 04-16 fails. -/
def Instr.wellFormed (i : Instr) : Bool := i.encodable && decide (Machine.encCheck i = none)

end Sys2Proof
end

