-- ==== Sys2Proof/Decode.lean ====
section
/-! DEFINITION. Decoding of instruction words, total and rejecting by name, and the encoder beside it. -/

namespace Sys2Proof

/-- Why a word is no instruction. -/
inductive Reject where
  /-- An unassigned opcode: cause 0x01 (R102). -/
  | unassigned (op : Nat)
  /-- An operation selector in MODE that its entry does not define: cause 0x02 (CBSTAT, RESQRY), unless an operand
  field that every selector of the entry uses alike fails first. -/
  | selector (op : Nat) (cause : Nat)
  deriving DecidableEq, Repr

/-- The cause a rejected word is reported with (Table 04-16). -/
def Reject.cause : Reject → Machine.Cause
  | .unassigned _ => 0x01
  | .selector _ c => c

/-- The field [hi:lo] of a word. -/
def field (w : DWord) (hi lo : Nat) : Nat := w.toNat / 2 ^ lo % 2 ^ (hi + 1 - lo)

/-- Table 04-7. -/
def Ty.ofCode : Nat → Ty
  | 0 => .dflt | 1 => .i8 | 2 => .i16 | 3 => .i32 | 4 => .i64 | 5 => .n8 | 6 => .n16 | 7 => .n32 | 8 => .n64
  | 9 => .b8 | 10 => .b16 | 11 => .b32 | 12 => .b64 | 13 => .f32 | 14 => .f16 | 15 => .bf16 | 16 => .e4m3
  | 17 => .e5m2 | 18 => .e2m1 | 19 => .slot | c => .rsv c

def Ty.code : Ty → Nat
  | .dflt => 0 | .i8 => 1 | .i16 => 2 | .i32 => 3 | .i64 => 4 | .n8 => 5 | .n16 => 6 | .n32 => 7 | .n64 => 8
  | .b8 => 9 | .b16 => 10 | .b32 => 11 | .b64 => 12 | .f32 => 13 | .f16 => 14 | .bf16 => 15 | .e4m3 => 16
  | .e5m2 => 17 | .e2m1 => 18 | .slot => 19 | .rsv c => c

def Rnd.ofCode : Nat → Rnd
  | 0 => .rn | 1 => .rz | 2 => .rd | 3 => .ru | 4 => .sr | c => .rsv c

/-- A source field from its kind bit and its nine bits. -/
def Src.ofBits (k v : Nat) : Src := if k = 0 then .reg v else .code v

def Src.kind : Src → Nat
  | .reg _ => 0
  | .code _ => 1

def Src.val : Src → Nat
  | .reg n => n
  | .code c => c

/-- What REP adds to the four register fields of the repeated instruction's format (R99): no bound applies. -/
structure Bump where
  f0 : Nat
  f1 : Nat
  f2 : Nat
  f3 : Nat
  deriving DecidableEq, Repr

/-- An instruction that is not repeated. -/
def Bump.zero : Bump := { f0 := 0, f1 := 0, f2 := 0, f3 := 0 }

/-- Format A (Table 04-4); the literal word counts only where the word carries a literal code (R100). -/
def decA (k : Bump) (w lit : DWord) : OpA :=
  let o : OpA :=
    { s := field w 55 55 == 1, keep := field w 54 53, d := field w 52 44 + k.f0,
      a := (Src.ofBits (field w 43 43) (field w 42 34)).bump k.f1,
      b := (Src.ofBits (field w 33 33) (field w 32 24)).bump k.f2,
      c := (Src.ofBits (field w 23 23) (field w 22 14)).bump k.f3, rnd := Rnd.ofCode (field w 13 11),
      typ := Ty.ofCode (field w 10 6), sub := BitVec.ofNat 6 (field w 5 0), lit := 0 }
  if o.carriesLit then { o with lit := lit } else o

/-- Format M (Table 04-8). -/
def decM (k : Bump) (w : DWord) : OpM :=
  { d := field w 55 47 + k.f0, b := field w 46 38 + k.f1, bs := field w 37 37 == 1, off := BitVec.ofNat 24 (field w 36 13),
    wt := field w 12 10, sc := field w 9 7, cp := field w 6 5, aop := field w 4 1, rsv := field w 0 0 == 1 }

/-- Format B (Table 04-10). -/
def decB (w : DWord) : OpB :=
  { reg := field w 55 47, rk := field w 46 46 == 1, cond := field w 45 43, rsv := BitVec.ofNat 11 (field w 42 32),
    disp := BitVec.ofNat 32 (field w 31 0) }

/-- Format E (Table 04-11). -/
def decE (k : Bump) (w : DWord) : OpE :=
  { d := field w 55 47 + k.f0, a := field w 46 38 + k.f1, b := field w 37 29 + k.f2, c := field w 28 20 + k.f3, fs := field w 19 17,
    mode := BitVec.ofNat 17 (field w 16 0) }

/-- Format P (Table 04-12). -/
def decP (w : DWord) : OpP :=
  { n := field w 55 50, step := BitVec.ofNat 4 (field w 49 46), rsv := BitVec.ofNat 46 (field w 45 0) }

/-- CBSTAT's rows by SEL, MODE[2:0]; 5 to 7 are not defined. Every row reads D as an s pair and A as a tile. -/
def decCbstat (o : OpE) : Except Reject Instr := match o.bits 2 0 with
  | 0 => .ok (.cbstatSt o)
  | 1 => .ok (.cbstatLife o)
  | 2 => .ok (.cbstatCal o)
  | 3 => .ok (.cbstatBad o)
  | 4 => .ok (.cbstatOvf o)
  | _ => .error (.selector 0xC9 (if o.d % 2 ≠ 0 ∨ 63 < o.a then 0x01 else 0x02))

/-- SRSTAT's rows by MODE[1:0]. -/
def decSrstat (o : OpE) : Except Reject Instr := match o.bits 1 0 with
  | 0 => .ok (.srstatCnt o)
  | 1 => .ok (.srstatErr o)
  | 2 => .ok (.srstatCode o)
  | _ => .ok (.srstatClr o)

/-- RESQRY's rows by MODE[1:0]; 3 is not defined. -/
def decResqry (o : OpE) : Except Reject Instr := match o.bits 1 0 with
  | 0 => .ok (.resqryTile o)
  | 1 => .ok (.resqryHnd o)
  | 2 => .ok (.resqryScore o)
  | _ => .error (.selector 0xF1 0x02)

/-- Opcodes 0x00 to 0x1F (Table 04-14). -/
def decode00 (k : Bump) (w lit : DWord) (op : Nat) : Except Reject Instr := match op with
  | 0x00 => .ok (.iadd (decA k w lit))
  | 0x01 => .ok (.isub (decA k w lit))
  | 0x02 => .ok (.imul (decA k w lit))
  | 0x03 => .ok (.imulh (decA k w lit))
  | 0x04 => .ok (.imad (decA k w lit))
  | 0x05 => .ok (.imin (decA k w lit))
  | 0x06 => .ok (.imax (decA k w lit))
  | 0x07 => .ok (.iabs (decA k w lit))
  | 0x08 => .ok (.ineg (decA k w lit))
  | 0x09 => .ok (.iaddc (decA k w lit))
  | 0x0A => .ok (.icmp (decA k w lit))
  | 0x0B => .ok (.sel (decA k w lit))
  | 0x0C => .ok (.shl (decA k w lit))
  | 0x0D => .ok (.shr (decA k w lit))
  | 0x0E => .ok (.sar (decA k w lit))
  | 0x0F => .ok (.rol (decA k w lit))
  | 0x10 => .ok (.and (decA k w lit))
  | 0x11 => .ok (.or (decA k w lit))
  | 0x12 => .ok (.xor (decA k w lit))
  | 0x13 => .ok (.not (decA k w lit))
  | 0x14 => .ok (.andn (decA k w lit))
  | 0x15 => .ok (.bfx (decA k w lit))
  | 0x16 => .ok (.bfi (decA k w lit))
  | 0x17 => .ok (.popc (decA k w lit))
  | 0x18 => .ok (.clz (decA k w lit))
  | 0x19 => .ok (.brev (decA k w lit))
  | 0x1A => .ok (.lea (decA k w lit))
  | 0x1B => .ok (.add64 (decA k w lit))
  | 0x1C => .ok (.mov (decA k w lit))
  | 0x1D => .ok (.movi (decA k w lit))
  | 0x1E => .ok (.movs (decA k w lit))
  | 0x1F => .ok (.lperm (decA k w lit))
  | _ => .error (.unassigned op)

/-- Opcodes 0x20 to 0x3F (Table 04-14). -/
def decode20 (k : Bump) (w lit : DWord) (op : Nat) : Except Reject Instr := match op with
  | 0x20 => .ok (.lpush (decA k w lit))
  | 0x21 => .ok (.lbcast (decA k w lit))
  | 0x22 => .ok (.lshfl (decA k w lit))
  | 0x23 => .ok (.lscan (decA k w lit))
  | 0x24 => .ok (.lred (decA k w lit))
  | 0x25 => .ok (.lvote (decA k w lit))
  | 0x26 => .ok (.firstlane (decA k w lit))
  | 0x27 => .ok (.bra (decB w))
  | 0x28 => .ok (.brc (decB w))
  | 0x29 => .ok (.call (decB w))
  | 0x2A => .ok (.ret (decB w))
  | 0x2B => .ok (.jmpi (decB w))
  | 0x2C => .ok (.splitsync (decB w))
  | 0x2D => .ok (.exit (decE k w))
  | 0x2E => .ok (.rep (decP w))
  | 0x2F => .ok (.nop (decE k w))
  | 0x30 => .ok (.yield (decE k w))
  | 0x31 => .ok (.reggrow (decA k w lit))
  | 0x32 => .ok (.regshrink (decA k w lit))
  | 0x33 => .ok (.sread (decA k w lit))
  | 0x34 => .ok (.swrite (decA k w lit))
  | _ => .error (.unassigned op)

/-- Opcodes 0x40 to 0x5F (Table 04-14). -/
def decode40 (k : Bump) (w lit : DWord) (op : Nat) : Except Reject Instr := match op with
  | 0x40 => .ok (.fadd (decA k w lit))
  | 0x41 => .ok (.fsub (decA k w lit))
  | 0x42 => .ok (.fmul (decA k w lit))
  | 0x43 => .ok (.ffma (decA k w lit))
  | 0x44 => .ok (.fmin (decA k w lit))
  | 0x45 => .ok (.fmax (decA k w lit))
  | 0x46 => .ok (.fcmp (decA k w lit))
  | 0x47 => .ok (.fclass (decA k w lit))
  | 0x48 => .ok (.frnd (decA k w lit))
  | 0x49 => .ok (.ftoi (decA k w lit))
  | 0x4A => .ok (.itof (decA k w lit))
  | 0x4B => .ok (.rcpseed (decA k w lit))
  | 0x4C => .ok (.rsqseed (decA k w lit))
  | 0x4D => .ok (.lg2seed (decA k w lit))
  | 0x4E => .ok (.ex2seed (decA k w lit))
  | 0x4F => .ok (.rrpi (decA k w lit))
  | 0x50 => .ok (.rrln2 (decA k w lit))
  | 0x51 => .ok (.fexp (decA k w lit))
  | 0x52 => .ok (.fmant (decA k w lit))
  | 0x53 => .ok (.ldexp (decA k w lit))
  | 0x54 => .ok (.cvt (decA k w lit))
  | 0x55 => .ok (.pk (decA k w lit))
  | 0x56 => .ok (.unpk (decA k w lit))
  | 0x57 => .ok (.hadd2 (decA k w lit))
  | 0x58 => .ok (.hmul2 (decA k w lit))
  | 0x59 => .ok (.hfma2 (decA k w lit))
  | 0x5A => .ok (.dot4 (decA k w lit))
  | 0x5B => .ok (.dot8 (decA k w lit))
  | 0x5C => .ok (.dots (decA k w lit))
  | 0x5D => .ok (.scale (decA k w lit))
  | 0x5E => .ok (.amaxb (decA k w lit))
  | 0x5F => .ok (.qnt (decA k w lit))
  | _ => .error (.unassigned op)

/-- Opcodes 0x60 to 0x7F (Table 04-14). -/
def decode60 (k : Bump) (w _lit : DWord) (op : Nat) : Except Reject Instr := match op with
  | 0x70 => .ok (.ld (decM k w))
  | 0x71 => .ok (.st (decM k w))
  | 0x72 => .ok (.lds (decM k w))
  | 0x73 => .ok (.sts (decM k w))
  | 0x74 => .ok (.atom (decM k w))
  | 0x75 => .ok (.red (decM k w))
  | 0x76 => .ok (.pref (decM k w))
  | 0x77 => .ok (.cwb (decM k w))
  | 0x78 => .ok (.cinv (decM k w))
  | 0x79 => .ok (.bankcfg (decE k w))
  | 0x7A => .ok (.fpush (decM k w))
  | 0x7B => .ok (.fpop (decM k w))
  | _ => .error (.unassigned op)

/-- Opcodes 0x80 to 0x9F (Table 04-14). -/
def decode80 (k : Bump) (w _lit : DWord) (op : Nat) : Except Reject Instr := match op with
  | 0x90 => .ok (.fence (decE k w))
  | 0x91 => .ok (.gbar (decE k w))
  | 0x92 => .ok (.nbarinit (decE k w))
  | 0x93 => .ok (.nbararr (decE k w))
  | 0x94 => .ok (.nbarwait (decE k w))
  | 0x95 => .ok (.nbarsync (decE k w))
  | 0x96 => .ok (.mwatch (decM k w))
  | 0x97 => .ok (.mwait (decE k w))
  | 0x98 => .ok (.ticket (decM k w))
  | _ => .error (.unassigned op)

/-- Opcodes 0xA0 to 0xBF (Table 04-14). -/
def decodeA0 (k : Bump) (w lit : DWord) (op : Nat) : Except Reject Instr := match op with
  | 0xA0 => .ok (.henc (decA k w lit))
  | 0xA1 => .ok (.hdec (decA k w lit))
  | 0xA2 => .ok (.hadd (decA k w lit))
  | 0xA3 => .ok (.hsub (decA k w lit))
  | 0xA4 => .ok (.hmul (decA k w lit))
  | 0xA5 => .ok (.hneg (decA k w lit))
  | 0xA6 => .ok (.hinv (decA k w lit))
  | 0xA7 => .ok (.hdiv (decA k w lit))
  | 0xA8 => .ok (.heq (decA k w lit))
  | 0xA9 => .ok (.hdig (decA k w lit))
  | 0xAA => .ok (.hnorm (decA k w lit))
  | 0xB0 => .ok (.mma (decE k w))
  | 0xB1 => .ok (.mmas (decE k w))
  | 0xB2 => .ok (.acq (decE k w))
  | 0xB3 => .ok (.rel (decE k w))
  | 0xB4 => if (decE k w).bit 12 then .ok (.accrdMem (decE k w)) else .ok (.accrd (decE k w))
  | 0xB5 => .ok (.accwr (decE k w))
  | 0xB6 => .ok (.accz (decE k w))
  | 0xB7 => .ok (.cmpr (decE k w))
  | 0xB8 => .ok (.mopld (decE k w))
  | _ => .error (.unassigned op)

/-- Opcodes 0xC0 to 0xDF (Table 04-14). -/
def decodeC0 (k : Bump) (w _lit : DWord) (op : Nat) : Except Reject Instr := match op with
  | 0xC0 => .ok (.cbcfg (decE k w))
  | 0xC1 => .ok (.cbgate (decE k w))
  | 0xC2 => .ok (.cbrun (decE k w))
  | 0xC3 => .ok (.cbread (decE k w))
  | 0xC4 => .ok (.cbwrite (decE k w))
  | 0xC5 => if (decE k w).bit 1 then .ok (.cbmapReset (decE k w)) else .ok (.cbmap (decE k w))
  | 0xC6 => .ok (.cbprog (decE k w))
  | 0xC7 => .ok (.cbcal (decE k w))
  | 0xC8 => .ok (.cbmvm (decE k w))
  | 0xC9 => decCbstat (decE k w)
  | 0xD0 => .ok (.cpy (decE k w))
  | 0xD1 => .ok (.cpyl (decE k w))
  | 0xD2 => .ok (.tagwany (decE k w))
  | 0xD3 => .ok (.tagwall (decE k w))
  | 0xD4 => .ok (.tagfirst (decE k w))
  | 0xD5 => .ok (.tagclr (decE k w))
  | 0xD6 => .ok (.tbinit (decE k w))
  | 0xD7 => .ok (.tbarr (decE k w))
  | 0xD8 => .ok (.tbexpect (decE k w))
  | 0xD9 => .ok (.tbwait (decE k w))
  | 0xDA => .ok (.tbinval (decE k w))
  | _ => .error (.unassigned op)

/-- Opcodes 0xE0 to 0xFF (Table 04-14). -/
def decodeE0 (k : Bump) (w _lit : DWord) (op : Nat) : Except Reject Instr := match op with
  | 0xE0 => .ok (.sred (decE k w))
  | 0xE1 => .ok (.sredb (decE k w))
  | 0xE2 => decSrstat (decE k w)
  | 0xE8 => .ok (.tspawn (decE k w))
  | 0xE9 => .ok (.tcancel (decE k w))
  | 0xEA => .ok (.evset (decE k w))
  | 0xEB => .ok (.evwait (decE k w))
  | 0xEC => .ok (.launch (decE k w))
  | 0xED => .ok (.resnew (decE k w))
  | 0xEE => .ok (.respri (decE k w))
  | 0xEF => .ok (.resevict (decE k w))
  | 0xF0 => .ok (.resdemote (decE k w))
  | 0xF1 => decResqry (decE k w)
  | 0xF2 => .ok (.resdecl (decE k w))
  | 0xF8 => .ok (.trap (decE k w))
  | 0xF9 => .ok (.rtt (decE k w))
  | 0xFA => .ok (.phint (decE k w))
  | 0xFB => .ok (.bkpt (decE k w))
  | 0xFC => if (decE k w).bit 0 then .ok (.tlbinvAll (decE k w)) else .ok (.tlbinv (decE k w))
  | 0xFD => .ok (.ctxsave (decE k w))
  | 0xFE => .ok (.ctxload (decE k w))
  | 0xFF => .ok (.halt (decE k w))
  | _ => .error (.unassigned op)

/-- The instruction that a word (and the literal word after it) holds, its register fields increased by `k`. -/
def decodeWith (k : Bump) (w lit : DWord) : Except Reject Instr :=
  let op := field w 63 56
  match op / 32 with
  | 0 => decode00 k w lit op
  | 1 => decode20 k w lit op
  | 2 => decode40 k w lit op
  | 3 => decode60 k w lit op
  | 4 => decode80 k w lit op
  | 5 => decodeA0 k w lit op
  | 6 => decodeC0 k w lit op
  | _ => decodeE0 k w lit op

/-- The instruction that a word (and the literal word after it) holds. -/
def decode (w lit : DWord) : Except Reject Instr := decodeWith Bump.zero w lit

/-- The word carries a literal code, so that the next word of the clause is its literal word (R100). -/
def carriesLit (w : DWord) : Bool :=
  isFormatA (field w 63 56) && (decA Bump.zero w 0).carriesLit

/-! ### The encoder -/

/-- Format A (Table 04-4). -/
def encA (op : Nat) (o : OpA) : DWord :=
  BitVec.ofNat 64 (op * 2 ^ 56 + o.s.toNat * 2 ^ 55 + o.keep * 2 ^ 53 + o.d * 2 ^ 44 + o.a.kind * 2 ^ 43
    + o.a.val * 2 ^ 34 + o.b.kind * 2 ^ 33 + o.b.val * 2 ^ 24 + o.c.kind * 2 ^ 23 + o.c.val * 2 ^ 14
    + o.rnd.code * 2 ^ 11 + o.typ.code * 2 ^ 6 + o.sub.toNat)

/-- Format M (Table 04-8). -/
def encM (op : Nat) (o : OpM) : DWord :=
  BitVec.ofNat 64 (op * 2 ^ 56 + o.d * 2 ^ 47 + o.b * 2 ^ 38 + o.bs.toNat * 2 ^ 37 + o.off.toNat * 2 ^ 13
    + o.wt * 2 ^ 10 + o.sc * 2 ^ 7 + o.cp * 2 ^ 5 + o.aop * 2 + o.rsv.toNat)

/-- Format B (Table 04-10). -/
def encB (op : Nat) (o : OpB) : DWord :=
  BitVec.ofNat 64 (op * 2 ^ 56 + o.reg * 2 ^ 47 + o.rk.toNat * 2 ^ 46 + o.cond * 2 ^ 43 + o.rsv.toNat * 2 ^ 32
    + o.disp.toNat)

/-- Format E (Table 04-11). -/
def encE (op : Nat) (o : OpE) : DWord :=
  BitVec.ofNat 64 (op * 2 ^ 56 + o.d * 2 ^ 47 + o.a * 2 ^ 38 + o.b * 2 ^ 29 + o.c * 2 ^ 20 + o.fs * 2 ^ 17
    + o.mode.toNat)

/-- Format P (Table 04-12). -/
def encP (op : Nat) (o : OpP) : DWord :=
  BitVec.ofNat 64 (op * 2 ^ 56 + o.n * 2 ^ 50 + o.step.toNat * 2 ^ 46 + o.rsv.toNat)

/-- The words of an instruction: one, or two where it carries a literal; an event has none. -/
def encode (i : Instr) : List DWord := match i.form with
  | .a op o => encA op o :: (if o.carriesLit then [o.lit] else [])
  | .m op o => [encM op o]
  | .b op o => [encB op o]
  | .e op _ _ o => [encE op o]
  | .p op o => [encP op o]
  | .event => []

/-- The instruction at the head of a list of words. -/
def decodeWords : List DWord → Option Instr
  | [] => none
  | w :: ws => (decode w (ws.headD 0)).toOption

/-- The instruction in a word numbered as the opcode table numbers it: the instruction word in bits 63 to 0, its
literal word in bits 127 to 64. -/
def decodeTableWord (_nbits w : Nat) : Option Instr :=
  decodeWords [BitVec.ofNat 64 w, BitVec.ofNat 64 (w / 2 ^ 64)]

end Sys2Proof
end

