-- ==== Sys2Proof/Config.lean ====
section
/-! DEFINITION. What an implementation fixes and the values the spec leaves open: opaque, so that no proof can
evaluate them and a claim holds whatever they are. -/

namespace Sys2Proof.Config

/-- Which of several things that may happen next happens (log 1); applied to `State.tick` and reduced modulo the
number of candidates. -/
opaque choice : Nat → Nat

/-- How many steps a thing that must happen can be passed over before it is taken first (R14, R30; log 1). -/
opaque patience : Nat

/-- Which sectors a fill brings beyond those requested (R36; log 94). Applied to `State.tick` and the line; bit i is sector
i. -/
opaque fillExtra : Nat → Nat → BitVec 4

/-- Which words of a result are written before its completion point (R13, R233; log 95). Applied to the tick and the number
of the word; even is before. -/
opaque early : Nat → Nat → Nat

/-- Which half of a packed pair an atomic performs first (R181; log 96). Applied to `State.tick`; even is the low half. -/
opaque halfFirst : Nat → Nat

/-- Which line of a full set a cluster cache replaces, and which of several free ways a fill takes: not architectural (R38; log
9). Applied to `State.tick`. -/
opaque victim : Nat → Nat

/-- Which translation an access uses while a changed entry is still cached: the old or the new one (R380; log 15).
Applied to `State.tick` and the virtual page number; 0 modulo the number of candidates is a new walk. -/
opaque tlbPick : Nat → Nat → Nat

/-- The level a cell holds after its row failed verification: no program may rely on it (R289; log 8). Applied to
the tick, the row and the column; the model reads it modulo 16. -/
opaque failedLevel : Nat → Nat → Nat → Nat

/-- Where a copy's source and destination overlap: whether a source nibble is read as it was before the copy or as the
copy has written it, and whether a byte keeps its old value (R307; log 18). Applied to the tick and a number of the nibble
or byte; even is the old value. -/
opaque copyRace : Nat → Nat → Nat

/-- Which of a cluster's cores with room for it takes a new group (R16, R21; log 19). Applied to `State.tick` and the
group's place in its crew. -/
opaque place : Nat → Nat → Nat

/-- The root record that a start reads where the record's address does not translate to memory (R346; log 20). -/
opaque unreadRoot : Nat → BitVec 512

/-- A word that an instruction writes and the spec leaves open (R365, R371; log 21). Applied to the tick and the place of
the word in the result. -/
opaque freeWord : Nat → Nat → BitVec 32

/-- Whether a page fault of a context that is being halted meets the halt in one cycle, so that the halt is taken first (R393;
log 92). Applied to `State.tick`; even is yes. -/
opaque haltMeets : Nat → Nat

/-- The bytes of device memory that the driver's aperture opens to the inbound requests of a node (R427; log 64). Applied to
`State.tick` and the node. -/
opaque aperture : Nat → Nat → Nat

/-- The digest of the firmware that a power-controller update brings (R424, R430; log 16). Applied to `State.tick`. -/
opaque updateDigest : Nat → BitVec 384

/-- ECDSA P-384 over SHA-384 of a body, with the identity key that the dies' first-stage measurements give (R430; log 16). -/
opaque sign : List (BitVec 384) → List (BitVec 384) → BitVec 768

/-- The body of an SPDM response whose content the spec does not give: request code and nonce (R430; log 16). -/
opaque spdmBody : Nat → BitVec 384 → List (BitVec 384)

/-- The silicon step shown in DEVIDENT [31:20] (Table 17-2; log 14). -/
opaque siliconStep : BitVec 12

end Sys2Proof.Config
end

