-- ==== Sys2Proof/Machine/State.lean ====
section
/-! DEFINITION. The state of the whole device as plain data, the reasons a step can stop, and the state after reset.

Units are numbered device-wide: cluster 24d + c (R2), core 4 × cluster + k, tile 64 × core + x, slice 8d + s, stack
2d + m. Everything sparse is an `NMap` whose unlisted entries read as the named reset value. -/

namespace Sys2Proof.Machine

/-- Why the machine stops. -/
inductive Fault where
  /-- Raised by `exec` of a program instruction when no resident split has the issue turn: program instructions are
  executed only by group engines (R10), so there is nothing the instruction could act on. Safe: no run reaches it,
  since `step` issues only for a resident split. -/
  | noIssuer
  deriving DecidableEq, Repr

/-- Why an instruction has no meaning here. -/
inductive Refusal where
  /-- The arm of `exec` for an instruction that is not modelled yet. Safe: nothing is claimed of it. -/
  | notModelled (mnemonic : String)
  deriving DecidableEq, Repr

/-! ### Groups and splits (chapter 05, 16) -/

/-- REPSTATE (Table 05-11): all fields 0 when idle. -/
structure Rep where
  act : Bool
  step : Nat
  next : Nat
  remain : Nat
  deriving DecidableEq, Repr

/-- One entry of the reconvergence stack (Table 05-4). -/
structure RsEntry where
  exec : Mask
  join : DWord
  pc : DWord
  deriving DecidableEq, Repr

/-- A clause as it was fetched and checked: its header and its LEN words (R85, R87). -/
structure Clause where
  hdr : DWord
  words : List DWord
  deriving DecidableEq, Repr

/-- The trap registers of a split (Tables 16-3 and 16-4); HMODE stands in `Split.hmode`. All 0 at creation. -/
structure TrapRegs where
  tcause : Word
  tepc : DWord
  taddr : DWord
  tinfo : Word
  texec : Mask
  trep : Word
  deriving DecidableEq, Repr

/-- A trap as it was raised (R377, Table 16-4): cause, lowest failing lane (0xFF none), TADDR, CODE, opcode of the
word; whether the next word is the return point, whether it was an instruction fetch, and whether the page was
translated for a write. -/
structure Trap where
  cause : Nat
  lane : Nat := 0xFF
  taddr : DWord := 0
  code : Nat := 0
  opc : Nat := 0
  next : Bool := false
  fetch : Bool := false
  write : Bool := false
  /-- The faulting virtual address, where TADDR names a record instead (R378, R381). -/
  page : Option DWord := none
  /-- The error is of no memory, but of a register or of a scratchpad: no physical address is concerned (Table 17-3). -/
  inside : Bool := false
  deriving DecidableEq, Repr

/-- A split's watch (R210): the serving slice, the physical line and whether it has been triggered. -/
structure Watch where
  slice : Nat
  line : Nat
  trig : Bool
  deriving DecidableEq, Repr

/-- What holds a split at its present instruction beside a condition that is computed from the state. -/
inductive Hold where
  | none
  /-- A REGGROW not yet granted nor denied (R121): rows asked for, predicate register, and order of issue. -/
  | grow (n d order : Nat)
  /-- Arrived at a GBAR whose instance is not complete (R201). -/
  | gbar
  /-- Stopped at a PHINT (R388): bitmap and the two scratchpad ranges. -/
  | phint (bitmap : DWord) (r0 r1 : Word)
  /-- Stopped by a halt of its context (R401). -/
  | halted
  /-- Waiting at issue for energy (R248); the order in which it first stalled. -/
  | energy (order : Nat)
  /-- A REGSHRINK waiting for the rows it drops to come free of outstanding writes (R138): `n` as it was read at issue. -/
  | shrink (n : Nat)
  deriving DecidableEq, Repr

/-- One split of a group (Table 05-1, per split). -/
structure Split where
  num : Nat
  exec : Mask
  memb : Mask
  pc : DWord
  /-- The clause being issued; none at a clause boundary. -/
  cl : Option Clause
  /-- The word of `cl` that issues next, 1 to LEN. -/
  widx : Nat
  /-- The word at which the next clause is entered: 0 the whole clause (R397). -/
  entry : Nat
  rep : Rep
  /-- JPC; none when invalid. -/
  jpc : Option DWord
  /-- The reconvergence stack, top first. -/
  stack : List RsEntry
  trap : TrapRegs
  hmode : Bool
  /-- Traps owed at completion points, taken before the next clause (R232, R269, R320). -/
  owed : List Trap
  /-- The captured time count (R141). -/
  tcap : Option DWord
  watch : Option Watch
  hold : Hold
  /-- Splits (group id, number) that must issue a clause before this one is chosen again (R89). -/
  yieldTo : List (Nat × Nat)
  /-- Splits of equal issue priority on its core that were ready when it last issued: round-robin serves each of them, or
  finds it no longer ready, before this one again (R30). -/
  passed : List (Nat × Nat)
  /-- A split ended by EXIT and retained for its outstanding trap-raising operations (R232): MEMB, EXEC, clause and
  word of the ending EXIT. -/
  retained : Option (Mask × Mask × DWord × Nat)
  deriving DecidableEq, Repr

/-- The task record's fields that a running task keeps (Table 15-4): the 512 bits and the address the record was
read from. -/
structure TaskRec where
  bits : BitVec 512
  addr : DWord
  deriving DecidableEq, Repr

/-- Why a group is parked (R382): the fault record it stands on, the split that trapped and its trap. -/
structure Parked where
  record : Nat
  split : Nat
  trap : Trap
  deriving DecidableEq, Repr

/-- A resident group (R112). -/
structure Group where
  gid : Nat
  cid : Nat
  gidx : Nat
  core : Nat
  prio : Nat
  /-- Position in the order of R31 among groups of one launch: creation order. -/
  age : Nat
  count : Nat
  /-- v-registers: key 96 × register + lane; unlisted 0. -/
  v : NMap Word
  /-- s-registers s0 to s123 and s127; unlisted 0. EXEC (s124 to s126) stands in the splits. -/
  sr : NMap Word
  soft0 : Word
  hstat : Word
  /-- ACCHELD.CLAIM. -/
  claim : BitVec 16
  splits : List Split
  /-- Scope of the incomplete GBAR instance: the narrowest among its arrivals (R201). -/
  gbarScope : Nat
  /-- Clause of the last EXIT that ended a split, for a revival (R377). -/
  lastExit : DWord
  retired : Bool
  revived : Bool
  parked : Option Parked
  /-- It ends at its next clause boundaries without a trap (R386). -/
  endReq : Bool
  /-- A stop for pre-emption is pending (R28). -/
  stopReq : Bool
  /-- Stopped at a pre-emption point, nothing issues (R388). -/
  stopped : Bool
  /-- It has named a crossbar tile since it was created (R391). -/
  pinned : Bool
  deriving DecidableEq, Repr

/-- A named barrier (Table 08-4). -/
structure Bar where
  phase : Nat
  scope : Nat
  arrived : BitVec 16
  expect : Nat
  deriving DecidableEq, Repr

/-- The role of a unit of a REDUNDANT launch (R407). -/
inductive Role where
  | single
  | primary (shadow : Nat)
  | shadow (primary : Nat)
  deriving DecidableEq, Repr

/-- A crew (R21): a task is a crew of one (R24). It is the unit that may be versioned (R383). -/
structure Crew where
  cid : Nat
  lid : Nat
  ctx : Nat
  cluster : Nat
  size : Nat
  /-- Linear crew index in the grid (R140), 0 for a task. -/
  index : Nat
  task : Option TaskRec
  arg : DWord
  bars : List Bar
  /-- Scratchpad: first cluster word and declared bytes (R175). -/
  scratchBase : Nat
  scratchSize : Nat
  /-- Tiles on which the crew holds a claim (R356). -/
  claims : List Nat
  outst : Nat
  nerr : Nat
  lastRec : DWord
  lastSt : Nat
  lastPos : Nat
  versioned : Bool
  /-- The unit ends without completing: its version has been discarded (TCAUSE.VER), or its context is torn down. -/
  discarded : Bool
  role : Role
  /-- Reruns of a redundant unit (R409). -/
  reruns : Nat
  /-- Its groups have been ended to be created again (R387, R409). -/
  restart : Bool
  /-- Reference periods counted in the present time slice (R392). -/
  slice : Nat
  deriving DecidableEq, Repr

/-! ### Operations in flight (R12, R88) -/

/-- A resolved byte range of one access: a physical address, or a byte of the cluster's scratchpad. -/
inductive Place where
  | phys (pa : Nat) (nc : Bool)
  | scratch (byte : Nat)
  deriving DecidableEq, Repr

/-- One lane's access: lane, virtual address, place, the operand bytes as a number (store data, atomic operand, compare), and
the leaf entry of its page. -/
structure LaneAcc where
  lane : Nat
  va : Nat
  place : Place
  data : Nat
  cmp : Nat
  ent : Nat := 0
  deriving DecidableEq, Repr

/-- A contiguous run of bytes that an engine reads or writes: the address it was named by, its place, its length, and the
leaf entry of its page. -/
structure Seg where
  va : Nat
  place : Place
  len : Nat
  ent : Nat := 0
  deriving DecidableEq, Repr

/-- What an operation does when it reaches its completion point. -/
inductive OpKind where
  | load (d wt : Nat) (signed : Bool) (acc : List LaneAcc) (cp : Nat)
  | store (wt : Nat) (acc : List LaneAcc) (cp : Nat)
  | atom (ret : Bool) (d wt aop prime : Nat) (acc : List LaneAcc)
  /-- A packed pair (R181) of which the other half than `half` has been performed: the old values that it found, by lane. -/
  | pair (ret : Bool) (d aop half : Nat) (acc : List LaneAcc) (got : List (Nat × Nat))
  | pref (acc : List LaneAcc) (cp : Nat)
  | cwb (inv : Bool) (acc : List LaneAcc)
  | bankcfg (mask : Word) (mode : Nat)
  | fpush (bank slot phase : Nat) (data : List (Nat × Word))
  | fpop (bank slot phase d : Nat) (lanes : Mask)
  | mwait
  | nbarwait (b phase : Nat)
  /-- NBARSYNC: the captured phase; none while the arrival is held (R206, R208). -/
  | nbarsync (b : Nat) (phase : Option Nat)
  | ticket (d va : Nat) (place : Place) (lanes : Mask) (ent : Nat)
  | hres (d k : Nat) (lanes : Mask) (res : List (Nat × Nat))
  | hdec (d k : Nat) (lanes : Mask) (flag : Bool) (res : List (Nat × Nat)) (fail : Option Nat)
  /-- A matrix-engine command held in its core's queue. -/
  | matrix
  /-- CMPR: destination registers already computed. -/
  | regs (writes : List (Nat × Nat × Word))
  /-- A crossbar command held in its tile's queue. -/
  | tile
  | copy (cmd : Nat)
  | tagwany (d : Nat) (mask : DWord) (clr : Bool)
  | tagwall (mask : DWord)
  | tagfirst (d : Nat) (mask : DWord) (clr : Bool)
  /-- A TBWAIT on the word of a cluster's scratchpad key; `invalid`: R315 has ended it. -/
  | tbwait (d key phase : Nat) (trap : Bool) (invalid : Bool)
  | sred (cmds : List Nat)
  /-- Accepted and visible; nothing left but the flag. -/
  | done
  /-- An update on its way to the event home: the flag clears when every die has applied it (R368). -/
  | update (d : Option Nat)
  | evwait (d : Nat) (n : Nat) (mask : DWord)
  /-- A LAUNCH being published (R369): context, queue, reserved index, whether its record stands in the slot, and where the
  record is read; with no such place the bytes that were held. -/
  | launch (ctx q idx : Nat) (copied : Bool) (src : List Seg) (record : BitVec 1536)
  | sres (writes : List (Nat × Word))
  /-- A result that is still to be written, or of which a part has been written before its completion point (R13, R233): all
  its words, by (v-register, lane) and by s-register, HSTAT where it is written, the lowest scope of a FENCE that waits for it
  (6: none), and whether it is the result of an operation that can trap at its completion point (R232). -/
  | late (v : List (Nat × Nat × Word)) (sr : List (Nat × Word)) (hstat : Option Word) (fence : Nat) (trap : Bool)
  | tlbinv (first n : Nat) (all : Bool)
  | ctxsave (dst : List Seg) (image : List Byte)
  | ctxload (src : List Seg)
  deriving DecidableEq, Repr

/-- A long-latency operation in flight. A flag's count in a split is the number of operations charged to it. -/
structure Op where
  id : Nat
  gid : Nat
  split : Nat
  /-- Splits divided off since it issued: it stands in their program order too. -/
  also : List Nat := []
  /-- The (split, flag) pairs it counts against, with those inherited at divergences (R19). -/
  charges : List (Nat × Nat)
  opc : Nat
  kind : OpKind
  /-- The instruction of an operation that waits for a condition, which executes again on a resume (R27). -/
  again : Option Instr := none
  deriving DecidableEq, Repr

/-! ### Contexts (chapter 16) -/

/-- A cached leaf translation (R380): first virtual tile, tiles, physical base and the leaf's bits. -/
structure TlbEntry where
  vpn : Nat
  pages : Nat
  pa : Nat
  wr : Bool
  exe : Bool
  nc : Bool
  /-- Physical address of the leaf entry, where DIRTY is set. -/
  ent : Nat
  deriving DecidableEq, Repr

/-- A residency handle (Table 15-7). -/
structure Handle where
  live : Bool
  evicting : Bool
  pri : Nat
  count : Nat
  first : Nat
  deriving DecidableEq, Repr

/-- A fault record (Table 16-5) that is outstanding. `index` is its ring index once written. -/
structure FaultRec where
  id : Nat
  kind : Nat
  cause : Nat
  ncause : Nat
  fetch : Bool
  write : Bool
  lane : Nat
  tag : Nat
  loc : Nat
  pc : DWord
  addr : DWord
  ngrp : Nat
  /-- NGRP as the written record shows it. -/
  shown : Nat
  index : Option Nat
  deriving DecidableEq, Repr

/-- A resident context: the fields of its descriptor (Table 16-1) as read at the last registration, and its
per-context state (Table 01-4). -/
structure Context where
  registered : Bool
  descPa : Nat
  qhdr : List Nat
  ecost : List Nat
  tslice : Nat
  pshare : Nat
  frlog : Nat
  snapsz : Nat
  holdsz : Nat
  vlogsz : Nat
  rtback : Nat
  save : Nat
  snap : Nat
  hold : Nat
  vlog : Nat
  fring : Nat
  tvec : DWord
  root : Nat
  hprime : Nat
  /-- The event vector at the event home (R345). -/
  ev : BitVec 256
  /-- Each die's copy. -/
  evDie : List (BitVec 256)
  handles : NMap Handle
  tlb : List TlbEntry
  faults : List FaultRec
  nextFault : Nat
  /-- Switched out by a parked-share switch (R394). -/
  out : Bool
  /-- A halt is in progress or in force (R401): the id of its KIND 3 record. -/
  halt : Option Nat
  /-- Lowest queue index not yet read by the home command processor, per queue (R341). -/
  readIdx : List Nat
  /-- Per die and queue (8 × die + queue), the index that the die admits next. -/
  admitIdx : NMap Nat
  deriving DecidableEq, Repr

/-- A context's energy share on one cluster (Table 10-2). -/
structure Share where
  level : Nat
  rate : Nat
  capk : Nat
  deriving DecidableEq, Repr

/-! ### Launches and tasks (chapter 15) -/

/-- A write held until a launch ends or a unit commits: to a host or fabric window (R55, R403). `aop` none for a
store, else the atomic operation of a held RED; `ent`: the leaf entry whose DIRTY is to stand before it is sent (R35), none where
it stands already. -/
structure HeldWrite where
  pa : Nat
  va : Nat
  bytes : List Byte
  aop : Option Nat
  ent : Option Nat
  deriving DecidableEq, Repr

/-- An instruction recorded with a version or held by a REPLAYABLE launch, or an update sent to an event home
(R365, R345, R403). -/
inductive Update where
  | evset (n : Nat) (mask : DWord) (clr : Bool)
  | resnew (first count pri : Nat)
  | respri (h p : Nat)
  | resevict (h : Nat) (free : Bool)
  | resdemote (h : Nat)
  | tspawn (lid : Nat) (task : TaskRec)
  | tcancel (tag mask : Nat)
  | launch (q : Nat) (addr : DWord) (record : BitVec 1536)
  deriving DecidableEq, Repr

/-- An error for which a launch is replayed (R404, R412): the die that detected it, its event code, LOC and physical address. -/
structure ReplayErr where
  die : Nat
  event : Nat
  loc : Nat
  addr : Nat
  deriving DecidableEq, Repr

/-- A launch that some die has admitted and that has not ended (R341, Table 15-2). -/
structure Launch where
  lid : Nat
  ctx : Nat
  queue : Nat
  index : Nat
  record : BitVec 1536
  homeDie : Nat
  admitted : List Bool
  registered : Bool
  /-- The event home has started it. -/
  started : Bool
  /-- For each die that has distributed its share, the units it took. -/
  taken : List (Option Nat)
  reported : List Bool
  /-- The live count (R347); it may stand below 0 until every die has reported. -/
  live : Int
  replays : Nat
  /-- Snapshotted pages (page number, old bytes) and whether another launch wrote one since (R402, R405). -/
  snaps : List (Nat × List (Nat × Byte))
  conflict : Bool
  held : List HeldWrite
  heldUpd : List Update
  /-- A replay in progress (R404): the errors that it recovers; none where no replay is in progress. -/
  replay : List ReplayErr := []
  deriving DecidableEq, Repr

/-- The state of an entry of a ready table (R363). -/
inductive EntrySt where
  | ready
  | transit (thief : Nat)
  /-- The copy a thief has inserted: the victim's cluster and slot. -/
  | pending (victim : Nat) (slot : Nat)
  deriving DecidableEq, Repr

/-- An entry of a ready table or insertion queue. -/
structure Ready where
  lid : Nat
  ctx : Nat
  task : TaskRec
  prio : Nat
  st : EntrySt
  /-- A matching TCANCEL arrived during the hand-over (R367). -/
  cancel : Bool
  deriving DecidableEq, Repr

/-- A steal message under way within a die (Table 15-8). -/
inductive StealMsg where
  | copy (victim slot thief : Nat) (e : Ready)
  | ack (victim slot thief thiefSlot : Nat)
  | confirm (thief thiefSlot : Nat)
  deriving DecidableEq, Repr

/-! ### Clusters, cores and tiles -/

/-- The mode of an SRAM bank (R37). -/
inductive BankMode where
  | cache | scratch | fifo | off
  deriving DecidableEq, Repr

/-- A FIFO slot: its words by lane, FULL and PH (R191). -/
structure Slot where
  words : NMap Word
  full : Bool
  ph : Bool
  deriving DecidableEq, Repr

/-- One SRAM bank of a cluster. -/
structure Bank where
  mode : BankMode
  auto : Bool
  owner : Option Nat
  slots : NMap Slot
  deriving DecidableEq, Repr

/-- A line held in a cluster cache: the physical line, the context and virtual tile of the translation it was filled
through, its valid sectors, and, for an NC line, its bytes and dirty sectors (R36, R38, R52). -/
structure CLine where
  line : Nat
  ctx : Nat
  tile : Nat
  nc : Bool
  /-- The bank that is the line's way (R38). -/
  way : Nat
  valid : BitVec 4
  data : List Byte
  dirty : BitVec 4
  victim : Bool
  deriving DecidableEq, Repr

/-- A residency entry (Table 15-6); an invalid entry is not listed. -/
structure ResEntry where
  ctx : Nat
  lines : Nat
  claims : Nat
  tile : Nat
  deriving DecidableEq, Repr

/-- A cluster. -/
structure Cluster where
  banks : List Bank
  /-- Scratchpad bytes: key 49,152 × bank + byte of the bank; unlisted 0. -/
  scratch : NMap Byte
  /-- Keys (as in `scratch`) of the live transaction-barrier words (R313). -/
  liveWords : List Nat
  /-- Poisoned 8-byte words of the scratchpad, by key / 8 (R307, R417). -/
  badWords : List Nat
  cache : List CLine
  res : NMap (Option ResEntry)
  ready : NMap (Option Ready)
  /-- The time counter (R141). -/
  time : Nat
  retention : Bool
  /-- The droop detector stretches the clock (R421). -/
  stretched : Bool
  /-- The series-pair current limit stretches the clock (R423). -/
  limited : Bool
  deriving DecidableEq, Repr

/-- An accumulator (R237): context tag, token holder and elements (key 64 × row + column; unlisted 0). -/
structure Acc where
  ctx : Option Nat
  token : Option Nat
  val : NMap Word
  deriving DecidableEq, Repr

/-- An operand buffer (R237). -/
structure Buf where
  ctx : Option Nat
  bytes : NMap Byte
  deriving DecidableEq, Repr

/-- A copy tag (R311). -/
structure Tag where
  cnt : Nat
  done : Bool
  ctx : Option Nat
  deriving DecidableEq, Repr

/-- A command queued at a matrix engine (R241). A register operand is held as each active row's words. -/
inductive MCmdKind where
  | mma (acc buf : Nat) (sparse g8 z : Bool) (fa fb : DWord) (a c : List (Nat × List Word))
  /-- ACQ; `released`: the group has returned the token before it was granted. -/
  | acq (acc : Nat) (released : Bool)
  | accrd (acc d col cnt : Nat) (rows : Mask)
  | accrdMem (acc : Nat) (slot : DWord) (dst : List Seg)
  | accwr (acc col cnt : Nat) (vals : List (Nat × List Word))
  | accz (acc : Nat)
  | mopld (buf : Nat) (src : List Seg)
  deriving DecidableEq, Repr

/-- `need` and `held`: destination lines still to be taken in K, and those taken (R47); `age`: the age key (R51). -/
structure MCmd where
  op : Nat
  gid : Nat
  ctx : Nat
  cid : Nat
  kind : MCmdKind
  age : Nat
  need : List Nat
  held : List Nat
  deriving DecidableEq, Repr

/-- A core. -/
structure Core where
  accs : NMap Acc
  bufs : NMap Buf
  tags : NMap Tag
  mq : List MCmd
  deriving DecidableEq, Repr

/-- The mode of a crossbar tile (Table 11-1). -/
inductive TMode where
  | off | logic | mvm | compat
  deriving DecidableEq, Repr

/-- A command queued at a tile (R270). -/
inductive TCmdKind where
  | cfg (word : Word)
  /-- A run: its schedule in memory or its one gate word, G, P, STEP, and the clause and word of its instruction. -/
  | run (sched : List Seg) (inline : List DWord) (g p step : Nat) (pc : DWord) (widx : Nat)
  /-- A read: the run it relates to and the boundary from which it is admitted (R271). -/
  | read (d axis line : Nat) (run : Option Nat) (at_ : Nat)
  | write (axis line cnt : Nat) (src : List Seg)
  | map (axis d : Nat)
  | mapReset (axis : Nat)
  | prog (first cnt : Nat) (src : List Seg)
  | cal (mask : BitVec 8)
  | mvm (lo hi clo chi : Nat) (clamp : Bool) (d words : Nat) (src dst : List Seg)
  deriving DecidableEq, Repr

/-- `joins`: it arrived admissibly at a CBCAL (R292). -/
structure TCmd where
  op : Nat
  gid : Nat
  ctx : Nat
  cid : Nat
  kind : TCmdKind
  age : Nat
  need : List Nat
  held : List Nat
  joins : Bool
  deriving DecidableEq, Repr

/-- What a tile is doing. -/
inductive TBusy where
  | idle
  /-- A run: its gate words and the gates completed. -/
  | run (cmd : TCmd) (words : List DWord) (done : Nat)
  /-- A programming command: rows done. -/
  | prog (cmd : TCmd) (done : Nat)
  /-- A calibration: the blocks still to do, and whether it is paused at a boundary. -/
  | cal (cmd : TCmd) (blocks : List Nat) (paused : Bool)
  /-- A multiply, and the calibration that it was admitted in. -/
  | mvm (cmd : TCmd) (within : Option (TCmd × List Nat))
  deriving DecidableEq, Repr

/-- A crossbar tile (Tables 11-1 and 12-1). A cell reads as `fill` where `cells` does not list it; a lifetime counter
is `lifeBase` plus its listed excess, saturating at 2^40 − 1. -/
structure Tile where
  mode : TMode
  tag : Option Nat
  pbase : Nat
  ration : Nat
  fill : Nat
  cells : NMap Nat
  map0 : List Nat
  map1 : List Nat
  run0 : NMap Nat
  run1 : NMap Nat
  lifeBase : Nat
  life0 : NMap Nat
  life1 : NMap Nat
  status : Nat
  boundary : Nat
  cal : BitVec 8
  bad : NMap Bool
  ovf : NMap Bool
  q : List TCmd
  busy : TBusy
  deriving DecidableEq, Repr

/-! ### The directory (chapter 02) -/

/-- The stable states of Table 02-3. -/
inductive DSt where
  | u | s | e | m | k | v
  deriving DecidableEq, Repr

/-- The requests a home receives (Table 02-4). -/
inductive DReq where
  | rds (slice : Nat)
  /-- `engine`: the sender is an engine, which K does not hold back. -/
  | rdu (sender : Nat) (engine : Bool)
  /-- A byte-masked write: (physical address, byte). `slice` is the requester that may keep its copy. -/
  | wr (slice : Option Nat) (cluster : Option Nat) (bytes : List (Nat × Byte))
  /-- A walker's atomic OR of a bit into the byte of a table entry (R35): a Wr from a sender that holds no copy. -/
  | orB (pa bit : Nat)
  | getk (cmd : Nat)
  | vwr (unit slice : Nat)
  | cmt (unit : Nat)
  | dis (unit : Nat)
  | recall
  /-- The notices of Table 02-5 that a slice sends: Dirty, Evc, WbE. -/
  | dirty (slice : Nat)
  | evc (slice : Nat)
  | wbe (slice : Nat)
  deriving DecidableEq, Repr

/-- A transaction in progress (R45): the request, the slices whose acknowledgement is awaited, and whether a forward
to the owner is outstanding and answered. -/
structure Txn where
  req : DReq
  acks : List Nat
  /-- Slices that have invalidated and whose acknowledgement is under way. -/
  acked : List Nat
  fwd : Bool
  fwdDone : Bool
  deriving DecidableEq, Repr

/-- A directory entry (R42) with the transaction in progress and the queue of requests (R45). -/
structure DirEntry where
  st : DSt
  sharers : BitVec 32
  owner : Nat
  engine : Nat
  unit : Nat
  holder : Nat
  txn : Option Txn
  queue : List DReq
  /-- `State.dirClock` at the last request and at the entry into K (R49). -/
  used : Nat
  since : Nat
  deriving DecidableEq, Repr

/-- A RED recorded with a version (R185). -/
structure RedRec where
  wt : Nat
  aop : Nat
  prime : Nat
  acc : List LaneAcc
  deriving DecidableEq, Repr

/-- The version of one versioned unit (R383 to R386): every byte the unit wrote, held or spilled, by physical
address. -/
structure Version where
  cid : Nat
  holder : Nat
  bytes : NMap (Option Byte)
  lines : List Nat
  spilled : List Nat
  reds : List RedRec
  held : List HeldWrite
  recs : List Update
  /-- The virtual address of each written byte, for the signature (R408). -/
  vas : NMap (Option Nat)
  /-- Sectors that a copy of the unit has written as poisoned (R307). -/
  bad : List Nat
  deriving DecidableEq, Repr

/-! ### Engine commands -/

/-- A page that a copy touches: its virtual address, whether as a destination, its physical base and leaf entry. -/
structure CopyPage where
  va : Nat
  dst : Bool
  pa : Nat
  nc : Bool
  ent : Nat
  deriving DecidableEq, Repr

/-- A copy (R309): its record, format slot, origins, pages, tag, its charge to a transaction barrier (scratchpad key), and,
for a versioned unit, which takes no line in K, the coherent lines of its destination (R48, R59); `hold`: the bytes that it will
write to the windows, for which a REPLAYABLE launch's hold region keeps room (R403). -/
structure Copy where
  id : Nat
  op : Nat
  gid : Nat
  cid : Nat
  ctx : Nat
  cluster : Nat
  core : Nat
  tag : Nat
  record : BitVec 1536
  slot : DWord
  sc : List Int
  dc : List Int
  pages : List CopyPage
  tb : Option Nat
  own : List Nat
  hold : Nat
  need : List Nat
  held : List Nat
  accepted : Bool
  ageKey : Nat
  deriving DecidableEq, Repr

/-- A stack-side reduce command (R328): its record, the runs of its index list, weights and output, the address of its
completion word with its page's leaf entry, and, once its outputs stand, the status and position that its completion word will tell. -/
structure Sred where
  id : Nat
  op : Nat
  cid : Nat
  ctx : Nat
  stack : Nat
  recAddr : DWord
  record : BitVec 512
  idx : List Seg
  wgt : List Seg
  out : List Seg
  fin : Nat
  finEnt : Nat
  ended : Option (Nat × Nat)
  need : List Nat
  held : List Nat
  accepted : Bool
  ageKey : Nat
  deriving DecidableEq, Repr

/-! ### Dies, host interface, errors and power (chapter 17) -/

/-- A die: task engine, command processor, black box and boot state. -/
structure Die where
  /-- Engine commands issued (R51). -/
  ageCount : Nat
  /-- Launch records received: (context, queue, index, bytes). -/
  fwd : List (Nat × Nat × Nat × BitVec 1536)
  /-- Received and not yet admitted, in arrival order. -/
  got : List (Nat × Nat × Nat × BitVec 1536)
  insQ : List Ready
  /-- Crews to start, in order: (launch, crew number). -/
  crewQ : List (Nat × Nat)
  steals : List StealMsg
  /-- The black-box ring by SEQ mod 64 (R419); unlisted 0. -/
  bbox : NMap (BitVec 512)
  /-- Records made so far; the next SEQ is this plus 1. -/
  seq : Nat
  stamp : Nat
  /-- Records waiting to be written to the host's error ring, each with the number of suppressed records that it tells. -/
  errQ : List (BitVec 512 × Nat)
  /-- Class 0 records suppressed, and the stamp of the last one written, by event code (R414). -/
  suppressed : NMap Nat
  lastClass0 : NMap (Option Nat)
  /-- Measurement registers, one for each stage. -/
  meas : List (BitVec 384)
  stageRejected : Option Nat
  deriving DecidableEq, Repr

/-- The BAR0 registers (Table 17-2). -/
structure Bar0 where
  ctxdesc : DWord
  ctxcmd : Word
  errbase : DWord
  errctl : Word
  errprod : Nat
  errcons : Nat
  bboxsel : Nat
  fabroute : NMap (BitVec 16)
  failsafe : Bool
  throttle : Bool
  capw : Nat
  avgw : Nat
  deriving DecidableEq, Repr

/-- The endpoint's AER state (R413). -/
structure Aer where
  corrected : Bool
  uncorrected : Bool
  severity : Bool
  headerLog : BitVec 128
  /-- Messages sent: class 0 ERR_COR, 1 ERR_NONFATAL, 2 ERR_FATAL. -/
  sent : List Nat
  deriving DecidableEq, Repr

/-- What a read from outside returned: bytes, the EP bit, and whether it was refused or failed (R411, R415, R427). -/
structure HostRead where
  bytes : List Byte
  ep : Bool
  ur : Bool
  deriving DecidableEq, Repr

/-- A request from outside: of the host through BAR2, or of a node through the fabric (R411, R427). -/
inductive Inbound where
  | read (addr len : Nat)
  | write (addr : Nat) (bytes : List Byte)
  | peer (node addr kind len operand cmp : Nat) (bytes : List Byte)
  deriving DecidableEq, Repr

/-- An SPDM response: request code, transport and the signed body (R430). -/
structure SpdmResp where
  code : Nat
  mctp : Bool
  body : List (BitVec 384)
  sig : BitVec 768
  deriving DecidableEq, Repr

/-- A saved crew (R390): the crew, its groups' images and the core state saved with them. -/
structure Saved where
  crew : Crew
  groups : List Group
  /-- (group id, accumulator, contents). -/
  accs : List (Nat × Nat × NMap Word)
  /-- DONE masks by core. -/
  tags : List (Nat × DWord)
  /-- Named scratchpad bytes by crew-relative byte, live barrier words, and poisoned words. -/
  scratch : NMap Byte
  live : List Nat
  bad : List Nat
  /-- The crew's named barriers, a word of Table 08-4 each (R203). -/
  bars : List DWord
  /-- Waiting operations to be executed again on resume. -/
  ops : List Op
  deriving DecidableEq, Repr

/-- The split whose instruction executes. -/
structure Cur where
  gid : Nat
  split : Nat
  deriving DecidableEq, Repr

/-- One thing that may happen next: a split's turn; an event; what needs no cause: a spurious wake (R30), a drift of a tile's
references (R290), a cluster's retention (R418); a home's going on with its queue (R45); the early words of
a result (R13); a request from outside that has waited for its lines (R411); a replay in progress (R404). -/
inductive Cand where
  | split (g n : Nat)
  | event (i : Instr)
  | wake (g n : Nat)
  | drift (tile block : Nat)
  | retain (cluster : Nat)
  | home (line : Nat)
  | early (op : Nat)
  | inbound
  | replay (lid : Nat)
  deriving DecidableEq, Repr

/-- The whole device. -/
structure State where
  /-- Bytes by 52-bit physical address: device memory, host window, fabric window (R32). -/
  mem : List Host.Cell
  dir : NMap DirEntry
  /-- Requests the homes have acted on, for the snoop filters' least recent use (R49). -/
  dirClock : Nat
  clusters : NMap Cluster
  cores : NMap Core
  tiles : NMap Tile
  dies : List Die
  ctxs : NMap Context
  /-- Energy shares: key 96 × context + cluster. -/
  shares : NMap Share
  launches : List Launch
  crews : List Crew
  groups : List Group
  saved : List Saved
  versions : List Version
  ops : List Op
  copies : List Copy
  sreds : List Sred
  /-- Updates under way to the event homes, in arrival order: (context, operation awaiting it, update). -/
  updates : List (Nat × Option Nat × Update)
  /-- Poisoned 48-byte sectors by physical address / 48 (R307, R417). -/
  poison : List Nat
  bar0 : Bar0
  aer : Aer
  msix : List Nat
  hostRead : HostRead
  /-- What the last inbound fabric request returned to its requester (R427). -/
  fabricRead : HostRead
  spdm : List SpdmResp
  /-- Containment after a fatal error (R415): the dies' step, none when not contained. -/
  contained : Option Nat
  /-- The clocks are stopped by a thermal trip (R424). -/
  tripped : Bool
  /-- Node caps that the device has acknowledged (R422). -/
  acks : List Nat
  /-- Digest of the power controller's firmware that runs, and of the one that the next reset starts (R430). -/
  pwrRuns : BitVec 384
  pwrNext : BitVec 384
  /-- Host and fabric requests that wait for their lines' homes, in arrival order (R45, R411). -/
  inbound : List Inbound
  nextId : Nat
  /-- The split whose instruction `exec` executes. -/
  cur : Option Cur
  /-- The model's own: events that happen next, in this order (outside inputs, directed events). -/
  agenda : List Instr
  /-- The model's own: what could have happened in the last step and did not, with the steps for which it has been so (R14, R30). -/
  waiting : List (Cand × Nat)
  /-- The model's own: counts the free choices made. -/
  tick : Nat
  deriving DecidableEq, Repr

/-! ### Reset values -/

def Rep.idle : Rep := { act := false, step := 0, next := 0, remain := 0 }

def TrapRegs.zero : TrapRegs := { tcause := 0, tepc := 0, taddr := 0, tinfo := 0, texec := 0, trep := 0 }

def Slot.empty : Slot := { words := [], full := false, ph := false }

/-- After reset a bank is in CACHE mode (R37). -/
def Bank.reset : Bank := { mode := .cache, auto := false, owner := none, slots := [] }

/-- A cluster after its cold reset (R37, R141, R355, R418). -/
def Cluster.reset : Cluster :=
  { banks := List.replicate 32 Bank.reset, scratch := [], liveWords := [], badWords := [], cache := [], res := [], ready := [],
    time := 0, retention := false, stretched := false, limited := false }

def Acc.reset : Acc := { ctx := none, token := none, val := [] }
def Buf.reset : Buf := { ctx := none, bytes := [] }
def Tag.reset : Tag := { cnt := 0, done := false, ctx := none }

/-- A core after its cold reset (R237, R311). -/
def Core.reset : Core := { accs := [], bufs := [], tags := [], mq := [] }

/-- A tile after its core's cold reset, its cells and counters as manufactured (R258). DESIGN CHOICE (log 7): cells
and counters read 0, PBASE and RATION read 0. -/
def Tile.reset : Tile :=
  { mode := .off, tag := none, pbase := 0, ration := 0, fill := 0, cells := [], map0 := List.replicate 32 0,
    map1 := List.replicate 32 0, run0 := [], run1 := [], lifeBase := 0, life0 := [], life1 := [], status := 0,
    boundary := 0, cal := 0, bad := [], ovf := [], q := [], busy := .idle }

def DirEntry.u : DirEntry :=
  { st := .u, sharers := 0, owner := 0, engine := 0, unit := 0, holder := 0, txn := none, queue := [], used := 0,
    since := 0 }

def Handle.free : Handle := { live := false, evicting := false, pri := 0, count := 0, first := 0 }

/-- A context that is not registered. -/
def Context.none : Context :=
  { registered := false, descPa := 0, qhdr := List.replicate 8 0, ecost := List.replicate 8 0, tslice := 0,
    pshare := 0, frlog := 0, snapsz := 0, holdsz := 0, vlogsz := 0, rtback := 0, save := 0, snap := 0, hold := 0,
    vlog := 0, fring := 0, tvec := 0, root := 0, hprime := 0, ev := 0, evDie := List.replicate 4 0, handles := [],
    tlb := [], faults := [], nextFault := 0, out := false, halt := Option.none, readIdx := List.replicate 8 0,
    admitIdx := [] }

/-- DESIGN CHOICE (log 6): RATE and CAPK have no reset value (Table 10-2); they read 0. LEVEL resets to CAP. -/
def Share.reset : Share := { level := 0, rate := 0, capk := 0 }

def Die.reset : Die :=
  { ageCount := 0, fwd := [], got := [], insQ := [], crewQ := [], steals := [], bbox := [], seq := 0, stamp := 0,
    errQ := [], suppressed := [], lastClass0 := [], meas := [], stageRejected := none }

/-- CAPW resets to 3,000 and AVGW to 0 (Table 17-6). DESIGN CHOICE (log 13): the other BAR0 registers, for which the
spec gives no reset value, read 0. -/
def Bar0.reset : Bar0 :=
  { ctxdesc := 0, ctxcmd := 0, errbase := 0, errctl := 0, errprod := 0, errcons := 0, bboxsel := 0, fabroute := [],
    failsafe := false, throttle := false, capw := 3000, avgw := 0 }

/-- DESIGN CHOICE (log 106): the header log, for which the spec gives no reset value, reads 0. -/
def Aer.reset : Aer := { corrected := false, uncorrected := false, severity := false, headerLog := 0, sent := [] }

def HostRead.none : HostRead := { bytes := [], ep := false, ur := false }

/-- The device right after power-on (R416): no context, nothing resident, memory cleared. -/
def State.reset : State :=
  { mem := [], dir := [], dirClock := 0, clusters := [], cores := [], tiles := [], dies := List.replicate 4 Die.reset, ctxs := [],
    shares := [], launches := [], crews := [], groups := [], saved := [], versions := [], ops := [], copies := [],
    sreds := [], updates := [], poison := [], bar0 := Bar0.reset, aer := Aer.reset, msix := [],
    hostRead := HostRead.none, fabricRead := HostRead.none, spdm := [], contained := none, tripped := false,
    acks := [], pwrRuns := 0, pwrNext := 0, inbound := [], nextId := 0, cur := none, agenda := [], waiting := [], tick := 0 }

end Sys2Proof.Machine
end

