-- ==== Sys2Proof/Machine/Base.lean ====
section
/-! DEFINITION. Reading and replacing the parts of the state, register and EXEC access, the numbering of units, and the
little-endian byte helpers. -/

namespace Sys2Proof.Machine

/-- Every element that satisfies `p` is replaced by its image. -/
def updWhere {α : Type} (p : α → Bool) (f : α → α) (l : List α) : List α := l.map fun x => if p x then f x else x

/-- The element at `i`, or `d`. -/
def nth {α : Type} (d : α) (l : List α) (i : Nat) : α := l.getD i d

/-- The list with `v` at `i`. -/
def putAt {α : Type} (l : List α) (i : Nat) (v : α) : List α := l.set i v

/-- Repeated elements dropped, first occurrence kept. -/
def dedupe {α : Type} [DecidableEq α] : List α → List α
  | [] => []
  | x :: xs => x :: (dedupe xs).filter fun y => !decide (y = x)

/-- Insertion of a number into a rising list without repeats. -/
def insertAsc (n : Nat) : List Nat → List Nat
  | [] => [n]
  | m :: ms => if n < m then n :: m :: ms else if n = m then m :: ms else m :: insertAsc n ms

/-- The distinct numbers of a list, rising. -/
def sortAsc (l : List Nat) : List Nat := l.foldr insertAsc []

/-! ### Numbering of units (R2, R33, R40) -/

/-- The die of a cluster. -/
def dieOfCluster (c : Nat) : Nat := c / 24
/-- The serving slice of a cluster (R39). -/
def sliceOfCluster (c : Nat) : Nat := 8 * (c / 24) + c % 24 / 3
/-- The three clusters a slice serves. -/
def clustersOfSlice (sl : Nat) : List Nat := let c := 24 * (sl / 8) + 3 * (sl % 8); [c, c + 1, c + 2]
/-- The stack domain of a cluster: clusters 12⌊c/12⌋ to 12⌊c/12⌋ + 11 of its die. -/
def stackOfCluster (c : Nat) : Nat := 2 * (c / 24) + c % 24 / 12
/-- The cluster of a core. -/
def clusterOfCore (k : Nat) : Nat := k / 4
/-- The physical line of an address. -/
def lineOf (pa : Nat) : Nat := pa / 192
/-- The physical tile of an address. -/
def tileOf (pa : Nat) : Nat := pa / 24576
/-- The stack that holds a device address (R33). -/
def stackOfPa (pa : Nat) : Nat := pa / 0x1800000000

/-- The 2-bit hash of a device tile number (R40). -/
def tileHash (t : Nat) : Nat :=
  (List.range 13).foldl (fun h i => h ^^^ (t / 4 ^ i % 4)) 0

/-- The home slice of a device address, numbered device-wide (R40). -/
def homeSlice (pa : Nat) : Nat :=
  let k := stackOfPa pa
  8 * (k / 2) + 4 * (k % 2) + tileHash (tileOf pa)

/-- The home die of a device address. -/
def homeDie (pa : Nat) : Nat := stackOfPa pa / 2

/-- The ranges of Table 02-1. -/
inductive Range where
  | device | reserved | host | fabric
  deriving DecidableEq, Repr

def rangeOf (pa : Nat) : Range :=
  if pa < 0xC000000000 then .device
  else if pa < 0x8000000000000 then .reserved
  else if pa < 0xC000000000000 then .host
  else if pa < 0x10000000000000 then .fabric
  else .reserved

/-! ### Bytes -/

/-- The byte `i` of a number, little-endian. -/
def byteAt (n i : Nat) : Byte := BitVec.ofNat 8 (n / 256 ^ i)

/-- The low `k` bytes of a number, lowest first. -/
def toBytes (k n : Nat) : List Byte := (List.range k).map fun i => byteAt n i

/-- The number whose bytes are given, lowest first. -/
def ofBytes (bs : List Byte) : Nat := bs.foldr (fun b n => b.toNat + 256 * n) 0

/-- Bits [hi:lo] of a number. -/
def bits (n hi lo : Nat) : Nat := n / 2 ^ lo % 2 ^ (hi + 1 - lo)

/-- A number with bits [hi:lo] replaced. -/
def setBits (n hi lo v : Nat) : Nat :=
  n % 2 ^ lo + (v % 2 ^ (hi + 1 - lo)) * 2 ^ lo + n / 2 ^ (hi + 1) * 2 ^ (hi + 1)

/-- Two's complement of `w` bits read as signed. -/
def sgn (w n : Nat) : Int := if n % 2 ^ w < 2 ^ (w - 1) then (n % 2 ^ w : Int) else (n % 2 ^ w : Int) - 2 ^ w

/-- An integer reduced to a 32-bit word. -/
def wordOf (x : Int) : Word := BitVec.ofInt 32 x

/-! ### Parts of the state -/

def State.group? (s : State) (g : Nat) : Option Group := s.groups.find? fun x => x.gid == g
def State.setGroup (s : State) (g : Group) : State :=
  { s with groups := updWhere (fun x => x.gid == g.gid) (fun _ => g) s.groups }
/-- A group as it stands is changed. -/
def State.updGroup (s : State) (g : Nat) (f : Group → Group) : State :=
  { s with groups := updWhere (fun x => x.gid == g) f s.groups }
def Group.split? (g : Group) (n : Nat) : Option Split := g.splits.find? fun p => p.num == n
def Group.setSplit (g : Group) (p : Split) : Group :=
  { g with splits := updWhere (fun x => x.num == p.num) (fun _ => p) g.splits }
/-- A split as it stands is changed. -/
def Group.updSplit (g : Group) (n : Nat) (f : Split → Split) : Group :=
  { g with splits := updWhere (fun x => x.num == n) f g.splits }
def State.crew? (s : State) (c : Nat) : Option Crew := s.crews.find? fun x => x.cid == c
def State.setCrew (s : State) (c : Crew) : State :=
  { s with crews := updWhere (fun x => x.cid == c.cid) (fun _ => c) s.crews }
def State.launch? (s : State) (l : Nat) : Option Launch := s.launches.find? fun x => x.lid == l
def State.setLaunch (s : State) (l : Launch) : State :=
  { s with launches := updWhere (fun x => x.lid == l.lid) (fun _ => l) s.launches }
def State.op? (s : State) (i : Nat) : Option Op := s.ops.find? fun x => x.id == i
def State.setOp (s : State) (o : Op) : State := { s with ops := updWhere (fun x => x.id == o.id) (fun _ => o) s.ops }
def State.dropOp (s : State) (i : Nat) : State := { s with ops := s.ops.filter fun x => x.id != i }
def State.cluster (s : State) (c : Nat) : Cluster := NMap.get Cluster.reset s.clusters c
def State.setCluster (s : State) (c : Nat) (v : Cluster) : State :=
  { s with clusters := NMap.set Cluster.reset s.clusters c v }
def State.core (s : State) (k : Nat) : Core := NMap.get Core.reset s.cores k
def State.setCore (s : State) (k : Nat) (v : Core) : State := { s with cores := NMap.set Core.reset s.cores k v }
def State.tile (s : State) (x : Nat) : Tile := NMap.get Tile.reset s.tiles x
def State.setTile (s : State) (x : Nat) (v : Tile) : State := { s with tiles := NMap.set Tile.reset s.tiles x v }
def State.ctx (s : State) (c : Nat) : Context := NMap.get Context.none s.ctxs c
def State.setCtx (s : State) (c : Nat) (v : Context) : State := { s with ctxs := NMap.set Context.none s.ctxs c v }
def State.die (s : State) (d : Nat) : Die := nth Die.reset s.dies d
def State.setDie (s : State) (d : Nat) (v : Die) : State := { s with dies := putAt s.dies d v }
def State.share (s : State) (c cl : Nat) : Share := NMap.get Share.reset s.shares (96 * c + cl)
def State.setShare (s : State) (c cl : Nat) (v : Share) : State :=
  { s with shares := NMap.set Share.reset s.shares (96 * c + cl) v }
/-- The share in force: while the watchdog has replaced the firmware's values, RATE and CAPK are 1 (R424). -/
def State.shareNow (s : State) (c cl : Nat) : Share :=
  let e := s.share c cl
  if s.bar0.failsafe then { e with rate := 1, capk := 1 } else e
def State.dirAt (s : State) (l : Nat) : DirEntry := NMap.get DirEntry.u s.dir l
def State.setDir (s : State) (l : Nat) (e : DirEntry) : State := { s with dir := NMap.set DirEntry.u s.dir l e }
def State.version? (s : State) (c : Nat) : Option Version := s.versions.find? fun v => v.cid == c
def State.setVersion (s : State) (v : Version) : State :=
  { s with versions := updWhere (fun x => x.cid == v.cid) (fun _ => v) s.versions }
/-- An event that the model itself makes due; a replay in progress is abandoned when a class 2 error arrives (R416). -/
def directed (i : Instr) : Bool := match i with
  | .replay .. | .containment _ => true
  | _ => false

/-! ### Lanes and registers -/

def allLanes : Mask := BitVec.allOnes 96

/-- The lanes of a mask, rising. -/
def lanesOf (m : Mask) : List Nat := (List.range 96).filter fun l => m.getLsbD l

/-- The mask of a list of lanes. -/
def maskOf (l : List Nat) : Mask := l.foldl (fun m i => m ||| BitVec.ofNat 96 (2 ^ i)) 0

/-- Word `b` of a mask: EXECb or MEMBb (Table 05-2). -/
def Mask.word (m : Mask) (b : Nat) : Word := BitVec.ofNat 32 (m.toNat / 2 ^ (32 * b))

/-- A mask with word `b` replaced. -/
def Mask.setWord (m : Mask) (b : Nat) (w : Word) : Mask :=
  BitVec.ofNat 96 (setBits m.toNat (32 * b + 31) (32 * b) w.toNat)

/-- A v-register in one lane. -/
def Group.rdV (g : Group) (r lane : Nat) : Word := NMap.get 0 g.v (96 * r + lane)

/-- Write of a v-register in one lane. -/
def Group.wrV (g : Group) (r lane : Nat) (w : Word) : Group := { g with v := NMap.set 0 g.v (96 * r + lane) w }

/-- Write of a v-register in every lane of a list. -/
def Group.wrLanes (g : Group) (r : Nat) (f : Nat → Word) : List Nat → Group
  | [] => g
  | l :: ls => (g.wrV r l (f l)).wrLanes r f ls

/-- An s-register as split `p` reads it: s124 to s126 are its EXEC triple (R113). -/
def Group.rdS (g : Group) (p : Split) (n : Nat) : Word :=
  if 124 ≤ n ∧ n ≤ 126 then Mask.word p.exec (n - 124) else NMap.get 0 g.sr n

/-- Write of an s-register by split `n`: a write of s124 to s126 is ANDed with MEMB (R113). -/
def Group.wrS (g : Group) (n r : Nat) (w : Word) : Group :=
  if 124 ≤ r ∧ r ≤ 126 then
    match g.split? n with
    | none => g
    | some p => g.setSplit { p with exec := Mask.setWord p.exec (r - 124) (w &&& Mask.word p.memb (r - 124)) }
  else { g with sr := NMap.set 0 g.sr r w }

/-- The pair of s-registers from `n` as a 64-bit value. -/
def Group.rdS64 (g : Group) (p : Split) (n : Nat) : DWord := g.rdS p (n + 1) ++ g.rdS p n

/-- The pair of v-registers from `r` in one lane. -/
def Group.rdV64 (g : Group) (r lane : Nat) : DWord := g.rdV (r + 1) lane ++ g.rdV r lane

/-- The low and high words of a 64-bit value. -/
def lo32 (x : DWord) : Word := BitVec.ofNat 32 x.toNat
def hi32 (x : DWord) : Word := BitVec.ofNat 32 (x.toNat / 2 ^ 32)

/-- Write of several consecutive s-registers. -/
def Group.wrSs (g : Group) (n r : Nat) : List Word → Group
  | [] => g
  | w :: ws => (g.wrS n r w).wrSs n (r + 1) ws

/-- Write of several consecutive v-registers in one lane. -/
def Group.wrVs (g : Group) (r lane : Nat) : List Word → Group
  | [] => g
  | w :: ws => (g.wrV r lane w).wrVs (r + 1) lane ws

/-! ### The issuer of an instruction -/

/-- The issuing group, split, crew and context. -/
structure Issuer where
  g : Group
  p : Split
  c : Crew
  deriving DecidableEq, Repr

/-- The group, split and crew whose instruction executes; none when none is resident. -/
def State.issuer (s : State) : Option Issuer :=
  match s.cur with
  | none => none
  | some k =>
    match s.group? k.gid with
    | none => none
    | some g =>
      match g.split? k.split, s.crew? g.cid with
      | some p, some c => some { g, p, c }
      | _, _ => none

def Issuer.lanes (k : Issuer) : List Nat := lanesOf k.p.exec
def Issuer.s (k : Issuer) (n : Nat) : Word := k.g.rdS k.p n
def Issuer.s64 (k : Issuer) (n : Nat) : DWord := k.g.rdS64 k.p n
def Issuer.ctx (k : Issuer) : Nat := k.c.ctx
def Issuer.cluster (k : Issuer) : Nat := k.c.cluster
/-- The device-wide number of core tile x `n`. -/
def Issuer.tile (k : Issuer) (n : Nat) : Nat := 64 * k.g.core + n

end Sys2Proof.Machine
end

