-- ==== Sys2Proof/Machine/ErrLog.lean ====
section
/-! DEFINITION. Error records, the black box and AER (R412 to R415, R419). -/

namespace Sys2Proof.Machine

/-- LOC of a cluster and core within it, in GROUPINFO positions (Tables 05-13 and 17-3). -/
def locOf (cluster core : Nat) : Nat := cluster / 24 * 2 ^ 15 + cluster % 24 * 2 ^ 10 + core % 4 * 2 ^ 8

/-- What an error record says beside its class, event, stamp and number (Table 17-3). -/
structure ErrInfo where
  detail : Nat := 0
  addr : Nat := 0
  loc : Nat := 0
  ctx : Option Nat := none
  cause : Nat := 0
  deriving DecidableEq, Repr

/-- The 512 bits of an error record (Table 17-3). -/
def errRecord (cls event stamp seq : Nat) (i : ErrInfo) : BitVec 512 :=
  let ctx := match i.ctx with
    | some c => 2 ^ 157 + c % 32 * 2 ^ 152
    | none => 0
  BitVec.ofNat 512 (i.detail * 2 ^ 256 + i.addr % 2 ^ 64 * 2 ^ 192 + i.loc % 2 ^ 32 * 2 ^ 160 + ctx
    + i.cause % 256 * 2 ^ 144 + cls % 4 * 2 ^ 136 + event % 256 * 2 ^ 128 + stamp % 2 ^ 64 * 2 ^ 64 + seq % 2 ^ 64)

/-- A record enters a die's black box (R419): SEQ counts from 1, and record SEQ lies at SEQ mod 64. -/
def State.blackBox (s : State) (die cls event : Nat) (i : ErrInfo) : State × BitVec 512 :=
  let d := s.die die
  let r := errRecord cls event d.stamp (d.seq + 1) i
  (s.setDie die { d with seq := d.seq + 1, bbox := NMap.set 0 d.bbox ((d.seq + 1) % 64) r }, r)

/-- The header log takes the first uncorrectable error's record bits [159:128], LOC and ADDR (R413). -/
def headerLogOf (r : BitVec 512) : BitVec 128 :=
  BitVec.ofNat 128 (bits r.toNat 159 128 + bits r.toNat 191 160 * 2 ^ 32 + bits r.toNat 255 192 * 2 ^ 64)

/-- The AER effect of an error (R413). ERR_FATAL is sent in containment (R415). -/
def Aer.log (a : Aer) (cls : Nat) (r : BitVec 512) : Aer :=
  let b := { a with headerLog := if a.uncorrected then a.headerLog else headerLogOf r }
  if cls = 0 then { a with corrected := true, sent := a.sent ++ [0] }
  else if cls = 1 then { b with uncorrected := true, severity := false, sent := b.sent ++ [1] }
  else { b with uncorrected := true, severity := true }

/-- One millisecond of a 100 MHz counter (R414). -/
def millisecond : Nat := 100000

/-- An error of class 0 or 1 is recorded (R412, R414): in the black box, in AER, and in the queue for the error ring; of
class 0 at most one record per event code, die and millisecond is queued, the next carrying the number suppressed. Once
the device is contained only the black box takes it (R415). DESIGN CHOICE (log 116): where the number suppressed is not 0 it
stands in DETAIL [31:0] in place of what Table 17-4 gives there for the event, the unit tag of 0x05. -/
def State.logError (s : State) (die cls event : Nat) (i : ErrInfo) : State :=
  let d := s.die die
  if s.contained.isSome then (s.blackBox die cls event i).1
  else if cls = 0 then
    let lately := match NMap.get none d.lastClass0 event with
      | some t => decide (d.stamp < t + millisecond)
      | none => false
    let n := NMap.get 0 d.suppressed event
    if lately then
      let (s1, r) := s.blackBox die cls event i
      let s2 := s1.setDie die { s1.die die with suppressed := NMap.set 0 d.suppressed event (n + 1) }
      { s2 with aer := s2.aer.log cls r }
    else
      let (s1, r) := s.blackBox die cls event { i with detail := if n = 0 then i.detail else setBits i.detail 31 0 n }
      let s2 := s1.setDie die { s1.die die with
        suppressed := NMap.set 0 d.suppressed event 0, lastClass0 := NMap.set none d.lastClass0 event (some d.stamp)
        errQ := (s1.die die).errQ ++ [(r, n)] }
      { s2 with aer := s2.aer.log cls r }
  else
    let (s1, r) := s.blackBox die cls event i
    let s2 := s1.setDie die { s1.die die with errQ := (s1.die die).errQ ++ [(r, 0)] }
    { s2 with aer := s2.aer.log cls r }

/-- A class 2 error (R412, R415): recorded, and the device enters containment, whose steps the CONTAINMENT event takes
next. A later one is recorded in the black box only. -/
def State.fatal (s : State) (die event : Nat) (i : ErrInfo) : State :=
  let (s1, r) := s.blackBox die 2 event i
  if s.contained.isSome then s1
  else
    let s2 := s1.setDie die { s1.die die with errQ := (s1.die die).errQ ++ [(r, 0)] }
    { s2 with aer := s2.aer.log 2 r, contained := some 0, agenda := .containment die :: s2.agenda.filter fun i => !directed i }

end Sys2Proof.Machine
end

