-- ==== Sys2Proof/Machine/Memory.lean ====
section
/-! DEFINITION. Memory: bytes, the residency table (R356), the directory of Table 02-5 with the snoop filter (R44 to R54),
versions (R383 to R386) among its requesters, translation (R34, R35, R380), and the cluster caches (R38). -/

namespace Sys2Proof.Machine

/-! ### Bytes -/

/-- What a byte of memory that nothing has written reads as: 0. Device memory is cleared before use (R416). DESIGN CHOICE
(log 4): a byte of the host or fabric window that nothing has written reads 0 too. -/
def unlisted : Byte := 0

/-- The canonical form of a memory. -/
def Memory.wf (m : List Host.Cell) : Bool := NMap.wf unlisted m

def State.rdB (s : State) (pa : Nat) : Byte := NMap.get unlisted s.mem pa
def State.wrB (s : State) (pa : Nat) (b : Byte) : State := { s with mem := NMap.set unlisted s.mem pa b }

/-- The `k` bytes from `pa`. -/
def State.rdBytes (s : State) (pa k : Nat) : List Byte := (List.range k).map fun i => s.rdB (pa + i)

/-- The `k` bytes from `pa` as a number. -/
def State.rdN (s : State) (pa k : Nat) : Nat := ofBytes (s.rdBytes pa k)

/-- Write of the listed (address, byte) pairs in order. -/
def State.wrPairs (s : State) : List (Nat × Byte) → State
  | [] => s
  | (a, b) :: l => (s.wrB a b).wrPairs l

/-- Bytes placed from `pa` on, as pairs. -/
def pairsAt (pa : Nat) (bs : List Byte) : List (Nat × Byte) := bs.mapIdx fun i b => (pa + i, b)

def State.wrBytes (s : State) (pa : Nat) (bs : List Byte) : State := s.wrPairs (pairsAt pa bs)

/-- Write of a number of `k` bytes. -/
def State.wrN (s : State) (pa k n : Nat) : State := s.wrBytes pa (toBytes k n)

/-- The end of device memory. -/
def deviceEnd : Nat := 0xC000000000

/-! ### Residency (R355 to R358) -/

/-- A live handle covers a tile. -/
def Handle.covers (h : Handle) (tile : Nat) : Bool :=
  h.live && decide (h.first ≤ tile) && decide (tile < h.first + h.count)

/-- The priority of a tile (R357): the PRI of the lowest-numbered live handle that covers it. -/
def Context.tilePrio (c : Context) (tile : Nat) : Nat :=
  ((c.handles.find? fun h => h.2.covers tile).map fun h => h.2.pri).getD 0

/-- The index of a cluster's residency entry for a tile of a context. -/
def Cluster.resFind (cl : Cluster) (ctx tile : Nat) : Option (Nat × ResEntry) :=
  cl.res.findSome? fun e => match e.2 with
    | some r => if r.ctx = ctx ∧ r.tile = tile then some (e.1, r) else none
    | none => none

/-- The lowest index that holds no valid entry. -/
def Cluster.resFree (cl : Cluster) : Option Nat :=
  (List.range 1024).find? fun i => (NMap.get none cl.res i).isNone

/-- The victim of a full table (R358): CLAIMS 0, lowest tile priority, then fewest LINES, then lowest index. -/
def State.resVictim (s : State) (cl : Cluster) : Option Nat :=
  let rank (r : ResEntry) : Nat := (s.ctx r.ctx).tilePrio r.tile * 256 + r.lines
  let cand := cl.res.filterMap fun e => match e.2 with
    | some r => if r.claims = 0 then some (e.1, rank r) else none
    | none => none
  (cand.foldl (fun b e => match b with
    | none => some e
    | some f => if e.2 < f.2 then some e else b) none).map (·.1)

/-- The entry of a tile, made where it is missing and one can be made. -/
def State.resSlot (s : State) (cl : Cluster) (ctx tile : Nat) : Option (Nat × ResEntry) :=
  match cl.resFind ctx tile with
  | some e => some e
  | none =>
    let fresh : ResEntry := { ctx, lines := 0, claims := 0, tile }
    match cl.resFree with
    | some i => some (i, fresh)
    | none => (s.resVictim cl).map fun i => (i, fresh)

/-- A residency entry written back; one with no lines and no claims becomes invalid (R356). -/
def Cluster.resPut (cl : Cluster) (i : Nat) (r : ResEntry) : Cluster :=
  { cl with res := NMap.set none cl.res i (if r.lines = 0 ∧ r.claims = 0 then none else some r) }

/-- One line more of a tile in a cluster (R356). -/
def State.resLine (s : State) (c ctx tile : Nat) : State :=
  let cl := s.cluster c
  match s.resSlot cl ctx tile with
  | some (i, r) => s.setCluster c (cl.resPut i { r with lines := min 128 (r.lines + 1) })
  | none => s

/-- One line fewer (R356). DESIGN CHOICE (log 113): a dropped line counts in the entry that stands for its tile now, also where
that entry has never counted it, and LINES stops at 0. -/
def State.resUnline (s : State) (c ctx tile : Nat) : State :=
  let cl := s.cluster c
  match cl.resFind ctx tile with
  | some (i, r) => s.setCluster c (cl.resPut i { r with lines := r.lines - 1 })
  | none => s

/-- One claim more of a tile, saturating at 255 (R356); whether an entry held it. -/
def State.resClaim (s : State) (c ctx tile : Nat) : State × Bool :=
  let cl := s.cluster c
  match s.resSlot cl ctx tile with
  | some (i, r) => (s.setCluster c (cl.resPut i { r with claims := min 255 (r.claims + 1) }), true)
  | none => (s, false)

/-- One claim fewer. -/
def State.resUnclaim (s : State) (c ctx tile : Nat) : State :=
  let cl := s.cluster c
  match cl.resFind ctx tile with
  | some (i, r) => s.setCluster c (cl.resPut i { r with claims := r.claims - 1 })
  | none => s

/-! ### Watches and cluster caches -/

/-- Every watch on a line at the named slices is triggered (Table 08-5). -/
def State.trigger (s : State) (at_ : Nat → Bool) (line : Nat) : State :=
  { s with groups := s.groups.map fun g => { g with splits := g.splits.map fun p =>
      match p.watch with
      | some w => if w.line = line ∧ at_ w.slice then { p with watch := some { w with trig := true } } else p
      | none => p } }

/-- The banks of a cluster in a mode, in ascending index. -/
def Cluster.banksIn (cl : Cluster) (m : BankMode) : List Nat :=
  (List.range 32).filter fun i => (nth Bank.reset cl.banks i).mode == m

/-- Coherent or NC lines of a cluster cache that satisfy `p` are dropped, with their residency (R356). -/
def State.dropLines (s : State) (c : Nat) (p : CLine → Bool) : State :=
  let gone := (s.cluster c).cache.filter p
  let s1 := s.setCluster c { s.cluster c with cache := (s.cluster c).cache.filter fun l => !p l }
  gone.foldl (fun s l => s.resUnline c l.ctx l.tile) s1

/-- A slice invalidates its clusters' copies of a line, and its watches on the line are triggered (R39, R44). -/
def State.invalidateSlice (s : State) (slice line : Nat) : State :=
  ((clustersOfSlice slice).foldl (fun s c => s.dropLines c fun l => !l.nc && l.line == line) s).trigger
    (fun sl => sl == slice) line

/-- A coherent line held by a cluster. -/
def Cluster.holds (cl : Cluster) (line : Nat) (nc : Bool) : Option CLine :=
  cl.cache.find? fun l => l.line == line && l.nc == nc

/-! ### Versions (R383 to R386) -/

/-- A unit's version with nothing in it. -/
def Version.empty (cid holder : Nat) : Version :=
  { cid, holder, bytes := [], lines := [], spilled := [], reds := [], held := [], recs := [], vas := [], bad := [] }

/-- The bytes of a version that lie in a line, as (address, byte). -/
def Version.lineBytes (v : Version) (line : Nat) : List (Nat × Byte) :=
  v.bytes.filterMap fun e => match e.2 with
    | some b => if e.1 / 192 = line then some (e.1, b) else none
    | none => none

/-- A version that has lost a line. -/
def Version.without (v : Version) (line : Nat) : Version :=
  { v with lines := v.lines.filter fun l => l != line, spilled := v.spilled.filter fun l => l != line
           bytes := v.bytes.filter fun e => e.1 / 192 != line, vas := v.vas.filter fun e => e.1 / 192 != line
           bad := v.bad.filter fun x => x / 4 != line }

/-- The crew of a unit, resident or saved. -/
def State.unitCrew? (s : State) (cid : Nat) : Option Crew :=
  (s.crews ++ s.saved.map (·.crew)).find? fun c => c.cid == cid

/-- Log entries in use by the versions of a context (R384), those of saved units among them. -/
def State.vlogUsed (s : State) (ctx : Nat) : Nat :=
  (s.versions.map fun v => match s.unitCrew? v.cid with
    | some c => if c.ctx = ctx then v.spilled.length else 0
    | none => 0).sum

/-- Dis at one line (Table 02-5): this unit's version of it is dropped. What waits at the line still waits there. -/
def DirEntry.dis (e : DirEntry) (unit : Nat) : DirEntry :=
  if e.st = .v ∧ e.unit = unit then
    if e.sharers = 0 then { DirEntry.u with queue := e.queue } else { e with st := .s, unit := 0, holder := 0 }
  else e

/-- Dis reaches the home of a line (R45): it is acted on where the line is free, else it waits its turn there. -/
def State.disArrives (s : State) (line cid : Nat) : State :=
  let e := s.dirAt line
  s.setDir line (if e.txn.isSome ∨ !e.queue.isEmpty then { e with queue := e.queue ++ [.dis cid] } else e.dis cid)

/-- A version is discarded (R386): Dis at each of its lines, and its records are dropped. The record itself stays, empty,
for what the unit writes before it ends (R66). -/
def State.discardVersion (s : State) (cid : Nat) : State :=
  match s.version? cid with
  | none => s
  | some v => (v.lines.foldl (fun s l => s.disArrives l cid) s).setVersion (Version.empty cid v.holder)

/-- The lowest-numbered live split of a group that has not retired owes a trap. -/
def Group.oweFirst (g : Group) (t : Trap) : Group :=
  match if g.retired then none else g.splits.find? fun p => p.retained.isNone with
  | some p => g.setSplit { p with owed := p.owed ++ [t] }
  | none => g

/-- A unit ends without completing, resident or saved, and every group of it owes a trap (R384). -/
def State.oweUnit (s : State) (cid : Nat) (t : Trap) : State :=
  { s with
    crews := updWhere (fun c => c.cid == cid) (fun c => { c with discarded := true }) s.crews
    groups := updWhere (fun g => g.cid == cid) (fun g => g.oweFirst t) s.groups
    saved := updWhere (fun v => v.crew.cid == cid)
      (fun v => { v with crew := { v.crew with discarded := true }, groups := v.groups.map fun g => g.oweFirst t }) s.saved }

/-- Spill of a held line (R384): one log entry, or, with every entry in use, the unit's version is discarded and its
groups owe cause 0x16. -/
def State.spillLine (s : State) (unit line : Nat) : State :=
  match s.version? unit, s.unitCrew? unit with
  | some v, some c =>
    if line ∉ v.lines ∨ line ∈ v.spilled then s
    else if (s.ctx c.ctx).vlog ≠ 0 ∧ s.vlogUsed c.ctx < (s.ctx c.ctx).vlogsz then
      s.setVersion { v with spilled := v.spilled ++ [line] }
    else (s.discardVersion unit).oweUnit unit { cause := 0x16 }
  | _, _ => s

/-! ### The directory (R41 to R51) -/

def DirEntry.sharerList (e : DirEntry) : List Nat := (List.range 32).filter fun i => e.sharers.getLsbD i

def sharerMask (l : List Nat) : BitVec 32 := l.foldl (fun m i => m ||| BitVec.ofNat 32 (2 ^ i)) 0

/-- The slice that a request keeps a copy for, where it is a sharer. -/
def DReq.keeper : DReq → Option Nat
  | .wr sl _ _ => sl
  | _ => none

/-- The slices that a request invalidates in a line's state (Table 02-5, "Inv"). -/
def dirAcks (e : DirEntry) (r : DReq) : List Nat :=
  let others := e.sharerList.filter fun i => r.keeper != some i
  match r, e.st with
  | .wr .., .s | .wr .., .v | .orB .., .s | .orB .., .v => others
  | .getk _, .s | .getk _, .v | .recall, .s | .recall, .v => e.sharerList
  | .getk _, .e | .getk _, .m | .recall, .e | .recall, .m => [e.owner]
  | .cmt _, .s | .cmt _, .v => e.sharerList
  | _, _ => []

/-- The request goes on to the owner (Table 02-5, "Fwd"). -/
def dirFwd (e : DirEntry) (r : DReq) : Bool := match e.st with
  | .e | .m => match r with
    | .rds _ | .rdu _ _ | .wr .. | .orB .. | .vwr .. | .cmt _ => true
    | _ => false
  | _ => false

/-- The request waits for EndK (Table 02-5). -/
def dirWaits (e : DirEntry) (r : DReq) : Bool := e.st = .k && match r with
  | .rdu _ true | .dis _ | .dirty _ | .evc _ | .wbe _ => false
  | _ => true

/-- A version of the line that the request makes its holder spill (Table 02-5, "Spill"). -/
def dirSpills (e : DirEntry) (r : DReq) : Option Nat := match e.st, r with
  | .v, .getk _ | .v, .recall => some e.unit
  | .v, .vwr u _ => if e.unit = u then none else some e.unit
  | _, _ => none

/-- The state that a request leaves (Table 02-5), acted on as in U where it waited for EndK. DESIGN CHOICE (log 122): the request is
a use of the entry (R49); reads that leave the entry as it is are none. -/
def dirNext (e : DirEntry) (r : DReq) (clock : Nat) : DirEntry :=
  let owned (sl : Nat) : DirEntry := { DirEntry.u with st := .e, owner := sl, sharers := sharerMask [sl], used := clock }
  let shared (l : List Nat) : DirEntry :=
    if l.isEmpty then DirEntry.u else { DirEntry.u with st := .s, sharers := sharerMask l, used := clock }
  let kept : List Nat := e.sharerList.filter fun i => r.keeper == some i
  match r, e.st with
  | .rds sl, .u | .rds sl, .k => owned sl
  | .rds sl, .s => shared (e.sharerList ++ [sl])
  | .rds sl, .e | .rds sl, .m => shared [e.owner, sl]
  | .rds sl, .v => { e with sharers := e.sharers ||| sharerMask [sl], used := clock }
  | .rdu .., _ => { e with used := if e.st = .u then 0 else clock }
  | .wr .., .u | .wr .., .k | .orB .., .u | .orB .., .k => DirEntry.u
  | .wr .., .s | .orB .., .s => shared kept
  | .wr .., .e | .wr .., .m | .orB .., .e | .orB .., .m => { e with st := .m, used := clock }
  | .wr .., .v | .orB .., .v => { e with sharers := sharerMask kept, used := clock }
  | .getk c, _ => { DirEntry.u with st := .k, engine := c, used := clock, since := clock }
  | .vwr u h, .u | .vwr u h, .k => { DirEntry.u with st := .v, unit := u, holder := h, used := clock }
  | .vwr u h, .e | .vwr u h, .m =>
    { DirEntry.u with st := .v, unit := u, holder := h, sharers := sharerMask [e.owner], used := clock }
  | .vwr u h, _ => { e with st := .v, unit := u, holder := h, owner := 0, used := clock }
  | .cmt u, .v => if e.unit = u then DirEntry.u else { e with sharers := 0, used := clock }
  | .cmt _, .e | .cmt _, .m => { e with st := .m, used := clock }
  | .cmt _, _ => DirEntry.u
  | .dis u, _ => e.dis u
  | .recall, _ => DirEntry.u
  | .dirty sl, .e => if e.owner = sl then { e with st := .m, used := clock } else e
  | .evc sl, .s => shared (e.sharerList.filter fun i => i != sl)
  | .evc sl, .v => { e with sharers := e.sharers &&& ~~~sharerMask [sl], used := clock }
  | .evc sl, .e => if e.owner = sl then DirEntry.u else e
  | .wbe sl, .m => if e.owner = sl then DirEntry.u else e
  | .dirty _, _ | .evc _, _ | .wbe _, _ => e

/-- The request creates an entry where the line is in U (R49). -/
def dirCreates (r : DReq) : Bool := match r with
  | .rds _ | .getk _ | .vwr .. => true
  | _ => false

/-- The lines with an entry in the snoop-filter set of a line (R49): those not in U. -/
def State.snoopSet (s : State) (line : Nat) : List (Nat × DirEntry) :=
  s.dir.filter fun e => e.2.st != .u && e.1 % 16384 == line % 16384 && homeSlice (192 * e.1) == homeSlice (192 * line)

/-- The victim of a full set (R49): the least recently used entry with no transaction that is not in K. -/
def snoopVictim (l : List (Nat × DirEntry)) : Option Nat :=
  ((l.filter fun e => e.2.st != .k && e.2.txn.isNone).foldl (fun b e => match b with
    | none => some e
    | some f => if e.2.used < f.2.used then some e else b) none).map (·.1)

/-- The sectors of a committed line (R307): those that the unit's copies wrote poisoned are poisoned, and those that the
version holds whole and sound are not (log 54). -/
def State.mergePoison (s : State) (v : Version) (line : Nat) : State :=
  let secs := (List.range 4).map fun i => 4 * line + i
  let whole (x : Nat) : Bool := (List.range 48).all fun i => (NMap.get none v.bytes (48 * x + i)).isSome
  { s with poison := sortAsc ((secs.filter fun x => v.bad.contains x) ++ s.poison.filter fun x =>
      !(secs.contains x && whole x)) }

/-- What a request does to the data and to versions at its serialisation: a Wr, a walker's OR, or the logged or held bytes
of a committed line are written, which triggers every watch on the line (Table 08-5, row 1); a line that has entered V, or left it for
good, joins or leaves its unit's version. -/
def State.dirData (s : State) (line : Nat) (r : DReq) : State := match r with
  | .wr _ _ bytes => (s.wrPairs bytes).trigger (fun _ => true) line
  | .orB pa bit => (s.wrB pa (s.rdB pa ||| BitVec.ofNat 8 (2 ^ bit))).trigger (fun _ => true) line
  | .vwr u _ => match s.version? u with
    | some v => s.setVersion { v with lines := insertAsc line v.lines }
    | none => s
  | .cmt u => match s.version? u with
    | some v => (((s.wrPairs (v.lineBytes line)).mergePoison v line).trigger (fun _ => true) line).setVersion (v.without line)
    | none => s
  | .dis u => match s.version? u with
    | some v => s.setVersion (v.without line)
    | none => s
  | _ => s

/-- The copies in the requester's own slice after its Wr (R38, R44): the issuing cluster's copy is updated and the other
two clusters' copies are invalidated; with no cluster named, all three are. -/
def State.wrCopies (s : State) (r : DReq) (line : Nat) : State := match r with
  | .wr (some sl) c _ =>
    (clustersOfSlice sl).foldl (fun s k => if c = some k then s
      else s.dropLines k fun l => !l.nc && l.line == line) s
  | _ => s

/-- After the owner has answered a forward (Table 02-5): its clusters' copies of a line that was written are invalidated.
-/
def State.ownerCopies (s : State) (e : DirEntry) (r : DReq) (line : Nat) : State := match r with
  | .wr .. | .orB .. | .cmt _ => (clustersOfSlice e.owner).foldl (fun s c => s.dropLines c fun l => !l.nc && l.line == line) s
  | _ => s

/-- A request is serialised: the owner's copies, the spill and the data. -/
def State.dirAct (s : State) (line : Nat) (r : DReq) : State :=
  let e := s.dirAt line
  let s1 := if dirFwd e r then s.ownerCopies e r line else s
  let s2 := match dirSpills e r with
    | some u => s1.spillLine u line
    | none => s1
  s2.dirData line r

/-- The unit whose VWr this is has ended while the request waited: there is no version to hold. -/
def State.vwrGone (s : State) (r : DReq) : Bool := match r with
  | .vwr u _ => (s.version? u).isNone
  | _ => false

/-- The end of a transaction: the requester's copies and the next state. -/
def State.dirClose (s : State) (line : Nat) (r : DReq) : State :=
  let s1 := s.wrCopies r line
  let e := s1.dirAt line
  let e' := if s1.vwrGone r then { e with txn := none } else dirNext { e with txn := none } r (s.dirClock + 1)
  { s1.setDir line { e' with queue := e.queue } with dirClock := s.dirClock + 1 }

/-- A request is acted on to its end. -/
def State.dirFinish (s : State) (line : Nat) (r : DReq) : State := (s.dirAct line r).dirClose line r

/-- A request finds a snoop-filter entry, free or to be freed by a Recall (R49). -/
def State.dirRoom (s : State) (line : Nat) (r : DReq) : Bool :=
  (s.dirAt line).st != .u || !dirCreates r || decide ((s.snoopSet line).length < 16)
    || (snoopVictim (s.snoopSet line)).isSome

/-- An engine's source read of a line in K (Table 02-5, R47): it waits neither for EndK nor behind what does. -/
def dirPasses (e : DirEntry) (r : DReq) : Bool := e.st = .k && match r with
  | .rdu _ true => true
  | _ => false

/-- A request can be acted on now: no transaction, no queue before it, no K, and a snoop-filter entry for it. -/
def State.dirReady (s : State) (line : Nat) (r : DReq) : Bool :=
  let e := s.dirAt line
  e.txn.isNone && (dirPasses e r || e.queue.isEmpty) && !dirWaits e r && s.dirRoom line r

/-- A whole transaction of the home in one step (log 3). -/
def State.dirWholeAt (s : State) (line : Nat) (r : DReq) : State :=
  ((dirAcks (s.dirAt line) r).foldl (fun s sl => s.invalidateSlice sl line) s).dirFinish line r

/-- The Recall of a victim that a request needs where its set is full (R49). -/
def State.recallFor (s : State) (line : Nat) (r : DReq) : State :=
  if (s.dirAt line).st = .u ∧ dirCreates r ∧ 16 ≤ (s.snoopSet line).length then
    match snoopVictim (s.snoopSet line) with
    | some v => s.dirWholeAt v .recall
    | none => s
  else s

/-- A request acted on whole, with the Recall of a victim before it where its set is full (R49). -/
def State.dirWhole (s : State) (line : Nat) (r : DReq) : State := (s.recallFor line r).dirWholeAt line r

/-- The home begins on a request (R44, R45): with copies to invalidate or an owner to ask, a transaction is in progress. -/
def State.dirBegin (s : State) (line : Nat) (r : DReq) : State :=
  let e := s.dirAt line
  if dirAcks e r = [] ∧ !dirFwd e r then s.dirFinish line r
  else s.setDir line { e with
    txn := some { req := r, acks := dirAcks e r, acked := [], fwd := dirFwd e r, fwdDone := false } }

/-- Queued requests are begun in arrival order while the line is free (R45). -/
def State.dirDrain (s : State) (line : Nat) : Nat → State
  | 0 => s
  | n + 1 =>
    let e := s.dirAt line
    match e.queue with
    | [] => s
    | r :: l =>
      if e.txn.isSome ∨ dirWaits e r ∨ !s.dirRoom line r then s
      else (((s.setDir line { e with queue := l }).recallFor line r).dirBegin line r).dirDrain line n

/-- A line of device memory. -/
def deviceLine (line : Nat) : Bool := decide (192 * line + 192 ≤ deviceEnd)

/-- A request reaches the home of its line (R45): it is begun where the line is free, else it waits its turn. -/
def State.arrive (s : State) (line : Nat) (r : DReq) : State :=
  if !deviceLine line then s
  else if s.dirReady line r then (s.recallFor line r).dirBegin line r
  else s.setDir line { s.dirAt line with queue := (s.dirAt line).queue ++ [r] }

/-- A request of an operation that does not wait for its answer: a whole transaction where the home can act on it now (log
3), else it waits its turn there. -/
def State.request (s : State) (line : Nat) (r : DReq) : State :=
  if s.dirReady line r then s.dirWhole line r else s.arrive line r

/-- EndK (R47): the engine gives the line up, and what waited for it proceeds. -/
def State.endK (s : State) (line cmd : Nat) : State :=
  let e := s.dirAt line
  if e.st = .k ∧ e.engine = cmd then
    (s.setDir line { DirEntry.u with queue := e.queue }).dirDrain line e.queue.length
  else s

/-- The home may read the line for an agent that is no engine: a line in K is waited for (Table 02-5). -/
def State.rduFree (s : State) (pa : Nat) : Bool := s.dirReady (lineOf pa) (.rdu 0 false)

/-! ### Translation -/

/-- A translated page and the physical addresses of the entries whose ACC the walk sets. -/
structure Walk where
  res : Except Nat TlbEntry
  acc : List Nat

/-- A page or node lies wholly inside one range of Table 02-1. -/
def oneRange (base size : Nat) : Bool :=
  decide (base + size ≤ 0x10000000000000) && decide (rangeOf base = rangeOf (base + size - 1))

/-- One level of a walk (R35) and the levels below it; `lev` counts the levels still to go, 4 at the root. -/
def walkAt (s : State) (vpn : Nat) : Nat → Nat → List Nat → Walk
  | 0, _, acc => { res := .error 0x06, acc }
  | lev + 1, node, acc =>
    let ent := node + 8 * (vpn / 1024 ^ lev % 1024)
    let e := s.rdN ent 8
    let leaf := e.testBit 4
    let frame := bits e 50 12
    let size := 24576 * 1024 ^ lev
    if !e.testBit 0 then { res := .error 0x05, acc }
    else if bits e 63 51 ≠ 0 ∨ bits e 11 7 ≠ 0 ∨ (leaf ∧ lev = 3) ∨ (!leaf ∧ lev = 0) ∨ (e.testBit 3 ∧ !leaf) then
      { res := .error 0x06, acc }
    else if leaf then
      if oneRange (frame * size) size then
        { res := .ok { vpn := vpn / 1024 ^ lev * 1024 ^ lev, pages := 1024 ^ lev, pa := frame * size,
                       wr := e.testBit 1, exe := e.testBit 2, nc := e.testBit 3, ent },
          acc := acc ++ [ent] }
      else { res := .error 0x06, acc }
    else if frame * 8192 + 8192 ≤ deviceEnd then walkAt s vpn lev (frame * 8192) (acc ++ [ent])
    else { res := .error 0x06, acc }

/-- The walk of a virtual page number from a context's ROOT, which is checked as a non-leaf FRAME is (R35). -/
def walk (s : State) (root vpn : Nat) : Walk :=
  if root + 8192 ≤ deviceEnd then walkAt s vpn 4 root [] else { res := .error 0x06, acc := [] }

/-- A bit of a table entry is set. -/
def State.entryBit (s : State) (ent bit : Nat) : Bool := (s.rdB ent).getLsbD bit

/-- An OR of the bit into the entry waits or is being made at the entry's home. -/
def State.orPending (s : State) (ent bit : Nat) : Bool :=
  let e := s.dirAt (lineOf ent)
  e.queue.contains (.orB ent bit) || match e.txn with
    | some t => t.req == .orB ent bit
    | none => false

/-- The atomic OR of a bit into a table entry at its home slice (R35): a Wr of the directory, which waits its turn there as
any other does. The walker makes none where the bit is set already or the same OR waits there. -/
def State.orEntry (s : State) (ent bit : Nat) : State :=
  if s.entryBit ent bit ∨ s.orPending ent bit then s else s.arrive (lineOf ent) (.orB ent bit)

/-- ACC is set in every entry that a walk has passed (R35). -/
def State.setAcc (s : State) (l : List Nat) : State := l.foldl (fun s e => s.orEntry e 5) s

/-- DIRTY is set in a leaf before the first write made through it (R35). -/
def State.setDirty (s : State) (ent : Nat) : State := s.orEntry ent 6

/-- An OR of DIRTY into a leaf has still to be made at its home: no write is made through the leaf meanwhile, so that DIRTY
stands before the first (R35). -/
def State.dirtyPending (s : State) (ent : Nat) : Bool := s.orPending ent 6

/-- A translated address: physical address, whether its line is NC, and its leaf entry. -/
structure Xlate where
  pa : Nat
  nc : Bool
  ent : Nat
  deriving DecidableEq, Repr

/-- What an access asks of the leaf. -/
inductive Need where
  | read | write | fetch
  deriving DecidableEq, Repr

/-- The end of the virtual address space (R34). -/
def vaEnd : Nat := 3 * 2 ^ 53

/-- A fabric address names node PA[49:40], which FABROUTE's entry must reach (R425). -/
def State.routed (s : State) (pa : Nat) : Bool :=
  rangeOf pa != .fabric || (NMap.get 0 s.bar0.fabroute (bits pa 49 40)).getLsbD 15

/-- The checks of a leaf for an access and the physical address it gives (R32, R35, R425). -/
def useLeaf (s : State) (t : TlbEntry) (va : Nat) (n : Need) : Except Nat Xlate :=
  let pa := t.pa + (va - t.vpn * 24576)
  if (n = .write ∧ !t.wr) ∨ (n = .fetch ∧ !t.exe) then .error 0x06
  else if rangeOf pa = .reserved ∨ !s.routed pa then .error 0x06
  else .ok { pa, nc := t.nc && decide (rangeOf pa = .device), ent := t.ent }

/-- The cached translations of a page that differ from what a walk gives now. -/
def Context.stale (c : Context) (vpn : Nat) (w : Except Nat TlbEntry) : List TlbEntry :=
  c.tlb.filter fun t => decide (t.vpn ≤ vpn) && decide (vpn < t.vpn + t.pages) && match w with
    | .ok u => t != u
    | .error _ => true

/-- Translation of a virtual address in a context (R34, R35, R380): a walk, which is cached where it reaches a leaf. While
a translation that a table change has made stale is still cached, it may be used instead, as `Config.tlbPick` gives (log
15). -/
def State.translate (s : State) (ctx va : Nat) (n : Need) : Except Nat Xlate × State :=
  if vaEnd ≤ va then (.error 0x05, s)
  else
    let c := s.ctx ctx
    let vpn := va / 24576
    let w := walk s c.root vpn
    let old := c.stale vpn w.res
    match if old.isEmpty then none else
        match Config.tlbPick s.tick vpn % (old.length + 1) with
        | 0 => none
        | i + 1 => old[i]? with
    | some t => (useLeaf s t va n, s)
    | none =>
      let s1 := s.setAcc w.acc
      match w.res with
      | .error e => (.error e, s1)
      | .ok t =>
        (useLeaf s t va n, if t ∈ c.tlb then s1 else s1.setCtx ctx { c with tlb := c.tlb ++ [t] })

/-- A look-up that makes no access: no ACC, no fault (R354). -/
def State.lookUp (s : State) (ctx va : Nat) : Option Nat :=
  if vaEnd ≤ va then none
  else match (walk s (s.ctx ctx).root (va / 24576)).res with
    | .error _ => none
    | .ok t => some (t.pa + (va - t.vpn * 24576))

/-! ### Filling the cluster cache -/

/-- NC bytes at home under the dirty sectors of a cached line, as pairs (R52). -/
def CLine.dirtyPairs (l : CLine) : List (Nat × Byte) :=
  (pairsAt (192 * l.line) l.data).filter fun e => l.dirty.getLsbD (e.1 % 192 / 48)

/-- A dirty NC line is written back as Wr (R52, R54). -/
def State.writeBack (s : State) (l : CLine) : State :=
  if l.dirty = 0 then s else s.dirWhole l.line (.wr none none l.dirtyPairs)

/-- The home takes a write-back now. -/
def State.canWriteBack (s : State) (l : CLine) : Bool :=
  l.dirty == 0 || s.dirReady l.line (.wr none none [])

/-- The sectors of a line that `n` bytes from `pa` on touch. -/
def sectorsOf (pa n : Nat) : BitVec 4 :=
  BitVec.ofNat 4 (((List.range 4).filter fun i => decide (48 * i < pa % 192 + n) && decide (pa % 192 < 48 * i + 48)).foldl
    (fun m i => m + 2 ^ i) 0)

/-- A line's bytes after its home has sent the sectors `want`: the sectors that it held already keep theirs. Only an NC line
keeps bytes of its own. -/
def State.sectorData (s : State) (line : Nat) (nc : Bool) (old : List Byte) (have_ want : BitVec 4) : List Byte :=
  if nc then (List.range 192).map fun i =>
    if have_.getLsbD (i / 48) then nth 0 old i else if want.getLsbD (i / 48) then s.rdB (192 * line + i) else 0
  else []

/-- A cluster holds the named sectors of a line. -/
def Cluster.hit (cl : Cluster) (line : Nat) (nc : Bool) (secs : BitVec 4) : Bool := match cl.holds line nc with
  | some l => secs &&& ~~~l.valid == 0
  | none => false

/-- A BANKCFG in progress on a cluster: the banks it names and their new mode (R189). -/
def State.bankChange (s : State) (c : Nat) : Option (Word × Nat) :=
  s.ops.findSome? fun o => match o.kind with
    | .bankcfg m mode => match (s.group? o.gid).bind fun g => s.crew? g.cid with
      | some cr => if cr.cluster = c then some (m, mode) else none
      | none => none
    | _ => none

/-- The banks that take fills (R38): those in CACHE mode that no BANKCFG in progress takes out of it (R189). -/
def State.fillWays (s : State) (c : Nat) : List Nat :=
  ((s.cluster c).banksIn .cache).filter fun i => match s.bankChange c with
    | some (m, mode) => mode % 4 == 0 || !m.getLsbD i
    | none => true

/-- A line of the set of another. -/
def CLine.inSet (l : CLine) (line : Nat) : Bool := l.line % 256 == line % 256

/-- The ways that hold no line of a set. -/
def State.freeWays (s : State) (c line : Nat) : List Nat :=
  (s.fillWays c).filter fun w => !(s.cluster c).cache.any fun l => l.inSet line && l.way == w

/-- The lines of a full set that can make room: those that need no write-back, or whose home takes it now. -/
def State.fillVictims (s : State) (c line : Nat) : List CLine :=
  (s.cluster c).cache.filter fun l => l.inSet line && (s.fillWays c).contains l.way && s.canWriteBack l

/-- A fill of a line can be made: the cluster has no cache that takes one, holds the line, has a free way, or a way that can
be freed. -/
def State.fillReady (s : State) (c line : Nat) (nc : Bool) : Bool :=
  (s.fillWays c).isEmpty || ((s.cluster c).holds line nc).isSome || !(s.freeWays c line).isEmpty
    || !(s.fillVictims c line).isEmpty

/-- A line is filled into a cluster cache (R36, R38, R356): the sectors `secs`, and those that `Config.fillExtra` adds (log
94). It goes to a free way that `Config.victim` picks; a full set gives up the line that it picks (log 9), written back
first where it is a dirty NC line. -/
def State.fillLine (s : State) (c line ctx tile : Nat) (nc stream : Bool) (secs : BitVec 4) : State :=
  let cl := s.cluster c
  let want := secs ||| Config.fillExtra s.tick line
  if (s.fillWays c).isEmpty ∨ cl.hit line nc secs then s
  else match cl.holds line nc with
  | some l =>
    if !(s.fillWays c).contains l.way then s
    else
      let l' := { l with valid := l.valid ||| want, data := s.sectorData line nc l.data l.valid want }
      s.setCluster c { cl with
        cache := updWhere (fun x => x.line == line && x.nc == nc) (fun _ => l') cl.cache }
  | none =>
    let put (s : State) (way : Nat) : State :=
      let new : CLine := { line, ctx, tile, nc, way, valid := want, data := s.sectorData line nc [] 0 want, dirty := 0,
                           victim := stream }
      (s.setCluster c { s.cluster c with cache := (s.cluster c).cache ++ [new] }).resLine c ctx tile
    match (s.freeWays c line)[Config.victim s.tick % (s.freeWays c line).length]? with
    | some w => put s w
    | none => match (s.fillVictims c line)[Config.victim s.tick % (s.fillVictims c line).length]? with
      | none => s
      | some v => put ((s.writeBack v).dropLines c fun l => l.line == v.line && l.nc == v.nc) v.way

end Sys2Proof.Machine
end

