-- ==== Sys2Proof/Machine/Access.lean ====
section
/-! DEFINITION. What a unit's reads and writes of memory and of its scratchpad do: the path of each access by the range and
page it falls in (R46, R48, R52, R55), versions, snapshots and held writes (R383, R402, R403), and scratchpad places
(R175). -/

namespace Sys2Proof.Machine

/-! ### Launch and crew attributes (Table 15-2) -/

def Launch.f (l : Launch) (hi lo : Nat) : Nat := bits l.record.toNat hi lo
def Launch.versionedFlag (l : Launch) : Bool := l.record.toNat.testBit 377
def Launch.replayable (l : Launch) : Bool := l.record.toNat.testBit 378
def Launch.redundant (l : Launch) : Bool := l.record.toNat.testBit 379

/-- The live REPLAYABLE launch of a crew. -/
def State.replayLaunch (s : State) (c : Crew) : Option Launch :=
  match s.launch? c.lid with
  | some l => if l.replayable then some l else none
  | none => none

/-! ### Snapshots and held writes (R402, R403, R405) -/

/-- Pages of device memory among addresses, without repeats. -/
def devicePages (pas : List Nat) : List Nat :=
  dedupe ((pas.filter fun a => rangeOf a == .device).map tileOf)

/-- The snapshot of these pages fits: pages not yet snapshotted are within SNAPSZ (R402). -/
def State.snapFits (s : State) (c : Crew) (pas : List Nat) : Bool :=
  match s.replayLaunch c with
  | none => true
  | some l =>
    let new := (devicePages pas).filter fun p => !l.snaps.any fun e => e.1 == p
    let used := (s.launches.map fun m => if m.ctx = c.ctx ∧ m.replayable then m.snaps.length else 0).sum
    new.isEmpty || (decide ((s.ctx c.ctx).snap ≠ 0) && decide (used + new.length ≤ (s.ctx c.ctx).snapsz))

/-- The listed bytes of a page. -/
def State.pageBytes (s : State) (p : Nat) : List (Nat × Byte) := s.mem.filter fun e => e.1 / 24576 == p

/-- The first write of a replayable launch to a page copies the page's old contents (R402). DESIGN CHOICE (log 114): they are
those of the home copy; dirty bytes of an NC line that a cluster cache holds are not among them. -/
def State.snapshot (s : State) (c : Crew) (pas : List Nat) : State :=
  match s.replayLaunch c with
  | none => s
  | some l =>
    let new := (devicePages pas).filter fun p => !l.snaps.any fun e => e.1 == p
    if new.isEmpty then s else s.setLaunch { l with snaps := l.snaps ++ new.map fun p => (p, s.pageBytes p) }

/-- A write by a unit of another launch marks a live snapshot of the page as in conflict (R405). -/
def State.markConflict (s : State) (lid page : Nat) : State :=
  { s with launches := s.launches.map fun l =>
      if l.lid ≠ lid ∧ l.replayable ∧ l.snaps.any (fun e => e.1 == page) then { l with conflict := true }
      else l }

/-- The bytes of held writes. -/
def heldBytes (l : List HeldWrite) : Nat := (l.map fun h => h.bytes.length).sum

/-- The bytes of a context's hold region in use (R403): those that its launches hold, those that wait in the versions of the
units of REPLAYABLE launches, and those that such units' copies in flight have still to write. -/
def State.holdUsed (s : State) (ctx : Nat) : Nat :=
  let ofUnit (cid n : Nat) : Nat := match s.unitCrew? cid with
    | some c => if c.ctx = ctx ∧ (s.replayLaunch c).isSome then n else 0
    | none => 0
  (s.launches.map fun m => if m.ctx = ctx then heldBytes m.held else 0).sum
    + (s.versions.map fun v => ofUnit v.cid (heldBytes v.held)).sum + (s.copies.map fun x => ofUnit x.cid x.hold).sum

/-- The hold region takes `n` more bytes of a crew (R403). DESIGN CHOICE (log 117): its HOLDSZ entries of 64 bytes hold the bytes of
the writes, closely packed. -/
def State.holdFits (s : State) (c : Crew) (n : Nat) : Bool :=
  match s.replayLaunch c with
  | none => true
  | some _ => n == 0 || (decide ((s.ctx c.ctx).hold ≠ 0) && decide (s.holdUsed c.ctx + n ≤ 64 * (s.ctx c.ctx).holdsz))

/-! ### Atomic operations on windows and held REDs -/

/-- A read-modify-write of `n` bytes at once on memory outside the directory. -/
def State.rmwRaw (s : State) (pa n : Nat) (f : Nat → Nat) : State := s.wrN pa n (f (s.rdN pa n))

/-! ### Writes -/

/-- A write of a versioned unit (R48, R383): the line enters V by VWr at the unit's first write of it, and the bytes and
their virtual addresses join the version. -/
def State.versionWrite (s : State) (cid pa va : Nat) (bs : List Byte) : State :=
  match s.version? cid with
  | none => s
  | some v =>
    let line := lineOf pa
    let s1 := if line ∈ v.lines then s else s.dirWhole line (.vwr cid v.holder)
    match s1.version? cid with
    | none => s1
    | some w =>
      s1.setVersion { w with
        bytes := (pairsAt pa bs).foldl (fun m e => NMap.set none m e.1 (some e.2)) w.bytes
        vas := (bs.mapIdx fun i _ => (pa + i, va + i)).foldl (fun m e => NMap.set none m e.1 (some e.2)) w.vas }

/-- An NC store on the line's home die (R52): it allocates in the cluster cache, in write-back mode; where the cluster
has no cache that takes the sector it goes to the home. -/
def State.ncStore (s : State) (c ctx pa va : Nat) (bs : List Byte) : State :=
  let line := lineOf pa
  let s1 := s.fillLine c line ctx (va / 24576) true false (sectorsOf pa bs.length)
  match if (s1.cluster c).hit line true (sectorsOf pa bs.length) then (s1.cluster c).holds line true else none with
  | none => s1.dirWhole line (.wr none none (pairsAt pa bs))
  | some l =>
    let off := pa % 192
    let l' := { l with data := l.data.mapIdx fun i b => if off ≤ i ∧ i < off + bs.length then nth b bs (i - off) else b
                       dirty := l.dirty ||| BitVec.ofNat 4 (2 ^ (off / 48)) }
    s1.setCluster c { s1.cluster c with
      cache := updWhere (fun x => x.line == line && x.nc) (fun _ => l') (s1.cluster c).cache }

/-- A serving slice holds a copy of a line (R39): the home counts it as a sharer or owner, and it has neither invalidated its
copy for the transaction in progress nor sent Evc or WbE, after which its clusters may hold nothing of the line. -/
def State.sliceHolds (s : State) (sl line : Nat) : Bool :=
  let e := s.dirAt line
  let gone := match e.txn with
    | some t => (dirAcks e t.req).contains sl && !t.acks.contains sl
    | none => false
  e.sharers.getLsbD sl && !gone && !e.queue.contains (.evc sl) && !e.queue.contains (.wbe sl)

/-- The lines of an L2 slice of 12 MiB (R2). -/
def sliceLines : Nat := 65536

/-- What a serving slice holds: the lines of its copies, and, with their units, the lines of versions that have not spilled
(R48, R384). -/
def State.sliceHeld (s : State) (sl : Nat) : List (Nat × Option Nat) :=
  ((s.dir.filter fun e => s.sliceHolds sl e.1).map fun e => (e.1, none))
    ++ s.versions.flatMap fun v =>
      if v.holder = sl then (v.lines.filter fun l => !v.spilled.contains l).map fun l => (l, some v.cid) else []

/-- A coherent store by a group of a cluster (R46): at the owner slice in E or M, where a first write sends Dirty; else as
a Wr at the home. `keep`: the issuing cluster's copy is kept and updated (false under .l2only). -/
def State.cohStore (s : State) (c pa : Nat) (bs : List Byte) (keep : Bool) : State :=
  let line := lineOf pa
  let sl := sliceOfCluster c
  let e := s.dirAt line
  if (e.st = .e ∨ e.st = .m) ∧ e.owner = sl ∧ s.sliceHolds sl line then
    let s1 := s.setDir line { e with st := .m, used := s.dirClock + 1 }
    let s2 : State := { s1.wrBytes pa bs with dirClock := s.dirClock + 1 }
    ((clustersOfSlice sl).foldl (fun (t : State) k => if keep ∧ k = c then t
        else t.dropLines k fun l => !l.nc && l.line == line) s2).trigger (fun _ => true) line
  else s.dirWhole line (.wr (some sl) (if keep then some c else none) (pairsAt pa bs))

/-- A store of a crew's group: to its version, to its hold region, over the link, or to memory. DESIGN CHOICE (log 121): a store to
a remote NC page names no requester, so its serving slice's copy is invalidated with the others (R54). -/
def State.unitStore (s : State) (c : Crew) (pa va : Nat) (nc : Bool) (bs : List Byte) (keep : Bool) : State :=
  match rangeOf pa with
  | .device =>
    if c.versioned then s.versionWrite c.cid pa va bs
    else
      let s1 := s.markConflict c.lid (tileOf pa)
      if nc then
        if homeDie pa = dieOfCluster c.cluster then s1.ncStore c.cluster c.ctx pa va bs
        else s1.dirWhole (lineOf pa) (.wr none none (pairsAt pa bs))
      else s1.cohStore c.cluster pa bs keep
  | _ =>
    let h : HeldWrite := { pa, va, bytes := bs, aop := none, ent := none }
    if c.versioned then
      match s.version? c.cid with
      | some v => s.setVersion { v with held := v.held ++ [h] }
      | none => s
    else match s.replayLaunch c with
      | some l => s.setLaunch { l with held := l.held ++ [h] }
      | none => s.wrBytes pa bs

/-- Bytes that the unit's own atomics and engines write at the home (R180): to its version, or as a Wr without a copy. -/
def State.homeStore (s : State) (c : Crew) (pa va : Nat) (bs : List Byte) : State :=
  match rangeOf pa with
  | .device =>
    if c.versioned then s.versionWrite c.cid pa va bs
    else (s.markConflict c.lid (tileOf pa)).dirWhole (lineOf pa) (.wr none none (pairsAt pa bs))
  | _ => s.unitStore c pa va false bs false

/-- The address of a place in memory and whether its page is NC. -/
def Place.inMemory : Place → Option (Nat × Bool)
  | .phys pa nc => some (pa, nc)
  | .scratch _ => none

/-- A place that is none of memory. -/
def Place.inside (p : Place) : Bool := p.inMemory.isNone

/-! ### Reads -/

/-- The byte a unit reads: its own version over the committed data (R48, R66). -/
def State.unitByte (s : State) (c : Crew) (pa : Nat) : Byte :=
  if c.versioned then
    match s.version? c.cid with
    | some v => (NMap.get none v.bytes pa).getD (s.rdB pa)
    | none => s.rdB pa
  else s.rdB pa

/-- The byte that the unit's version holds at an address, where it holds one. -/
def State.versionByte (s : State) (c : Crew) (pa : Nat) : Option Byte :=
  if c.versioned then (s.version? c.cid).bind fun v => NMap.get none v.bytes pa else none

/-- The bytes a group's load reads: those of its version, what its engines have written to NC pages among them (R60, R309);
else an NC line that its cluster cache holds, or memory. -/
def State.unitLoad (s : State) (c : Crew) (pa n : Nat) (nc : Bool) : Nat :=
  match if nc ∧ (s.cluster c.cluster).hit (lineOf pa) true (sectorsOf pa n) then (s.cluster c.cluster).holds (lineOf pa) true
      else none with
  | some l => ofBytes ((List.range n).map fun i => (s.versionByte c (pa + i)).getD (nth 0 l.data (pa % 192 + i)))
  | none => ofBytes ((List.range n).map fun i => s.unitByte c (pa + i))

/-- What a load's miss of the sectors `secs` does to the caches and the directory (R36, R38, R39, R52, R171): RdS where the
serving slice holds no copy, and a fill of the cluster cache unless the policy is .l2only. -/
def State.loadTouch (s : State) (c : Crew) (pa va : Nat) (nc : Bool) (cp : Nat) (secs : BitVec 4) : State :=
  let line := lineOf pa
  if rangeOf pa ≠ .device then s
  else if nc then
    if homeDie pa = dieOfCluster c.cluster then s.fillLine c.cluster line c.ctx (va / 24576) true (cp == 1) secs else s
  else if (s.cluster c.cluster).hit line false secs then s
  else
    let sl := sliceOfCluster c.cluster
    let s1 := if s.sliceHolds sl line then s else s.dirWhole line (.rds sl)
    if cp = 2 then s1 else s1.fillLine c.cluster line c.ctx (va / 24576) false (cp == 1) secs

/-- An NC access of a cluster of the home die can be performed now (R52): it hits, or its miss can be filled, for which the
home is asked; a cluster with no cache that takes the sector asks the home for the access itself. -/
def State.ncReady (s : State) (c : Crew) (pa : Nat) (write : Bool) : Bool :=
  let line := lineOf pa
  let cl := s.cluster c.cluster
  let fills : Bool := match cl.holds line true with
    | some l => (s.fillWays c.cluster).contains l.way
    | none => !(s.fillWays c.cluster).isEmpty
  cl.hit line true (sectorsOf pa 1)
    || if fills then s.fillReady c.cluster line true && s.dirReady line (.rdu 0 false)
      else s.dirReady line (if write then .wr none none [] else .rdu 0 false)

/-- The lines of coherent device memory that a run touches. -/
def Seg.lines (g : Seg) : List Nat := match g.place with
  | .phys pa nc =>
    if g.len = 0 ∨ nc ∨ rangeOf pa ≠ .device then []
    else (List.range (lineOf (pa + g.len - 1) - lineOf pa + 1)).map fun i => lineOf pa + i
  | .scratch _ => []

/-- The runs that a matrix command writes. -/
def MCmd.dst (m : MCmd) : List Seg := match m.kind with
  | .accrdMem _ _ dst => dst
  | _ => []

/-- The runs that a crossbar command writes. -/
def TCmd.dst (t : TCmd) : List Seg := match t.kind with
  | .mvm _ _ _ _ _ _ _ _ dst => dst
  | _ => []

/-- The commands of a tile, the running one first. -/
def Tile.cmds (t : Tile) : List TCmd :=
  (match t.busy with
    | .idle => []
    | .run c _ _ | .prog c _ | .cal c _ _ | .mvm c none => [c]
    | .mvm c (some w) => [w.1, c]) ++ t.q

/-- The place of an engine in the order of R51: copy engines by cluster, matrix then crossbar engines by core, then
stack-side reduce engines by stack. -/
inductive EngPlace where
  | copy (cluster : Nat)
  | matrix (core : Nat)
  | tile (core : Nat)
  | stack (stack : Nat)
  deriving DecidableEq, Repr

def EngPlace.rank : EngPlace → Nat
  | .copy c => c
  | .matrix k => 96 + k
  | .tile k => 480 + k
  | .stack m => 864 + m

/-- An accepted command that is still to write in its unit's version: its number, its engine, and the coherent lines of its
destination. -/
structure OwnCmd where
  id : Nat
  engine : EngPlace
  lines : List Nat

/-- The commands of a versioned unit that own their destination lines (R59), of which they take none in K (R48): its accepted
copies, and its matrix and crossbar commands, which are accepted as they issue. -/
def State.ownCmds (s : State) (c : Crew) : List OwnCmd :=
  if !c.versioned then []
  else List.flatten [
    (s.copies.filter fun x => x.cid == c.cid && x.accepted).map fun x =>
      { id := x.id, engine := .copy x.cluster, lines := x.own },
    s.cores.flatMap fun e => (e.2.mq.filter fun m => m.cid == c.cid).map fun m =>
      { id := m.op, engine := .matrix e.1, lines := m.dst.flatMap Seg.lines },
    s.tiles.flatMap fun e => (e.2.cmds.filter fun t => t.cid == c.cid).map fun t =>
      { id := t.op, engine := .tile (e.1 / 64), lines := t.dst.flatMap Seg.lines }]

/-- An accepted command of a versioned unit is still to write a line, for which the unit's own accesses wait (R59). -/
def State.unitOwns (s : State) (c : Crew) (line : Nat) : Bool := (s.ownCmds c).any fun x => x.lines.contains line

/-- An access to a line can be performed now: it is not in K, nor in a transaction (R45, R47), and no command of the unit itself
owns it (R59). -/
def State.lineReady (s : State) (c : Crew) (pa : Nat) (nc write : Bool) : Bool :=
  if rangeOf pa ≠ .device then true
  else if !nc ∧ s.unitOwns c (lineOf pa) then false
  else
    let line := lineOf pa
    let sl := sliceOfCluster c.cluster
    if write ∧ c.versioned then s.dirReady line (.vwr c.cid 0)
    else if nc ∧ homeDie pa = dieOfCluster c.cluster then s.ncReady c pa write
    else if write then s.dirReady line (.wr none none [])
    else if nc then s.dirReady line (.rdu 0 false)
    else s.sliceHolds sl line || s.dirReady line (.rds sl)

/-- The request of an access that may create a snoop-filter entry: RdS on a slice's miss, VWr at a versioned unit's first
write of a line (Table 02-4). -/
def State.creating (s : State) (c : Crew) (pa : Nat) (nc write : Bool) : Option DReq :=
  if rangeOf pa ≠ .device then none
  else if write ∧ c.versioned then match s.version? c.cid with
    | some v => if lineOf pa ∈ v.lines then none else some (.vwr c.cid v.holder)
    | none => none
  else if write ∨ nc ∨ s.sliceHolds (sliceOfCluster c.cluster) (lineOf pa) then none
  else some (.rds (sliceOfCluster c.cluster))

/-- An access that must wait for a snoop-filter entry stands at the home, which finds a victim for it (R49, R51). -/
def State.askEntry (s : State) (c : Crew) (pa : Nat) (nc write : Bool) : State :=
  match s.creating c pa nc write with
  | none => s
  | some r =>
    if s.dirRoom (lineOf pa) r ∨ (s.dirAt (lineOf pa)).queue.contains r then s else s.arrive (lineOf pa) r

/-! ### Poison (R307, R417) -/

/-- Some byte of a range lies in a poisoned sector. -/
def State.poisoned (s : State) (pa n : Nat) : Bool :=
  s.poison.any fun sec => decide (pa / 48 ≤ sec) && decide (sec ≤ (pa + n - 1) / 48)

/-- The same for the reads of a unit: a byte of its own version is poisoned where a copy of the unit wrote its sector so, and
a byte that the version does not hold where the committed sector is (R48, R66, R307). -/
def State.unitPoisoned (s : State) (c : Crew) (pa n : Nat) : Bool :=
  match if c.versioned then s.version? c.cid else none with
  | none => s.poisoned pa n
  | some v => (List.range n).any fun i =>
      v.bad.contains ((pa + i) / 48) || ((NMap.get none v.bytes (pa + i)).isNone && s.poison.contains ((pa + i) / 48))

/-! ### The scratchpad (R175, R313) -/

/-- The cluster key of a cluster word and byte: word w lies in the (w mod n)-th SCRATCH bank (R175). -/
def Cluster.scratchKey (cl : Cluster) (word byte : Nat) : Nat :=
  let banks := cl.banksIn .scratch
  let n := banks.length
  if n = 0 then 0 else 49152 * nth 0 banks (word % n) + 8 * (word / n) + byte

/-- The cluster key of a crew-relative byte. -/
def State.scratchAt (s : State) (c : Crew) (a : Nat) : Nat :=
  (s.cluster c.cluster).scratchKey (c.scratchBase + a / 8) (a % 8)

/-- The keys of `n` bytes from a crew-relative byte. -/
def State.scratchKeys (s : State) (c : Crew) (a n : Nat) : List Nat := (List.range n).map fun i => s.scratchAt c (a + i)

/-- Scratchpad bytes of a cluster by key, as a number. -/
def State.rdScratch (s : State) (c : Crew) (a n : Nat) : Nat :=
  ofBytes ((s.scratchKeys c a n).map fun k => NMap.get 0 (s.cluster c.cluster).scratch k)

def State.wrScratch (s : State) (c : Crew) (a : Nat) (bs : List Byte) : State :=
  let cl := s.cluster c.cluster
  let ks := s.scratchKeys c a bs.length
  s.setCluster c.cluster { cl with scratch := (ks.zip bs).foldl (fun m e => NMap.set 0 m e.1 e.2) cl.scratch }

/-- Some byte of a crew's scratchpad lies in a poisoned word (R307). -/
def State.scratchPoisoned (s : State) (c : Crew) (a n : Nat) : Bool :=
  (s.scratchKeys c a n).any fun k => (s.cluster c.cluster).badWords.contains (k / 8)

/-- A read of `n` bytes at a place by a unit meets a poisoned sector or word. -/
def State.placePoisoned (s : State) (c : Crew) (n : Nat) : Place → Bool
  | .phys pa _ => s.unitPoisoned c pa n
  | .scratch a => s.scratchPoisoned c a n

/-- Some byte lies in the word of a live transaction barrier (R313). -/
def State.hitsLive (s : State) (c : Crew) (a n : Nat) : Bool :=
  (s.scratchKeys c a n).any fun k => (s.cluster c.cluster).liveWords.contains (k / 8 * 8)

/-- The range lies below the crew's declared size (R176). -/
def Crew.inScratch (c : Crew) (a n : Nat) : Bool := decide (a + n ≤ c.scratchSize)

end Sys2Proof.Machine
end

