-- ==== Sys2Proof/Machine/Flags.lean ====
section
/-! DEFINITION. Completion flags (R88, R114): counts, the clause header's fields (Table 04-3), waits; pops and the fetching
and checking of a clause (R85, R87, R104, R119); and when a split can issue. -/

namespace Sys2Proof.Machine

/-- The fields of a clause header (Table 04-3). -/
def hdrLen (h : DWord) : Nat := field h 3 0
def hdrWait (h : DWord) : Nat := field h 15 4
def hdrSetA (h : DWord) : Nat := field h 19 16
def hdrSetB (h : DWord) : Nat := field h 23 20
def hdrYield (h : DWord) : Bool := field h 24 24 == 1

/-- The flags an operation issued in a clause counts against: SETA and SETB, 15 for none, one flag once (R87). -/
def hdrFlags (h : DWord) : List Nat := dedupe ([hdrSetA h, hdrSetB h].filter fun f => decide (f < 12))

/-- The outstanding operations of a split against a flag (R88). -/
def State.flagCount (s : State) (g n f : Nat) : Nat :=
  (s.ops.filter fun o => o.gid == g && o.charges.contains (n, f)).length

/-- FCNT0 to FCNT2 (Table 05-3). A count above 63, which a merge can leave (R120), is kept and shown modulo 64 (log 99). -/
def State.fcnt (s : State) (g n w : Nat) : Word :=
  let c (f : Nat) : Nat := s.flagCount g n f % 64
  BitVec.ofNat 32 (if w = 2 then c 10 + 64 * c 11
    else c (5 * w) + 64 * c (5 * w + 1) + 64 ^ 2 * c (5 * w + 2) + 64 ^ 3 * c (5 * w + 3) + 64 ^ 4 * c (5 * w + 4))

/-- Every flag named by WAIT is clear. -/
def State.waitMet (s : State) (g n : Nat) (h : DWord) : Bool :=
  (List.range 12).all fun f => !(hdrWait h).testBit f || s.flagCount g n f == 0

/-- Some operation of a split is outstanding. -/
def State.splitBusy (s : State) (g n : Nat) : Bool := s.ops.any fun o => o.gid == g && o.split == n

/-- Some operation of a group is outstanding. -/
def State.groupBusy (s : State) (g : Nat) : Bool := s.ops.any fun o => o.gid == g

/-- Splits of a group that can still issue: those not retained after an EXIT (R232). DESIGN CHOICE (log 50): SPLITID.LIVE (R140)
and R121 count these. -/
def Group.live (g : Group) : List Split := g.splits.filter fun p => p.retained.isNone

/-- The pause of R119: some other live split has the same valid JPC and stands at a different clause. A split that has
started the clause at the join itself counts as elsewhere (log 98). -/
def Group.paused (g : Group) (p : Split) : Bool :=
  match p.jpc with
  | none => false
  | some j => j == p.pc && p.cl.isNone
      && g.live.any fun q => q.num != p.num && q.jpc == some j && (q.pc != j || q.cl.isSome)

/-! ### Pops (R119) -/

/-- R119, step 1: entries whose JOIN is the clause address are popped until one has a lane left. -/
def popStack (memb : Mask) (pc : DWord) : List RsEntry → Option (RsEntry × List RsEntry) × List RsEntry
  | [] => (none, [])
  | e :: l =>
    if e.join = pc then
      if e.exec &&& memb ≠ 0 then (some (e, l), l) else popStack memb pc l
    else (none, e :: l)

/-- R119, step 1, for a split. An entry's PC may itself be the JOIN of the next, so the check is made again there; each
pop shortens the stack, so `fuel` of its length is enough. -/
def Split.pops (p : Split) : Nat → Split
  | 0 => p
  | fuel + 1 => match popStack p.memb p.pc p.stack with
    | (some (e, l), _) => Split.pops { p with exec := e.exec &&& p.memb, pc := e.pc, stack := l } fuel
    | (none, l) => { p with stack := l }

/-! ### Fetching a clause -/

/-- The bytes of one word by an instruction fetch: EXE in place of WR (R104). Within the launch that wrote a word the spec
lets a fetch give its old or its new value (R105); the model reads what memory holds at that step (log 89). -/
def State.fetchWord (s : State) (ctx : Nat) (a : DWord) : Except Trap DWord × State :=
  match s.translate ctx a.toNat .fetch with
  | (.error c, s1) => (.error { cause := c, taddr := a, fetch := true }, s1)
  | (.ok x, s1) =>
    if s1.poisoned x.pa 8 then (.error { cause := 0x07, taddr := a, fetch := true }, s1)
    else (.ok (BitVec.ofNat 64 (s1.rdN x.pa 8)), s1)

/-- `n` words from an address. -/
def State.fetchWords (s : State) (ctx : Nat) (a : DWord) : Nat → Except Trap (List DWord) × State
  | 0 => (.ok [], s)
  | n + 1 => match s.fetchWord ctx a with
    | (.error t, s1) => (.error t, s1)
    | (.ok w, s1) => match s1.fetchWords ctx (a + 8) n with
      | (.error t, s2) => (.error t, s2)
      | (.ok l, s2) => (.ok (w :: l), s2)

/-- The opcodes that must stand last in a clause (R87): BRA to EXIT, and RTT. -/
def endsClause (op : Nat) : Bool := (decide (0x27 ≤ op) && decide (op ≤ 0x2D)) || op == 0xF9

/-- The words of a clause in order (R87, R100): no ender before the end, no REP last or before another REP, no literal
missing. The second argument tells that the first word of the list is a literal word. -/
def wordsOk : List DWord → Bool → Bool
  | [], lit => !lit
  | _ :: ws, true => wordsOk ws false
  | w :: ws, false =>
    let op := field w 63 56
    if carriesLit w then wordsOk ws true
    else if endsClause op then ws.isEmpty
    else if op = 0x2E then
      match ws with
      | [] => false
      | v :: _ => field v 63 56 != 0x2E && wordsOk ws false
    else wordsOk ws false

/-- The 1-based numbers of a clause's instruction words, literal words left out (R100). -/
def instrWords : List DWord → Nat → Bool → List Nat
  | [], _, _ => []
  | _ :: ws, i, true => instrWords ws (i + 1) false
  | w :: ws, i, false => i :: instrWords ws (i + 1) (carriesLit w)

/-- Orders 2 and 3 of Table 04-16, and the word at which the clause is entered after a trap (R397). -/
def clauseFault (h : DWord) (ws : List DWord) (entry : Nat) : Option Nat :=
  let badSet (f : Nat) : Bool := f == 12 || f == 13 || f == 14
  if field h 63 56 ≠ 0xCA ∨ hdrLen h = 0 ∨ badSet (hdrSetA h) ∨ badSet (hdrSetB h) ∨ !wordsOk ws false then some 0x0F
  else if field h 55 25 ≠ 0 then some 0x02
  else if entry ≠ 0 ∧ !(instrWords ws 1 false).contains entry then some 0x0F
  else none

/-- Order 1 to 3 of Table 04-16: the clause at `pc`, fetched and checked whole (R87). -/
def State.fetchClause (s : State) (ctx : Nat) (pc : DWord) (entry : Nat) : Except Trap Clause × State :=
  match s.fetchWord ctx pc with
  | (.error t, s1) => (.error t, s1)
  | (.ok h, s1) => match s1.fetchWords ctx (pc + 8) (hdrLen h) with
    | (.error t, s2) => (.error t, s2)
    | (.ok ws, s2) => match clauseFault h ws entry with
      | some c => (.error { cause := c, fetch := true }, s2)
      | none => (.ok { hdr := h, words := ws }, s2)

/-- A split's MWAIT completes at once: its watch is triggered, or it has none (R211). -/
def Split.watchOver (p : Split) : Bool := match p.watch with
  | some w => w.trig
  | none => true

/-! ### Ready splits -/

/-- The group can issue at all: resident, not parked, not stopped for pre-emption, not retired. -/
def Group.runs (g : Group) : Bool := !g.retired && g.parked.isNone && !g.stopped

/-- A split is held where it stands; a stall for energy (R248) and a REGSHRINK that waits (R138) are tried again. -/
def Hold.stops : Hold → Bool
  | .none | .energy _ | .shrink _ => false
  | _ => true

/-- A split may take part in a merge at its boundary (R20, R379). -/
def Split.mayMerge (p : Split) : Bool :=
  p.cl.isNone && !p.rep.act && !p.hmode && p.owed.isEmpty && p.retained.isNone && p.hold == .none && p.entry == 0

/-- Two splits of a group merge (R20). The partner is merged as it stands, without a pop of its own first (log 101). -/
def mergeable (p q : Split) : Bool :=
  p.num != q.num && p.mayMerge && q.mayMerge && p.pc == q.pc && p.stack.length == q.stack.length

/-- What a split at a boundary finds: its pops made, and the clause it would start next (R119). -/
def Split.popped (p : Split) : Split := p.pops (p.stack.length + 1)

/-- The clause that a split would start next, or the fault that its fetch and checks give (R87), without a walk's effects. -/
def State.nextClause (s : State) (ctx : Nat) (p : Split) : Except Trap Clause :=
  (s.fetchClause ctx p.popped.pc p.popped.entry).1

/-- A split at a boundary can go on: it has a pop to make, or, with no pause, another split to merge with, or its next clause's
WAIT is met or the clause faults, before WAIT is looked at (R20, R87, R119). -/
def State.goesOn (s : State) (g : Group) (ctx : Nat) (p : Split) : Bool :=
  p.popped != p || (!g.paused p && (g.splits.any (mergeable p) || match s.nextClause ctx p with
    | .ok c => s.waitMet g.gid p.num c.hdr
    | .error _ => true))

/-- A split is ready: it stands within a clause, or at a boundary from which it can go on, or with a fault to take or its end
to meet there. -/
def State.ready (s : State) (g : Group) (ctx : Nat) (p : Split) : Bool :=
  g.runs && p.retained.isNone && !p.hold.stops
    && (p.cl.isSome || !p.owed.isEmpty || g.endReq || s.goesOn g ctx p)

/-- The context of a group. -/
def State.ctxOf (s : State) (g : Group) : Nat := ((s.crew? g.cid).map (·.ctx)).getD 0

/-- The other ready splits of equal issue priority on the core, which must issue a clause first (R89). -/
def State.rivals (s : State) (g : Group) (n : Nat) : List (Nat × Nat) :=
  s.groups.flatMap fun h =>
    if h.core = g.core ∧ h.prio = g.prio then
      (h.splits.filter fun p => (h.gid != g.gid || p.num != n) && s.ready h (s.ctxOf h) p).map fun p => (h.gid, p.num)
    else []

/-- A split has issued a clause, cannot issue its present word, or gives way itself: no other split waits for it any longer (R30,
R89; log 120). -/
def State.clauseIssued (s : State) (g n : Nat) : State :=
  { s with groups := s.groups.map fun h => { h with splits := h.splits.map fun p =>
      { p with yieldTo := p.yieldTo.filter fun e => e != (g, n) } } }

/-- The split gives way (R89). -/
def State.yields (s : State) (g : Group) (n : Nat) : State :=
  let t := s.clauseIssued g.gid n
  match s.group? g.gid, t.group? g.gid with
  | some x, some h => match h.split? n with
    | none => s
    | some p => t.setGroup (h.setSplit { p with yieldTo := s.rivals x n })
  | _, _ => s

/-- A split that gave way may be chosen: none of the splits it waits for is still ready. -/
def State.yieldDone (s : State) (p : Split) : Bool :=
  !p.yieldTo.any fun e => match s.group? e.1 with
    | some h => match h.split? e.2 with
      | some q => s.ready h (s.ctxOf h) q
      | none => false
    | none => false

/-- Round-robin among splits of equal issue priority on a core (R30): a split that has issued is served again once each of
the others that were ready then has been served, is no longer ready, or gives way itself (log 1). -/
def State.turnCome (s : State) (p : Split) : Bool :=
  !p.passed.any fun e => match s.group? e.1 with
    | some h => match h.split? e.2 with
      | some q => s.ready h (s.ctxOf h) q && s.yieldDone q
      | none => false
    | none => false

/-- A split is served: it will wait for the others, and none waits for it any longer. -/
def State.serve (s : State) (g n : Nat) : State :=
  let others := match s.group? g with
    | some h => s.rivals h n
    | none => []
  { s with groups := s.groups.map fun h => { h with splits := h.splits.map fun p =>
      if h.gid = g ∧ p.num = n then { p with passed := others }
      else { p with passed := p.passed.filter fun e => e != (g, n) } } }

/-- The flag counts leave room for one more operation: none of the clause's flags stands at 63 (R88). -/
def State.flagRoom (s : State) (g : Nat) (p : Split) : Bool :=
  match p.cl with
  | some c => (hdrFlags c.hdr).all fun f => decide (s.flagCount g p.num f < 63)
  | none => true

/-- The charges of an operation issued now by a split. -/
def Split.charges (p : Split) : List (Nat × Nat) :=
  match p.cl with
  | some c => (hdrFlags c.hdr).map fun f => (p.num, f)
  | none => []

/-- Divergence (R19): operations in flight count in the new split too. -/
def State.inheritFlags (s : State) (g old new : Nat) : State :=
  { s with ops := s.ops.map fun o =>
      if o.gid = g then
        { o with charges := o.charges ++ (o.charges.filter fun c => c.1 == old).map fun c => (new, c.2)
                 also := if o.split = old ∨ old ∈ o.also then o.also ++ [new] else o.also }
      else o }

/-- Merging (R120): an operation counted in both parts counts once. -/
def State.mergeFlags (s : State) (g part into : Nat) : State :=
  { s with ops := s.ops.map fun o =>
      if o.gid = g then
        { o with split := if o.split = part then into else o.split
                 also := o.also.map fun n => if n = part then into else n
                 charges := dedupe (o.charges.map fun c => if c.1 = part then (into, c.2) else c) }
      else o }

end Sys2Proof.Machine
end

