-- ==== Sys2Proof/Machine/Operands.lean ====
section
/-! DEFINITION. Operands: the constant codes of Tables 04-5 and 04-6, and OPND of format A in vector and scalar form (R91,
R92, R94). -/

namespace Sys2Proof.Machine

/-- The FP32 constants of Table 04-6, from code 0x100. -/
def fpConst (c : Nat) : Word := match c with
  | 0x100 => 0x3F000000 | 0x101 => 0x3F800000 | 0x102 => 0x40000000 | 0x103 => 0x40800000
  | 0x104 => 0xBF000000 | 0x105 => 0xBF800000 | 0x106 => 0xC0000000 | 0x107 => 0xC0800000
  | 0x108 => 0x3E800000 | 0x109 => 0x41000000 | 0x10A => 0x3E22F983 | 0x10B => 0x3F317218
  | 0x10C => 0x3FB8AA3B | 0x10D => 0x40490FDB | 0x10E => 0x7F800000 | _ => 0x7FC00000

/-- The 32-bit value of a constant code (Table 04-5); `rdS` reads an s-register. -/
def code32 (rdS : Nat → Word) (lit : DWord) (c : Nat) : Word :=
  if c < 0xC0 then BitVec.ofNat 32 c
  else if c < 0x100 then BitVec.ofInt 32 ((c : Int) - 0x100)
  else if c < 0x17E then fpConst c
  else if c = 0x17E then lo32 lit
  else if c = 0x17F then hi32 lit
  else rdS (c - 0x180)

/-- The 64-bit value of a constant code (R92): integers sign-extended, FP32 codes zero-extended, 0x17E the whole literal,
an s-code the pair. -/
def code64 (rdS : Nat → Word) (lit : DWord) (c : Nat) : DWord :=
  if c < 0x100 then BitVec.signExtend 64 (code32 rdS lit c)
  else if c < 0x17E then BitVec.zeroExtend 64 (fpConst c)
  else if c = 0x17E then lit
  else rdS (c - 0x180 + 1) ++ rdS (c - 0x180)

/-- OPND of a 32-bit source in lane `l`; in scalar form kind 0 names an s-register (R94). -/
def Issuer.src (k : Issuer) (o : OpA) (f : Src) (l : Nat) : Word := match f with
  | .reg n => if o.s then k.s n else k.g.rdV n l
  | .code c => code32 k.s o.lit c

/-- OPND of a 64-bit source. -/
def Issuer.src64 (k : Issuer) (o : OpA) (f : Src) (l : Nat) : DWord := match f with
  | .reg n => if o.s then k.s64 n else k.g.rdV64 n l
  | .code c => code64 k.s o.lit c

/-- A source that is a constant code only (R137, R139): the same for every lane. -/
def Issuer.con (k : Issuer) (o : OpA) : Word := match o.a with
  | .reg n => k.s n
  | .code c => code32 k.s o.lit c

/-- One word written to D in every active lane, or to sD in scalar form (R84, R94): every source is read before any
destination is written. -/
def Issuer.put (k : Issuer) (o : OpA) (f : Nat → Word) : Group :=
  if o.s then k.g.wrS k.p.num o.d (f 0) else k.g.wrLanes o.d f k.lanes

/-- A pair written to D:D+1. -/
def Issuer.put64 (k : Issuer) (o : OpA) (f : Nat → DWord) : Group :=
  if o.s then k.g.wrSs k.p.num o.d [lo32 (f 0), hi32 (f 0)]
  else (k.g.wrLanes o.d (fun l => lo32 (f l)) k.lanes).wrLanes (o.d + 1) (fun l => hi32 (f l)) k.lanes

end Sys2Proof.Machine
end

