-- ==== Sys2Proof/Machine/Ops.lean ====
section
/-! DEFINITION. The shared operations of program instructions: taking a trap and returning from it (R376 to R379, R397),
parking (R382), moving past a word (R85, R99, R136), long-latency issue (R88), and the frame in which every instruction
is checked and executed (R104). -/

namespace Sys2Proof.Machine

/-! ### REPSTATE and TCAUSE words -/

/-- REPSTATE (Table 05-11): all fields 0 when idle. -/
def Rep.word (r : Rep) : Word :=
  BitVec.ofNat 32 (if r.act then 2 ^ 16 + r.step % 16 * 2 ^ 12 + r.next % 64 * 2 ^ 6 + r.remain % 64 else 0)

/-- The REP state that a word of TREP holds. -/
def Rep.ofWord (w : Word) : Rep :=
  let n := w.toNat
  if n.testBit 16 then { act := true, step := bits n 15 12, next := bits n 11 6, remain := bits n 5 0 } else Rep.idle

/-- TINFO.UTAG: the task's tag, or CREWIDX [15:0] for a crew (Table 16-4). -/
def Crew.utag (c : Crew) : Nat := match c.task with
  | some t => bits t.bits.toNat 463 448
  | none => c.index % 2 ^ 16

/-! ### Parking (R381, R382) -/

/-- The record of KIND 0 outstanding for a page of a context. -/
def Context.pageRecord (c : Context) (page : Nat) : Option FaultRec :=
  c.faults.find? fun r => r.kind == 0 && r.addr.toNat == page

/-- A split parked at its word gives up a stall at issue: the word executes again from its start (R248, R382). -/
def Split.unstalled (p : Split) : Split := { p with hold := if p.hold.stops then p.hold else .none }

/-- A group is parked on a fault record of its context, which is made unless one of KIND 0 for the same page is
outstanding, whose NGRP then rises (R382). -/
def State.park (s : State) (gid sp kind : Nat) (t : Trap) : State :=
  match s.group? gid with
  | none => s
  | some g =>
    match s.crew? g.cid, g.split? sp with
    | some c, some p =>
      let x := s.ctx c.ctx
      let page := (t.page.getD t.taddr).toNat / 24576 * 24576
      let h := g.setSplit p.unstalled
      match if kind = 0 then x.pageRecord page else none with
      | some r =>
        (s.setCtx c.ctx { x with
          faults := updWhere (fun q => q.id == r.id) (fun q => { q with ngrp := q.ngrp + 1 }) x.faults }).setGroup
          { h with parked := some { record := r.id, split := sp, trap := t } }
      | none =>
        let r : FaultRec :=
          { id := x.nextFault, kind, cause := if kind = 2 then 0x18 else t.cause, ncause := if kind = 2 then t.cause else 0
            fetch := t.fetch, write := t.write, lane := t.lane, tag := c.utag, loc := locOf c.cluster g.core + g.gidx % 16
            pc := p.pc, addr := if kind = 0 then BitVec.ofNat 64 page else t.page.getD t.taddr, ngrp := 1, shown := 0, index := none }
        (s.setCtx c.ctx { x with faults := x.faults ++ [r], nextFault := x.nextFault + 1 }).setGroup
          { h with parked := some { record := r.id, split := sp, trap := t } }
    | _, _ => s

/-! ### Taking a trap (R377) -/

/-- The other groups of a crew whose version was discarded end at their next clause boundaries (R386). -/
def State.endOthers (s : State) (cid gid : Nat) : State :=
  { s with groups := s.groups.map fun g => if g.cid = cid ∧ g.gid ≠ gid then { g with endReq := true } else g }

/-- The versioned unit loses its version at a trap (R377, R386); where a full log has already discarded it, every group takes
its own trap (R384). -/
def State.loseVersion (s : State) (c : Crew) (gid : Nat) : State :=
  if c.versioned ∧ !c.discarded then ((s.discardVersion c.cid).setCrew { c with discarded := true }).endOthers c.cid gid
  else s

/-- The trap registers as TRAPENTRY sets them (R377, Table 16-4). -/
def trapRegs (p : Split) (c : Crew) (t : Trap) (pc : DWord) (tidx : Nat) (revived : Bool) : TrapRegs :=
  { tcause := BitVec.ofNat 32 (c.versioned.toNat * 2 ^ 31 + revived.toNat * 2 ^ 30 + t.code % 256 * 2 ^ 16
      + t.lane % 256 * 2 ^ 8 + t.cause % 256)
    tepc := pc, taddr := t.taddr
    tinfo := BitVec.ofNat 32 (c.utag * 2 ^ 16 + t.opc % 256 * 2 ^ 8 + tidx % 16)
    texec := p.exec, trep := p.rep.word }

/-- The split in its handler: EXEC := MEMB, HMODE := 1, PC := TVEC, at word 0 (R377). -/
def Split.enterHandler (p : Split) (tvec : DWord) : Split :=
  { p with exec := p.memb, hmode := true, pc := tvec, cl := none, widx := 0, entry := 0, rep := Rep.idle, hold := .none }

/-- The split at its return point. -/
def Split.backAt (p : Split) (pc : DWord) (tidx : Nat) : Split :=
  { p with pc := pc, entry := tidx, cl := none, widx := 0, rep := Rep.idle, hold := .none }

/-- TRAPENTRY (R377): split `sp` takes a trap whose return point is word `tidx` of the clause at `pc`. A trap raised in
handler mode parks the group with a record of KIND 2 (R379); with no TVEC the group is parked with KIND 1. A group that is to
end with no trap takes none: the split stands at its boundary, where it ends (R386). -/
def State.trapEntry (s : State) (gid sp : Nat) (t : Trap) (pc : DWord) (tidx : Nat) (revived : Bool) : State :=
  match s.group? gid with
  | none => s
  | some g =>
    match s.crew? g.cid, g.split? sp with
    | some c, some p =>
      if g.endReq then s.setGroup (g.setSplit (p.backAt pc tidx))
      else if p.hmode then s.park gid sp 2 t
      else
        let s1 := s.loseVersion c gid
        match s1.group? gid with
        | none => s1
        | some g1 =>
          let q := { p with trap := trapRegs p c t pc tidx revived }
          let tvec := (s.ctx c.ctx).tvec
          if tvec = 0 then (s1.setGroup (g1.setSplit (q.backAt pc tidx))).park gid sp 1 t
          else s1.setGroup (g1.setSplit (q.enterHandler tvec))
    | _, _ => s

/-- The word after the present one: the next word of the clause, its literal skipped, or none after the last. -/
def Split.nextWord (p : Split) : Option Nat :=
  match p.cl with
  | none => none
  | some c =>
    let w := p.widx + 1 + (if carriesLit (nth 0 c.words (p.widx - 1)) then 1 else 0)
    if w ≤ c.words.length then some w else none

/-- The address of the clause that follows (R85). -/
def Split.nextClause (p : Split) : DWord :=
  match p.cl with
  | none => p.pc
  | some c => p.pc + BitVec.ofNat 64 (8 * (c.words.length + 1))

/-- The return point of a trap (R376, R396): the clause at word 0 for an illegal clause, and for another fault of the fetch
the word at which the clause was to be entered; for TRAP and BKPT the next word; else the faulting word. -/
def Split.returnPoint (p : Split) (t : Trap) : DWord × Nat :=
  if t.fetch then (p.pc, if t.cause = 0x0F then 0 else p.entry)
  else if t.next then match p.nextWord with
    | some w => (p.pc, w)
    | none => (p.nextClause, 0)
  else (p.pc, if p.cl.isSome then p.widx else p.entry)

/-- The physical address of an error that a trap names, 0 where it is none of memory (Table 17-3). -/
def State.errAddr (s : State) (ctx : Nat) (t : Trap) : Nat :=
  if t.inside then 0 else (s.lookUp ctx t.taddr.toNat).getD 0

/-- What a consumed uncorrectable error does (Table 16-2, cause 0x07): a REPLAYABLE launch is replayed, a versioned unit
takes the trap, and otherwise the error is fatal. -/
def State.consumeError (s : State) (gid sp : Nat) (t : Trap) (g : Group) (c : Crew) (pt : DWord × Nat) : State :=
  match s.replayLaunch c with
  | some l => { s with agenda := .replay ⟨l.lid, locOf c.cluster g.core, s.errAddr c.ctx t⟩ :: s.agenda }
  | none =>
    if c.versioned then s.trapEntry gid sp t pt.1 pt.2 false
    else s.fatal (dieOfCluster c.cluster) 0x20
      { addr := s.errAddr c.ctx t, loc := locOf c.cluster g.core, ctx := some c.ctx, cause := 0x07 }

/-- The clause that a split stood in has issued its last word, and the split has left it (R89): it gives way where the clause
yields. -/
def State.lastIssued (s : State) (g : Group) (p : Split) : State :=
  let s1 := s.clauseIssued g.gid p.num
  match p.cl with
  | some c => if hdrYield c.hdr then s1.yields g p.num else s1
  | none => s1

/-- The disposition of a trap (Table 16-2): a page fault at issue goes to fault service first (R382), an uncorrectable
error is recovered, and every other cause is delivered. A page fault that meets a halt of the context leaves the split at
its word, to execute it again on resume (R393, log 92). -/
def State.raise (s : State) (gid sp : Nat) (t : Trap) : State :=
  match s.group? gid with
  | none => s
  | some g =>
    match s.crew? g.cid, g.split? sp with
    | some c, some p =>
      let pt := p.returnPoint t
      if t.cause = 0x05 then
        if (s.ctx c.ctx).halt.isSome ∧ Config.haltMeets s.tick % 2 = 0 then
          s.setGroup (g.setSplit { p with hold := .halted })
        else s.park gid sp 0 t
      else if t.cause = 0x07 then s.consumeError gid sp t g c pt
      else
        let s1 := s.trapEntry gid sp t pt.1 pt.2 false
        if t.next ∧ p.nextWord.isNone then s1.lastIssued g p else s1
    | _, _ => s

/-- Return from a trap (R397): EXEC := TEXEC, REPSTATE := TREP, HMODE := 0, PC := TEPC, the clause entered at TIDX. EXEC
stays within MEMB (R113). -/
def Split.trapReturn (p : Split) : Split :=
  { p with exec := p.trap.texec &&& p.memb, rep := Rep.ofWord p.trap.trep, hmode := false, pc := p.trap.tepc
           entry := bits p.trap.tinfo.toNat 3 0, cl := none, widx := 0, hold := .none }

/-! ### Moving on -/

/-- A split goes to a clause address: its clause is over. -/
def Split.goto (p : Split) (pc : DWord) : Split := { p with pc, cl := none, widx := 0, entry := 0, rep := Rep.idle }

/-- A clause has issued its last word (R85, R89): the split stands at `pc`. -/
def State.leaveClause (s : State) (gid sp : Nat) (pc : DWord) : State :=
  match s.group? gid with
  | none => s
  | some g => match g.split? sp with
    | none => s
    | some p => (s.setGroup (g.setSplit (p.goto pc))).lastIssued g p

/-- The split moves past the word it has issued (R85, R99): the next iteration of a repeat, the next word, or the next
clause. -/
def State.advance (s : State) (gid sp : Nat) : State :=
  match s.group? gid with
  | none => s
  | some g => match g.split? sp with
    | none => s
    | some p =>
      let left := (p.rep.remain + 63) % 64
      if p.rep.act ∧ left ≠ 0 then
        s.setGroup (g.setSplit { p with rep := { p.rep with next := p.rep.next + 1, remain := left } })
      else match p.nextWord with
        | some w => s.setGroup (g.setSplit { p with widx := w, rep := Rep.idle })
        | none => s.leaveClause gid sp p.nextClause

/-! ### The frame of an instruction -/

/-- What the body of an instruction answers: its effect is made and the split moves on; its effect is made and it has
placed the split itself; it holds its word and waits, and no split that gave way waits for it (R30, R89); it traps. -/
inductive Res where
  | done (s : State)
  | went (s : State)
  | wait (s : State)
  | trap (s : State) (t : Trap)

/-- A program instruction executes (R104): the encoding checks, the register bounds, and then its body. With no resident
issuer there is nothing to act on. -/
def issue (i : Instr) (s : State) (body : Issuer → Res) : Host.Outcome State Fault Refusal :=
  match s.issuer with
  | none => .fault .noIssuer
  | some k =>
    let opc := i.opcode.getD 0
    let raise (s : State) (t : Trap) : State := s.raise k.g.gid k.p.num { t with opc := opc }
    match encCheck i with
    | some c => .next (raise s { cause := c })
    | none =>
      if boundBad i k.g.count then .next (raise s { cause := 0x03 })
      else match body k with
        | .done t => .next (t.advance k.g.gid k.p.num)
        | .went t => .next t
        | .wait t => .next (t.clauseIssued k.g.gid k.p.num)
        | .trap t c => .next (raise t c)

/-- The body of an instruction whose whole effect is on its group's registers. -/
def regs (s : State) (f : Issuer → Group) : Issuer → Res := fun k => .done (s.setGroup (f k))

/-- The operation waits for a condition and executes again on a resume (R27). -/
def OpKind.resumes : OpKind → Bool
  | .mwait | .nbarwait .. | .nbarsync .. | .tbwait .. | .tagwany .. | .tagwall _ | .evwait .. => true
  | _ => false

/-- A long-latency operation is issued (R88): it counts against the flags its clause names, or stalls while one of them
stands at 63. -/
def State.launchOp (s : State) (k : Issuer) (i : Instr) (kind : OpKind) : Res :=
  if s.flagRoom k.g.gid k.p then
    .done { s with
      ops := s.ops ++ [{ id := s.nextId, gid := k.g.gid, split := k.p.num, charges := k.p.charges, opc := i.opcode.getD 0
                         kind, again := if kind.resumes then some i else none }]
      nextId := s.nextId + 1 }
  else .wait s

/-- Traps that a completion point owes are taken by the split before its next clause (R232, R376). -/
def State.owe (s : State) (gid sp : Nat) (t : Trap) : State :=
  match s.group? gid with
  | none => s
  | some g => match g.split? sp with
    | none => s
    | some p => s.setGroup (g.setSplit { p with owed := p.owed ++ [t] })

end Sys2Proof.Machine
end

