-- ==== Sys2Proof/Machine/Clause.lean ====
section
/-! DEFINITION. Clause boundaries: pauses and merges (R20, R119, R120), the end of a split (R134, R232), and CLAUSE_START. -/

namespace Sys2Proof.Machine

/-! ### The end of a split (R134, R232) -/

/-- The operation can raise a trap at its completion point, as R232 names them: an HDEC with FLAG = 0, a crossbar command (block
0xC0), or a TBWAIT with .trap. -/
def Op.canTrap (o : Op) : Bool := match o.kind with
  | .hdec _ _ _ flag _ _ => !flag
  | .tbwait _ _ _ trap _ | .late _ _ _ _ trap => trap
  | _ => o.opc / 16 == 12

/-- Split `n` has outstanding an operation that can trap at its completion point. -/
def State.mayTrap (s : State) (g n : Nat) : Bool := s.ops.any fun o => o.gid == g && o.split == n && o.canTrap

/-- Every split of a group is gone. -/
def Group.dropSplit (g : Group) (n : Nat) : Group := { g with splits := g.splits.filter fun p => p.num != n }

/-- A split is gone. What it has outstanding goes on under a number that no split will ever have, so that a split that takes
the free number starts with its parent's flags alone (R19, R117). -/
def State.dropSplitOf (s : State) (g : Group) (n : Nat) : State :=
  { (s.setGroup (g.dropSplit n)).mergeFlags g.gid n (4 + s.nextId) with nextId := s.nextId + 1 }

/-- Every live split of a group has arrived at its GBAR: each departs. -/
def State.gbarCheck (s : State) (gid : Nat) : State :=
  match s.group? gid with
  | none => s
  | some g =>
    if !g.live.isEmpty ∧ g.live.all (fun p => p.hold == .gbar) then
      g.live.foldl (fun s p => (match s.group? gid with
        | none => s
        | some x => match x.split? p.num with
          | none => s
          | some q => s.setGroup (x.setSplit { q with hold := .none })).advance gid p.num) s
    else s

/-- A retained split with nothing left that can trap: it ends, or, where a trap is owed, it is revived to take it, with the
EXIT as its return point (R232). -/
def State.endRetained (s : State) (g n : Nat) : State :=
  match s.group? g with
  | none => s
  | some x => match x.split? n, s.crew? x.cid with
    | some p, some c => match if s.mayTrap g n then none else p.retained with
      | none => s
      | some (memb, exec, h, w) => match p.owed with
        | [] => s.dropSplitOf x n
        | t :: l =>
          let s1 := s.setGroup (x.setSplit { p with memb, exec, retained := none, pc := h, entry := w, owed := l })
          if t.cause = 0x07 then s1.consumeError g n t x c (h, w) else s1.trapEntry g n t h w false
    | _, _ => s

/-- A split ends by the EXIT at word `w` of the clause at `h`, which began with these members and lanes: it is retained
while an operation of it can still trap, and while it owes a trap (R232). A GBAR that waited for it alone completes
(R201). -/
def State.endSplit (s : State) (g : Group) (p : Split) (memb exec : Mask) (h : DWord) (w : Nat) : State :=
  let g1 := { g with lastExit := h }
  (if s.mayTrap g.gid p.num ∨ p.owed ≠ [] then
    (s.setGroup (g1.setSplit { p with retained := some (memb, exec, h, w), memb := 0, exec := 0, cl := none, widx := 0
                                      entry := 0, stack := [], rep := Rep.idle, jpc := none })).endRetained g.gid p.num
  else s.dropSplitOf g1 p.num).gbarCheck g.gid

/-- An operation has reached its completion point (R88): its flags' counts fall, and a split that was retained for it may
end. -/
def State.finishOp (s : State) (o : Op) : State := (s.dropOp o.id).endRetained o.gid o.split

/-- The work of an operation is done, and its result has still to be written (R13). -/
def State.lateOp (s : State) (op : Nat) (v : List (Nat × Nat × Word)) (sr : List (Nat × Word)) : State :=
  match s.op? op with
  | some o => s.setOp { o with kind := .late v sr none 6 o.canTrap }
  | none => s

/-- An operation's result has still to be written. -/
def State.opLate (s : State) (op : Nat) : Bool := match s.op? op with
  | some o => match o.kind with
    | .late .. => true
    | _ => false
  | none => false

/-- The work of an operation is done: it completes, unless its result has still to be written. -/
def State.opOver (s : State) (op : Nat) : State :=
  if s.opLate op then s
  else match s.op? op with
    | some o => s.finishOp o
    | none => s

/-- An uncorrectable error that an operation of an ended split consumes (Table 16-2): a REPLAYABLE launch is replayed; in a
versioned unit the group's lowest-numbered live split takes the trap (log 26); else the error is fatal. -/
def State.consumeLate (s : State) (g : Group) (t : Trap) : State :=
  match s.crew? g.cid with
  | none => s
  | some c => match s.replayLaunch c with
    | some l => { s with agenda := .replay ⟨l.lid, locOf c.cluster g.core, s.errAddr c.ctx t⟩ :: s.agenda }
    | none => match if c.versioned then (List.range 4).find? fun n => g.live.any fun p => p.num == n else none with
      | some n => s.owe g.gid n t
      | none => s.fatal (dieOfCluster c.cluster) 0x20
          { addr := s.errAddr c.ctx t, loc := locOf c.cluster g.core, ctx := some c.ctx, cause := 0x07 }

/-- A trap owed at a completion point (R232): a live split takes it before its next clause, and a retained split once every
operation that can trap has completed. An error that a split consumes after its end is not lost. -/
def State.completionTrap (s : State) (g n : Nat) (t : Trap) : State :=
  match s.group? g with
  | none => s
  | some x => match x.split? n with
    | none => if t.cause = 0x07 then s.consumeLate x t else s
    | some _ => s.owe g n t

/-! ### Pauses and merges -/

/-- The watch of a merged split (R212). -/
def mergeWatch (a b : Option Watch) : Option Watch :=
  match a, b with
  | some x, some y => some (if x.line = y.line then { x with trig := x.trig || y.trig } else x)
  | some x, none => some x
  | none, _ => none

/-- The merged split (R120, R141, R212); `a` is the lower-numbered part, whose pending YIELD it keeps (log 100). -/
def mergeSplits (a b : Split) : Split :=
  { a with exec := a.exec ||| b.exec, memb := a.memb ||| b.memb
           stack := a.stack.zipWith (fun x y => { x with exec := x.exec ||| y.exec }) b.stack
           jpc := none, rep := Rep.idle, watch := mergeWatch a.watch b.watch, yieldTo := a.yieldTo }

/-- What has woken stays awake (R211): a split whose watch is triggered, or disarmed, has its MWAIT over, whatever becomes of the
watch. -/
def State.wakeMwaits (s : State) (g : Nat) (p : Split) : State :=
  if p.watchOver then
    { s with ops := s.ops.map fun o =>
        if o.gid = g ∧ o.split = p.num ∧ o.kind = .mwait then { o with kind := .done, again := none } else o }
  else s

/-- Split `n` merges with every other split it can merge with; what is left of them, and the number of the split that
holds its lanes. -/
def State.mergeAt (s : State) (g n : Nat) : Nat → State × Nat
  | 0 => (s, n)
  | fuel + 1 => match s.group? g with
    | none => (s, n)
    | some x => match x.split? n with
      | none => (s, n)
      | some p => match x.splits.find? fun q => mergeable p q with
        | none => (s, n)
        | some q =>
          let a := if p.num < q.num then p else q
          let b := if p.num < q.num then q else p
          let m := mergeSplits a b
          let s1 := s.setGroup ((x.setSplit m).dropSplit b.num)
          State.mergeAt ((if m.watchOver then s1 else s1.wakeMwaits g b).mergeFlags g b.num a.num) g a.num fuel

/-- Splits that stand at the clause at `pc` with it as their valid JPC. -/
def Group.joined (g : Group) (pc : DWord) : List Split :=
  g.splits.filter fun p => p.retained.isNone && p.jpc == some pc && p.pc == pc && p.cl.isNone

/-- Splits that the pause brought to one clause but that fail R20 continue separately, and each loses its JPC (R120). `many`:
two or more stood there before any of them merged. -/
def Group.loseJoin (g : Group) (pc : DWord) (many : Bool) : Group :=
  if many then
    { g with splits := updWhere (fun p => (g.joined pc).any fun q => q.num == p.num) (fun p => { p with jpc := none }) g.splits }
  else g

/-! ### Starting a clause -/

/-- A split at a boundary whose group is to end there (R386): it ends with no trap. -/
def State.endAtBoundary (s : State) (g : Group) (p : Split) : State :=
  (s.dropSplitOf g p.num).gbarCheck g.gid

/-- The clause is entered once its WAIT is met (R88): at word `entry`, or at the first. -/
def State.enterClause (s : State) (g n : Nat) (c : Clause) : State :=
  match s.group? g with
  | none => s
  | some x => match x.split? n with
    | none => s
    | some p =>
      if s.waitMet g n c.hdr then
        s.setGroup (x.setSplit { p with cl := some c, widx := if p.entry = 0 then 1 else p.entry, entry := 0
                                        yieldTo := [] })
      else s

/-- The clause at a split's PC is fetched and checked, and entered; a fault is raised before WAIT is evaluated (R87). -/
def State.beginClause (s : State) (g n ctx : Nat) : State :=
  match s.group? g with
  | none => s
  | some x => match x.split? n with
    | none => s
    | some p => match s.fetchClause ctx p.pc p.entry with
      | (.error t, s1) => s1.raise g n t
      | (.ok c, s1) => s1.enterClause g n c

/-- A split at a clause boundary (R20, R119, R120, R232, R386, R401): it takes the trap it owes, or stops for a halt of its
context; else it pops, pauses, merges, and starts its clause. The trap comes before a pop that is due, splits merge in the turn of
one of them, and none merges while the pause lasts (log 101). -/
def State.startClause (s : State) (g n : Nat) : State :=
  match s.group? g with
  | none => s
  | some x => match s.crew? x.cid, x.split? n with
    | some c, some p =>
      if !x.runs ∨ p.cl.isSome ∨ p.retained.isSome ∨ p.hold ≠ .none then s
      else if (s.ctx c.ctx).halt.isSome then s.setGroup (x.setSplit { p with hold := .halted })
      else if x.endReq then s.endAtBoundary x p
      else match p.owed with
        | t :: l =>
          let s1 := s.setGroup (x.setSplit { p with owed := l })
          if t.cause = 0x07 then s1.consumeError g n t x c (p.pc, p.entry) else s1.trapEntry g n t p.pc p.entry false
        | [] =>
          let p1 := p.popped
          let x1 := x.setSplit p1
          let s1 := s.setGroup x1
          if x1.paused p1 then s1
          else
            let (s2, m) := s1.mergeAt g n 4
            let s3 := match s2.group? g with
              | some x2 => s2.setGroup (x2.loseJoin p1.pc (decide (2 ≤ (x1.joined p1.pc).length)))
              | none => s2
            if m = n then s3.beginClause g n c.ctx else s3
    | _, _ => s

/-- CLAUSE_START (R87): the clause is fetched, checked and entered once every flag named by WAIT is clear; its first word
issues in the same step of the machine. -/
def execClauseStart (g n : Nat) (s : State) : Host.Outcome State Fault Refusal := .next (s.startClause g n)

end Sys2Proof.Machine
end

