-- ==== Sys2Proof/Machine/Control.lean ====
section
/-! DEFINITION. Block 0x00, control: branches and calls (R116 to R118, R133), EXIT, NOP, YIELD (R134), REP (R135, R136),
register growth (R121, R137, R138) and the special-register reads (R139 to R141). -/

namespace Sys2Proof.Machine

/-! ### Branches and calls (R133) -/

/-- The target of a relative transfer: H + 8 × SEXT(DISP, 64) (R97). -/
def Split.target (p : Split) (o : OpB) : DWord := p.pc + BitVec.signExtend 64 o.disp * 8

/-- The condition codes of BRC (Table 05-10). -/
def condHolds (cond : Nat) (w : Word) : Bool :=
  let x := w.toInt
  match cond with
  | 0 => decide (x ≠ 0) | 1 => decide (x = 0) | 2 => decide (x < 0) | 3 => decide (0 ≤ x) | 4 => decide (0 < x)
  | _ => decide (x ≤ 0)

/-- A transfer: the clause ends and the split stands at `pc`; an address that is no multiple of 8 faults (R133). -/
def transfer (s : State) (k : Issuer) (pc : DWord) : Res :=
  if pc.toNat % 8 ≠ 0 then .trap s { cause := 0x04, taddr := pc } else .went (s.leaveClause k.g.gid k.p.num pc)

def execBra (o : OpB) (s : State) := issue (.bra o) s fun k => transfer s k (k.p.target o)

/-- The lowest split number that is free; a retained split still holds its number. -/
def Group.freeSplit (g : Group) : Nat := ((List.range 4).find? fun n => (g.split? n).isNone).getD 0

/-- The new split of a divergence (R117, R141, R212, R379). -/
def Split.fork (p : Split) (num : Nat) (t : Mask) (target : DWord) : Split :=
  { p with num, exec := t, memb := t, pc := target, cl := none, widx := 0, entry := 0, rep := Rep.idle
           stack := p.stack.map fun e => { e with exec := e.exec &&& t }
           trap := if p.hmode then { p.trap with texec := p.trap.texec &&& t } else TrapRegs.zero
           owed := [], watch := none, hold := .none, yieldTo := [], passed := [], retained := none }

/-- What the old split keeps in a divergence (R117). -/
def Split.without (p : Split) (t : Mask) : Split :=
  { p with exec := p.exec &&& ~~~t, memb := p.memb &&& ~~~t
           stack := p.stack.map fun e => { e with exec := e.exec &&& ~~~t } }

/-- Divergence with fewer than four splits (R117). -/
def State.divide (s : State) (k : Issuer) (t : Mask) (target : DWord) : State :=
  let n := k.g.freeSplit
  let g1 := k.g.setSplit (k.p.without t)
  let g2 := { g1 with splits := g1.splits ++ [k.p.fork n t target] }
  ((s.setGroup g2).inheritFlags k.g.gid k.p.num n).leaveClause k.g.gid k.p.num k.p.nextClause

/-- Divergence with four splits (R118): a rejoin and a pending entry are pushed, and the taken lanes go on. -/
def State.divideInTurn (s : State) (k : Issuer) (t : Mask) (target : DWord) : Res :=
  if 14 < k.p.stack.length then .trap s { cause := 0x12 }
  else
    let j := k.p.jpc.getD target
    let rejoin : RsEntry := { exec := k.p.exec, join := j, pc := j }
    let pending : RsEntry := { exec := k.p.exec &&& ~~~t, join := j, pc := k.p.nextClause }
    let p := { k.p with exec := t, jpc := none, stack := pending :: rejoin :: k.p.stack }
    .went ((s.setGroup (k.g.setSplit p)).leaveClause k.g.gid k.p.num target)

/-- BRC (R116): the lanes whose condition holds, T, against the others. -/
def execBrc (o : OpB) (s : State) := issue (.brc o) s fun k =>
  let target := k.p.target o
  if o.rk then transfer s k (if condHolds o.cond (k.s o.reg) then target else k.p.nextClause)
  else
    let t := maskOf (k.lanes.filter fun l => condHolds o.cond (k.g.rdV o.reg l))
    if t = 0 then transfer s k k.p.nextClause
    else if k.p.exec &&& ~~~t = 0 then transfer s k target
    else if k.g.splits.length < 4 then .went (s.divide k t target)
    else s.divideInTurn k t target

def execCall (o : OpB) (s : State) := issue (.call o) s fun k =>
  let l := k.p.nextClause
  transfer (s.setGroup (k.g.wrSs k.p.num o.reg [lo32 l, hi32 l])) k (k.p.target o)

def execRet (o : OpB) (s : State) := issue (.ret o) s fun k => transfer s k (k.s64 o.reg)

def execJmpi (o : OpB) (s : State) := issue (.jmpi o) s fun k =>
  transfer s k (k.s64 o.reg + BitVec.signExtend 64 o.disp * 8)

def execSplitsync (o : OpB) (s : State) := issue (.splitsync o) s fun k =>
  .went ((s.setGroup (k.g.setSplit { k.p with jpc := some (k.p.target o) })).leaveClause k.g.gid k.p.num k.p.nextClause)

/-! ### End, pause and yield (R134) -/

/-- The first stack entry with a lane left, and the stack below it (R134). -/
def firstLive (memb : Mask) : List RsEntry → Option (RsEntry × List RsEntry)
  | [] => none
  | e :: l => if e.exec &&& memb ≠ 0 then some (e, l) else firstLive memb l

def execExit (o : OpE) (s : State) := issue (.exit o) s fun k =>
  let q := k.p.without k.p.exec
  let stop : Res := .went (s.endSplit k.g k.p k.p.memb k.p.exec k.p.pc k.p.widx)
  if q.memb = 0 ∨ q.stack.isEmpty then stop
  else match firstLive q.memb q.stack with
    | none => stop
    | some (e, l) =>
      .went ((s.setGroup (k.g.setSplit { q with exec := e.exec &&& q.memb, stack := l })).leaveClause k.g.gid k.p.num
        e.pc)

def execNop (o : OpE) (s : State) := issue (.nop o) s fun _ => .done s

def execYield (o : OpE) (s : State) := issue (.yield o) s fun k =>
  .went ((s.advance k.g.gid k.p.num).yields k.g k.p.num)

/-! ### REP (R99, R135) -/

/-- The opcodes that REP may precede (R135). -/
def repeatable (op : Nat) : Bool :=
  decide (op ≤ 0x26) || op == 0x2F || (decide (0x40 ≤ op) && decide (op ≤ 0x5F))
    || (decide (0x70 ≤ op) && decide (op ≤ 0x7B)) || (decide (0xA0 ≤ op) && decide (op ≤ 0xAA))
    || (decide (0xB0 ≤ op) && decide (op ≤ 0xB8)) || (decide (0xC0 ≤ op) && decide (op ≤ 0xC9))
    || op == 0xD0 || op == 0xD1 || op == 0xE0 || op == 0xE1

/-- The word that follows the one being issued, and its literal. -/
def Split.following (p : Split) : DWord × DWord :=
  match p.cl with
  | none => (0, 0)
  | some c => (nth 0 c.words p.widx, nth 0 c.words (p.widx + 1))

/-- A STEP bit that names a field which the repeated instruction does not use for an operand of a file (R99). A CBSTAT with
an undefined SEL uses D and A as every CBSTAT does, and faults when it issues. -/
def stepBad (step : BitVec 4) (w lit : DWord) : Bool :=
  let ws := match decode w lit with
    | .ok i => stepWidths i
    | .error (.selector 0xC9 _) => stepWidths (.cbstatSt (decE Bump.zero w))
    | .error _ => []
  (List.range 4).any fun j => step.getLsbD (3 - j) && (nth none ws j).isNone

/-- REP (R99, R135). DESIGN CHOICE (log 123): an instruction that may not be repeated is reported before a STEP bit that names no
field of it. -/
def execRep (o : OpP) (s : State) := issue (.rep o) s fun k =>
  let (w, lit) := k.p.following
  if !repeatable (field w 63 56) then .trap s { cause := 0x01 }
  else if stepBad o.step w lit then .trap s { cause := 0x02 }
  else .went (s.setGroup (k.g.setSplit { k.p with
    widx := k.p.widx + 1, rep := { act := true, step := o.step.toNat, next := 0, remain := (o.n + 1) % 64 } }))

/-! ### Register growth and shrinkage (R17, R30, R121, R137, R138) -/

/-- Free rows of a core's register file (R16). -/
def State.freeRows (s : State) (core : Nat) : Nat :=
  1536 - (s.groups.map fun g => if g.core = core ∧ !g.retired then g.count else 0).sum

/-- The order of R31 between groups: launch admission order (index, context, queue), then order of creation. -/
def State.ageKey (s : State) (g : Group) : List Nat :=
  match (s.unitCrew? g.cid).bind fun c => s.launch? c.lid with
  | some l => [l.index, l.ctx, l.queue, g.age]
  | none => [0, 0, 0, g.age]

/-- Lexicographic order of keys. -/
def keyLt : List Nat → List Nat → Bool
  | a :: as, b :: bs => decide (a < b) || (decide (a = b) && keyLt as bs)
  | [], _ :: _ => true
  | _, _ => false

/-- A request for register rows: its group, its split, what it asks and where it writes. -/
structure GrowReq where
  gid : Nat
  split : Nat
  n : Nat
  d : Nat
  key : List Nat
  deriving DecidableEq, Repr

/-- The waiting requests of a core. -/
def State.growReqs (s : State) (core : Nat) : List GrowReq :=
  s.groups.flatMap fun g =>
    if g.core = core ∧ !g.retired then
      g.splits.filterMap fun p => match p.hold with
        | .grow n d order => some { gid := g.gid, split := p.num, n, d, key := s.ageKey g ++ [order] }
        | _ => none
    else []

/-- The oldest request (R121). -/
def oldest (l : List GrowReq) : Option GrowReq :=
  l.foldl (fun b r => match b with
    | none => some r
    | some x => if keyLt r.key x.key then some r else b) none

/-- A group's registers from `n` on are lost or start at 0. -/
def Group.dropRegs (g : Group) (n : Nat) : Group := { g with v := g.v.filter fun e => e.1 < 96 * n }

/-- The answer to a request (R137): the predicate, and with a grant the higher count; the split goes on. -/
def State.answerGrow (s : State) (r : GrowReq) (grant : Bool) : State :=
  match s.group? r.gid with
  | none => s
  | some g => match g.split? r.split with
    | none => s
    | some p =>
      let ok := grant && decide (g.count + r.n ≤ 512)
      let g1 := if ok then { g.dropRegs g.count with count := g.count + r.n } else g
      let g2 := (g1.setSplit { p with hold := .none }).wrS r.split r.d (if ok then 1 else 0)
      (s.setGroup g2).advance r.gid r.split

/-- n is a multiple of 16 from 16 to 496 (R137). -/
def growOk (n : Nat) : Bool := n % 16 == 0 && decide (16 ≤ n) && decide (n ≤ 496)

def execReggrow (o : OpA) (s : State) := issue (.reggrow o) s fun k =>
  let n := (k.con o).toNat
  if !growOk n then .trap s { cause := 0x01 }
  else if 512 < k.g.count + n then .done (s.setGroup (k.g.wrS k.p.num o.d 0))
  else if !(s.growReqs k.g.core).any (fun r => keyLt r.key (s.ageKey k.g ++ [s.nextId])) ∧ n ≤ s.freeRows k.g.core then
    .went (s.answerGrow { gid := k.g.gid, split := k.p.num, n, d := o.d, key := [] } true)
  else
    .wait { s.setGroup (k.g.setSplit { k.p with hold := .grow n o.d s.nextId }) with nextId := s.nextId + 1 }

/-- REGGROW_GRANT (R121): the oldest waiting request of a core is granted when enough rows are free. -/
def execReggrowGrant (core : Nat) (s : State) : Host.Outcome State Fault Refusal :=
  match oldest (s.growReqs core) with
  | some r => .next (if r.n ≤ s.freeRows core then s.answerGrow r true else s)
  | none => .next s

/-- One more than the highest v-register that an operation writes, 0 when it writes none. -/
def State.opTop (s : State) (core count : Nat) (o : Op) : Nat := match o.kind with
  | .load d wt _ _ _ => d + wtRegs wt
  | .atom ret d wt .. => if ret then d + wtRegs wt else 0
  | .pair ret d .. => if ret then d + 1 else 0
  | .late v .. => (v.map fun w => w.1 + 1).foldl max 0
  | .fpop _ _ _ d _ => d + 1
  | .ticket d .. => d + 2
  | .hres d k .. | .hdec d k .. => d + k
  | .regs ws => (ws.map fun w => w.1 + 1).foldl max 0
  | .matrix => match (s.core core).mq.find? fun c => c.op == o.id with
    | some c => match c.kind with
      | .accrd _ d _ cnt _ => d + cnt
      | _ => 0
    | none => 0
  | .tile =>
    (List.range 64).foldl (fun m x => (s.tile (64 * core + x)).q.foldl (fun m c =>
      if c.op = o.id then match c.kind with
        | .read d .. | .map _ d => max m (d + 1)
        | _ => m
      else m) m) 0
  | .ctxload _ => count
  | _ => 0

/-- What a REGSHRINK drops: n as it was read at issue (R138). -/
def Issuer.shrinkBy (k : Issuer) (o : OpA) : Nat := match k.p.hold with
  | .shrink n => n
  | _ => (k.con o).toNat

/-- REGSHRINK (R138): it reads n, and holds its word until no outstanding operation of the group writes a register at or
above the new count; a count that another split has meanwhile taken too low faults. -/
def execRegshrink (o : OpA) (s : State) := issue (.regshrink o) s fun k =>
  let n := k.shrinkBy o
  if !growOk n ∨ k.g.count < n + 16 then .trap s { cause := 0x01 }
  else if s.ops.any fun x => x.gid == k.g.gid && decide (k.g.count - n < s.opTop k.g.core k.g.count x) then
    .wait (s.setGroup (k.g.setSplit { k.p with hold := .shrink n }))
  else
    .done (s.setGroup { (k.g.setSplit { k.p with hold := .none }).dropRegs (k.g.count - n) with count := k.g.count - n })

/-! ### Reading special registers (R139 to R141) -/

/-- GROUPINFO (Table 05-13). -/
def Issuer.groupInfo (k : Issuer) : Nat :=
  locOf k.cluster k.g.core + (k.c.size - 1) % 16 * 16 + k.g.gidx % 16

/-- A word of the task's coordinate (Table 05-12), 0 for a crew. -/
def Crew.coord (c : Crew) (w : Nat) : Nat := match c.task with
  | some t => bits t.bits.toNat (287 + 32 * w) (256 + 32 * w)
  | none => 0

/-- EBUDGET and ERATE of the issuing context on its cluster (Table 10-2). -/
def State.ebudget (s : State) (k : Issuer) (n : Nat) : Nat :=
  let e := s.shareNow k.ctx k.cluster
  let x := s.ctx k.ctx
  match n with
  | 0x22 => e.level
  | 0x23 => ofBytes ((x.ecost.take 4).map fun c => BitVec.ofNat 8 c)
  | 0x24 => ofBytes (((x.ecost.drop 4).take 4).map fun c => BitVec.ofNat 8 c)
  | _ => e.capk % 2 ^ 16 * 2 ^ 16 + e.rate % 2 ^ 16

/-- The trap registers (Table 16-3). -/
def Split.trapReg (p : Split) (tvec : DWord) (n : Nat) : Word := match n with
  | 0x30 => p.trap.tcause
  | 0x31 => lo32 p.trap.tepc
  | 0x32 => hi32 p.trap.tepc
  | 0x33 => lo32 p.trap.taddr
  | 0x34 => hi32 p.trap.taddr
  | 0x35 => p.trap.tinfo ||| (if p.hmode then 16 else 0)
  | 0x36 => Mask.word p.trap.texec 0
  | 0x37 => Mask.word p.trap.texec 1
  | 0x38 => Mask.word p.trap.texec 2
  | 0x39 => p.trap.trep
  | 0x3A => lo32 tvec
  | _ => hi32 tvec

/-- The value of a special register that is not per lane (Table 05-12, 09-2, 10-1, 16-3). -/
def State.special (s : State) (k : Issuer) (n : Nat) : Word :=
  let time := (s.cluster k.cluster).time
  let w (x : Nat) : Word := BitVec.ofNat 32 x
  if 0x30 ≤ n then k.p.trapReg (s.ctx k.ctx).tvec n
  else match n with
  | 0x01 => w (k.p.stack.length % 32 * 32 + k.g.live.length % 8 * 4 + k.p.num % 4)
  | 0x02 => w k.groupInfo
  | 0x03 => w k.g.count
  | 0x04 => s.fcnt k.g.gid k.p.num 0
  | 0x05 => s.fcnt k.g.gid k.p.num 1
  | 0x06 => s.fcnt k.g.gid k.p.num 2
  | 0x07 => k.p.rep.word
  | 0x08 => Mask.word k.p.memb 0
  | 0x09 => Mask.word k.p.memb 1
  | 0x0A => Mask.word k.p.memb 2
  | 0x0B => match k.p.jpc with
    | some j => lo32 j &&& 0xFFFFFFF8 ||| 1
    | none => 0
  | 0x0C => match k.p.jpc with
    | some j => hi32 j
    | none => 0
  | 0x0D => w time
  | 0x0E => hi32 (k.p.tcap.getD (BitVec.ofNat 64 time))
  | 0x0F => w k.ctx
  | 0x10 => lo32 k.c.arg
  | 0x11 => hi32 k.c.arg
  | 0x12 => if k.c.task.isSome then 0 else w k.c.index
  | 0x13 => if k.c.task.isSome then w (2 ^ 16 + k.c.utag) else 0
  | 0x14 => w (k.c.coord 0)
  | 0x15 => w (k.c.coord 1)
  | 0x16 => w (k.g.prio % 16)
  | 0x17 => k.g.soft0
  | 0x18 => if k.c.task.isSome then 0 else w (k.c.index / 2 ^ 32 % 2 ^ 16)
  | 0x20 => w ((s.ctx k.ctx).hprime % 8)
  | 0x21 => k.g.hstat
  | 0x26 => w k.g.claim.toNat
  | _ => w (s.ebudget k n)

/-- SREAD (R139): LANEID goes to a v-register; TIMELO captures the whole count (R141). -/
def execSread (o : OpA) (s : State) := issue (.sread o) s fun k =>
  let n := o.subN
  if n = 0 then .done (s.setGroup (k.g.wrLanes o.d (fun l => BitVec.ofNat 32 l) k.lanes))
  else
    let g := if n = 0x0D then
        k.g.setSplit { k.p with tcap := some (BitVec.ofNat 64 (s.cluster k.cluster).time) } else k.g
    .done (s.setGroup (g.wrS k.p.num o.d (s.special k n)))

end Sys2Proof.Machine
end

