-- ==== Sys2Proof/Machine/Integer.lean ====
section
/-! DEFINITION. Block 0x00, the lane instructions: integer arithmetic, comparison, shifts, logic, bit fields, addresses and
moves (R124 to R129), and the cross-lane instructions (R130 to R132). -/

namespace Sys2Proof.Machine

/-! ### Shared computations -/

/-- VAL (R124): signed, or unsigned under .n32. -/
def val (n32 : Bool) (w : Word) : Int := if n32 then (w.toNat : Int) else w.toInt

/-- LO and HI (R124). -/
def loOf (n32 : Bool) : Int := if n32 then 0 else -2 ^ 31
def hiOf (n32 : Bool) : Int := if n32 then 2 ^ 32 - 1 else 2 ^ 31 - 1

/-- The exact value saturated under .sat, and reduced mod 2^32 (R124). -/
def intOut (n32 sat : Bool) (x : Int) : Word := wordOf (if sat then min (max x (loOf n32)) (hiOf n32) else x)

/-- The condition codes of ICMP (R125). -/
def icmpCc (cc : Nat) (a b : Int) : Bool := match cc with
  | 0 => decide (a = b) | 1 => decide (a ≠ b) | 2 => decide (a < b) | 3 => decide (a ≤ b) | 4 => decide (a > b)
  | _ => decide (a ≥ b)

/-- The shift count b[7:0] (R126). -/
def shiftN (b : Word) : Nat := b.toNat % 256

/-- The width of a bit field: values from 33 to 63 act as 32 (R127). -/
def fieldW (w : Nat) : Nat := if 32 < w then 32 else w

/-- BFX (R127). -/
def bfxOut (signed : Bool) (a : Word) (pos w : Nat) : Word :=
  let f := a.toNat / 2 ^ pos % 2 ^ w
  if signed then (if w = 0 then 0 else wordOf (sgn w f)) else BitVec.ofNat 32 f

/-- BFI (R127). -/
def bfiOut (a b : Word) (pos w : Nat) : Word :=
  let m : Word := BitVec.ofNat 32 ((2 ^ w - 1) * 2 ^ pos)
  (a &&& ~~~m) ||| (BitVec.ofNat 32 (b.toNat * 2 ^ pos) &&& m)

/-- The number of 1 bits. -/
def popcount (a : Word) : Nat := ((List.range 32).filter fun i => a.getLsbD i).length

/-- The number of leading zeros, 32 for 0 (R127). -/
def leadingZeros (a : Word) : Nat := if a = 0 then 32 else 31 - a.toNat.log2

/-- Bit i moved to bit 31 − i (R127). -/
def bitReverse (a : Word) : Word :=
  BitVec.ofNat 32 ((List.range 32).foldl (fun n i => if a.getLsbD i then n + 2 ^ (31 - i) else n) 0)

/-- A two-source integer operation on VALs, saturating under SUB[0] where the entry has .sat (R124). -/
def intOp (i : Instr) (o : OpA) (s : State) (n32 sat : Bool) (f : Int → Int → Int → Int) :
    Host.Outcome State Fault Refusal :=
  issue i s (regs s fun k => k.put o fun l =>
    intOut n32 sat (f (val n32 (k.src o o.a l)) (val n32 (k.src o o.b l)) (val n32 (k.src o o.c l))))

/-- An operation on 32-bit patterns. -/
def wordOp (i : Instr) (o : OpA) (s : State) (f : Word → Word → Word → Word) : Host.Outcome State Fault Refusal :=
  issue i s (regs s fun k => k.put o fun l => f (k.src o o.a l) (k.src o o.b l) (k.src o o.c l))

/-! ### Integer arithmetic (R124) -/

def execIadd (o : OpA) (s : State) := intOp (.iadd o) o s o.isN32 (o.sub.getLsbD 0) fun a b _ => a + b
def execIsub (o : OpA) (s : State) := intOp (.isub o) o s o.isN32 (o.sub.getLsbD 0) fun a b _ => a - b
def execImul (o : OpA) (s : State) := intOp (.imul o) o s o.isN32 (o.sub.getLsbD 0) fun a b _ => a * b
def execImulh (o : OpA) (s : State) := intOp (.imulh o) o s o.isN32 false fun a b _ => (a * b) / 2 ^ 32
def execImad (o : OpA) (s : State) := intOp (.imad o) o s o.isN32 (o.sub.getLsbD 0) fun a b c => a * b + c
def execImin (o : OpA) (s : State) := intOp (.imin o) o s o.isN32 false fun a b _ => min a b
def execImax (o : OpA) (s : State) := intOp (.imax o) o s o.isN32 false fun a b _ => max a b
def execIabs (o : OpA) (s : State) := intOp (.iabs o) o s false (o.sub.getLsbD 0) fun a _ _ => (a.natAbs : Int)
def execIneg (o : OpA) (s : State) := intOp (.ineg o) o s false (o.sub.getLsbD 0) fun a _ _ => -a

/-- IADDC: unsigned; under .co the carry out is written. -/
def execIaddc (o : OpA) (s : State) := intOp (.iaddc o) o s true false fun a b c =>
  let x := a + b + c % 2
  if o.sub.getLsbD 0 then x / 2 ^ 32 else x

/-! ### Comparison and selection (R125) -/

def execIcmp (o : OpA) (s : State) := wordOp (.icmp o) o s fun a b _ =>
  if icmpCc o.subLo (val o.isN32 a) (val o.isN32 b) then 1 else 0
def execSel (o : OpA) (s : State) := wordOp (.sel o) o s fun a b c => if c ≠ 0 then a else b

/-! ### Shifts and logic (R126) -/

def execShl (o : OpA) (s : State) := wordOp (.shl o) o s fun a b _ => a <<< shiftN b
def execShr (o : OpA) (s : State) := wordOp (.shr o) o s fun a b _ => a >>> shiftN b
def execSar (o : OpA) (s : State) := wordOp (.sar o) o s fun a b _ => a.sshiftRight (shiftN b)
def execRol (o : OpA) (s : State) := wordOp (.rol o) o s fun a b _ => a.rotateLeft (shiftN b % 32)
def execAnd (o : OpA) (s : State) := wordOp (.and o) o s fun a b _ => a &&& b
def execOr (o : OpA) (s : State) := wordOp (.or o) o s fun a b _ => a ||| b
def execXor (o : OpA) (s : State) := wordOp (.xor o) o s fun a b _ => a ^^^ b
def execNot (o : OpA) (s : State) := wordOp (.not o) o s fun a _ _ => ~~~a
def execAndn (o : OpA) (s : State) := wordOp (.andn o) o s fun a b _ => a &&& ~~~b

/-! ### Bit fields and counts (R127) -/

def execBfx (o : OpA) (s : State) := wordOp (.bfx o) o s fun a b c =>
  bfxOut (o.typ == .i32) a (b.toNat % 32) (fieldW (c.toNat % 64))
def execBfi (o : OpA) (s : State) := wordOp (.bfi o) o s fun a b c =>
  bfiOut a b (c.toNat % 32) (fieldW (c.toNat / 256 % 64))
def execPopc (o : OpA) (s : State) := wordOp (.popc o) o s fun a _ _ => BitVec.ofNat 32 (popcount a)
def execClz (o : OpA) (s : State) := wordOp (.clz o) o s fun a _ _ => BitVec.ofNat 32 (leadingZeros a)
def execBrev (o : OpA) (s : State) := wordOp (.brev o) o s fun a _ _ => bitReverse a

/-! ### Addresses and moves (R128, R129) -/

/-- LEA's offset: EXT(b) × k × 2^sh, with k 3 under .x3 (R128). -/
def leaOff (o : OpA) (b : Word) : DWord :=
  (if o.isN32 then BitVec.zeroExtend 64 b else BitVec.signExtend 64 b) * BitVec.ofNat 64
    ((if o.sub.getLsbD 5 then 3 else 1) * 2 ^ (o.subN % 32))

def execLea (o : OpA) (s : State) := issue (.lea o) s (regs s fun k => k.put64 o fun l =>
  k.src64 o o.a l + leaOff o (k.src o o.b l))
def execAdd64 (o : OpA) (s : State) := issue (.add64 o) s (regs s fun k => k.put64 o fun l =>
  k.src64 o o.a l + k.src64 o o.b l)

/-- A move of one register or, under .b64, of a pair (R129). -/
def moveTo (o : OpA) (k : Issuer) : Group :=
  if o.typ = .b64 then k.put64 o fun l => k.src64 o o.a l else k.put o fun l => k.src o o.a l

def execMov (o : OpA) (s : State) := issue (.mov o) s (regs s fun k => moveTo o k)
def execMovi (o : OpA) (s : State) := issue (.movi o) s (regs s fun k => moveTo o k)

/-- MOVS (R129): the low 16 or 8 bits, sign- or zero-extended. -/
def movsOut (t : Ty) (a : Word) : Word := match t with
  | .i8 => wordOf (sgn 8 a.toNat)
  | .n16 => BitVec.ofNat 32 (a.toNat % 2 ^ 16)
  | .n8 => BitVec.ofNat 32 (a.toNat % 2 ^ 8)
  | _ => wordOf (sgn 16 a.toNat)

def execMovs (o : OpA) (s : State) := wordOp (.movs o) o s fun a _ _ => movsOut o.typ a

/-! ### Cross-lane instructions (R130 to R132) -/

/-- A cross-lane instruction that writes vD in the active lanes. -/
def laneOp (i : Instr) (o : OpA) (s : State) (f : Issuer → Nat → Word) : Host.Outcome State Fault Refusal :=
  issue i s (regs s fun k => k.g.wrLanes o.d (f k) k.lanes)

def execLperm (o : OpA) (s : State) := laneOp (.lperm o) o s fun k l =>
  k.g.rdV o.areg ((k.src o o.b l).toNat % 96)

/-- LPUSH (R130): the highest active source lane that names lane `l` wins. -/
def execLpush (o : OpA) (s : State) := laneOp (.lpush o) o s fun k l =>
  match (k.lanes.filter fun m => (k.src o o.b m).toNat % 96 == l).getLast? with
  | some m => k.g.rdV o.areg m
  | none => k.g.rdV o.d l

def execLbcast (o : OpA) (s : State) := laneOp (.lbcast o) o s fun k l =>
  k.g.rdV o.areg ((k.src o o.b l).toNat % 96)

/-- LSHFL's source lane; none when it falls outside 0 to 95 (R130). -/
def shuffleLane (mode l d : Nat) : Option Nat := match mode with
  | 0 => if d ≤ l then some (l - d) else none
  | 1 => if l + d < 96 then some (l + d) else none
  | 2 => if l ^^^ d < 96 then some (l ^^^ d) else none
  | _ => some ((l + d) % 96)

def execLshfl (o : OpA) (s : State) := laneOp (.lshfl o) o s fun k l =>
  k.g.rdV o.areg ((shuffleLane (o.subN % 4) l ((k.src o o.b l).toNat % 128)).getD l)

/-- The combining operation of LSCAN and LRED (R131). -/
def scanOp (n32 : Bool) (op : Nat) (a b : Word) : Word := match op with
  | 0 => a + b
  | 1 => if val n32 b < val n32 a then b else a
  | 2 => if val n32 a < val n32 b then b else a
  | 3 => a &&& b
  | 4 => a ||| b
  | _ => a ^^^ b

/-- The identity of the operation (R131). -/
def scanId (n32 : Bool) (op : Nat) : Word := match op with
  | 1 => wordOf (hiOf n32)
  | 2 => wordOf (loOf n32)
  | 3 => BitVec.allOnes 32
  | _ => 0

/-- The combination of vA over lanes in ascending order. -/
def combine (o : OpA) (k : Issuer) (ls : List Nat) : Word :=
  ls.foldl (fun x l => scanOp o.isN32 o.subLo x (k.g.rdV o.areg l)) (scanId o.isN32 o.subLo)

def execLscan (o : OpA) (s : State) := laneOp (.lscan o) o s fun k l =>
  combine o k (k.lanes.filter fun m => if o.sub.getLsbD 3 then decide (m < l) else decide (m ≤ l))

def execLred (o : OpA) (s : State) := laneOp (.lred o) o s fun k _ => combine o k k.lanes

/-- LVOTE (R132): a D beyond s125 faults with the register bound, as `shapeA` has it. -/
def execLvote (o : OpA) (s : State) := issue (.lvote o) s (regs s fun k =>
  let t := k.lanes.filter fun l => k.g.rdV o.areg l != 0
  match o.subN % 4 with
  | 0 => k.g.wrS k.p.num o.d (if t.isEmpty then 0 else 1)
  | 1 => k.g.wrS k.p.num o.d (if t.length = k.lanes.length then 1 else 0)
  | _ => k.g.wrSs k.p.num o.d [Mask.word (maskOf t) 0, Mask.word (maskOf t) 1, Mask.word (maskOf t) 2])

def execFirstlane (o : OpA) (s : State) := issue (.firstlane o) s (regs s fun k =>
  k.g.wrS k.p.num o.d (match k.lanes.head? with
    | some l => if o.sub.getLsbD 0 then BitVec.ofNat 32 l else k.g.rdV o.areg l
    | none => if o.sub.getLsbD 0 then BitVec.allOnes 32 else 0))

end Sys2Proof.Machine
end

