-- ==== Sys2Proof/Machine/Numbers.lean ====
section
/-! DEFINITION. Number formats and their arithmetic (R142 to R153): exact values, CONVERT, the random sources of stochastic
rounding, the sum rule, the seed functions and the exact reductions. -/

namespace Sys2Proof.Machine

/-- An exact value, ±m × 2^e, or a special value. -/
inductive FVal where
  | nan
  | inf (neg : Bool)
  | fin (neg : Bool) (m : Nat) (e : Int)
  deriving DecidableEq, Repr

/-- Formats a value is read from or converted to (Table 06-1); `n32` is the unsigned destination of FTOI, and `s12` the
set of R160. -/
inductive Fmt where
  | f32 | f16 | bf16 | e5m2 | e4m3 | e2m1 | i8 | i4 | i32 | n32 | s12
  deriving DecidableEq, Repr

/-- Fraction bits of a floating format. -/
def Fmt.frac : Fmt → Nat
  | .f32 => 23 | .f16 => 10 | .bf16 => 7 | .e5m2 => 2 | .e4m3 => 3 | .e2m1 => 1 | .s12 => 11 | _ => 0

/-- Exponent bits. -/
def Fmt.expBits : Fmt → Nat
  | .f32 | .bf16 | .s12 => 8 | .f16 | .e5m2 => 5 | .e4m3 => 4 | .e2m1 => 2 | _ => 0

def Fmt.bias : Fmt → Nat
  | .f32 | .bf16 | .s12 => 127 | .f16 | .e5m2 => 15 | .e4m3 => 7 | _ => 1

/-- Width in bits. -/
def Fmt.width : Fmt → Nat
  | .f32 | .i32 | .n32 => 32 | .f16 | .bf16 => 16 | .e5m2 | .e4m3 | .i8 => 8 | .e2m1 | .i4 => 4 | .s12 => 20

/-- The encoding of the largest finite magnitude. -/
def Fmt.maxEnc : Fmt → Nat
  | .f32 => 0x7F7FFFFF | .f16 => 0x7BFF | .bf16 => 0x7F7F | .e5m2 => 0x7B | .e4m3 => 0x7E | .e2m1 => 7
  | .s12 => 0x7F7FF | _ => 0

/-- The canonical NaN (R145), +0 for E2M1 (Table 06-2). -/
def Fmt.nanEnc : Fmt → Nat
  | .f32 => 0x7FC00000 | .f16 => 0x7E00 | .bf16 => 0x7FC0 | .e5m2 => 0x7E | .e4m3 => 0x7F | .s12 => 0x7FC00 | _ => 0

/-- The encoding of +∞, where the format has one. -/
def Fmt.infEnc : Fmt → Option Nat
  | .f32 => some 0x7F800000 | .f16 => some 0x7C00 | .bf16 => some 0x7F80 | .e5m2 => some 0x7C | .s12 => some 0x7F800
  | _ => none

/-- The range of an integer format. -/
def Fmt.intRange : Fmt → Option (Int × Int)
  | .i8 => some (-128, 127) | .i4 => some (-8, 7) | .i32 => some (-2 ^ 31, 2 ^ 31 - 1) | .n32 => some (0, 2 ^ 32 - 1)
  | _ => none

/-- The spacing exponent of subnormals: emin − fraction bits. -/
def Fmt.minQ (f : Fmt) : Int := 1 - (f.bias : Int) - f.frac

/-! ### Reading an encoding -/

/-- The value of an encoding (Table 06-1). -/
def Fmt.decode (f : Fmt) (n : Nat) : FVal :=
  match f.intRange with
  | some _ =>
    let x := if f = .n32 then ((n % 2 ^ 32 : Nat) : Int) else sgn f.width n
    .fin (decide (x < 0)) x.natAbs 0
  | none =>
    let k := f.frac
    let neg := n.testBit (f.width - 1)
    let ex := n / 2 ^ k % 2 ^ f.expBits
    let fr := n % 2 ^ k
    let top := 2 ^ f.expBits - 1
    if f = .e4m3 then
      if ex = top ∧ fr = 7 then .nan
      else if ex = 0 then .fin neg fr f.minQ else .fin neg (2 ^ k + fr) (f.minQ + (ex - 1 : Int))
    else if f ≠ .e2m1 ∧ ex = top then (if fr = 0 then .inf neg else .nan)
    else if ex = 0 then .fin neg fr f.minQ else .fin neg (2 ^ k + fr) (f.minQ + (ex - 1 : Int))

/-! ### Rounding and CONVERT (R146, R147) -/

/-- |x| in units of 2^q, truncated, and what is cut off as a fraction of 2^16 with the rest below it. -/
structure Cut where
  n : Nat
  rem : Nat
  den : Nat

/-- m × 2^e in units of 2^q. -/
def cutAt (m : Nat) (e q : Int) : Cut :=
  if q ≤ e then { n := m * 2 ^ (e - q).toNat, rem := 0, den := 1 }
  else let d := 2 ^ (q - e).toNat; { n := m / d, rem := m % d, den := d }

/-- The spacing exponent q of a destination at a magnitude m × 2^e, m ≠ 0 (R146). -/
def Fmt.spacing (f : Fmt) (m : Nat) (e : Int) : Int :=
  match f.intRange with
  | some _ => 0
  | none => max ((m.log2 : Int) + e - f.frac) f.minQ

/-- The discard field F (R146). -/
def Cut.discard (c : Cut) : Nat := c.rem * 65536 / c.den

/-- Whether the magnitude rounds up to lo + q (R146). -/
def Cut.up (c : Cut) (mode : Rnd) (neg : Bool) (g : Nat) : Bool := match mode with
  | .rz => false
  | .rd => neg && c.rem != 0
  | .ru => !neg && c.rem != 0
  | .sr => c.rem != 0 && decide (65536 ≤ c.discard + g)
  | _ => decide (c.den < 2 * c.rem) || (decide (2 * c.rem = c.den) && c.n % 2 == 1)

/-- A magnitude of n units of 2^q as an encoding without sign. -/
def Fmt.magEnc (f : Fmt) (n : Nat) (q : Int) : Nat := (q - f.minQ).toNat * 2 ^ f.frac + n

/-- An encoding with a sign. -/
def Fmt.signed (f : Fmt) (neg : Bool) (mag : Nat) : Nat := if neg then 2 ^ (f.width - 1) + mag else mag

/-- The result of an overflow (Table 06-2). -/
def Fmt.overflow (f : Fmt) (neg : Bool) (mode : Rnd) (sat : Bool) : Nat :=
  match f.infEnc with
  | some i =>
    let toMax := sat || (match mode with
      | .rz => true
      | .rd => !neg
      | .ru => neg
      | _ => false)
    f.signed neg (if toMax then f.maxEnc else i)
  | none => if f = .e4m3 ∧ !sat then f.nanEnc else f.signed neg f.maxEnc

/-- An integer clamped to its destination's range, as an encoding. -/
def Fmt.clampInt (f : Fmt) (r : Int × Int) (x : Int) : Nat := (max r.1 (min r.2 x) % 2 ^ f.width).toNat

/-- CONVERT(x, fmt, mode, sat, g) (R147). -/
def convert (x : FVal) (f : Fmt) (mode : Rnd) (sat : Bool) (g : Nat) : Nat :=
  match f.intRange with
  | some r => match x with
    | .nan => 0
    | .inf neg => f.clampInt r (if neg then r.1 else r.2)
    | .fin neg m e =>
      let c := cutAt m e 0
      let n := if c.up mode neg g then c.n + 1 else c.n
      f.clampInt r (if neg then -(n : Int) else n)
  | none => match x with
    | .nan => f.nanEnc
    | .inf neg =>
      match f.infEnc with
      | some i => f.signed neg (if sat then f.maxEnc else i)
      | none => if f = .e4m3 ∧ !sat then f.nanEnc else f.signed neg f.maxEnc
    | .fin neg m e =>
      if m = 0 then f.signed neg 0
      else
        let q := f.spacing m e
        let c := cutAt m e q
        let mag := f.magEnc (if c.up mode neg g then c.n + 1 else c.n) q
        if f.maxEnc < mag then f.overflow neg mode sat else f.signed neg mag

/-- F(M, j) of R148: the discard field of a conversion, 0 where it is exact, special or overflowing. -/
def discardOf (x : FVal) (f : Fmt) : Nat := match x with
  | .fin neg m e =>
    if m = 0 then 0
    else
      let q := f.spacing m e
      let c := cutAt m e q
      let above := match f.intRange with
        | some r =>
          let y : Int := if neg then -((c.n + 1 : Nat) : Int) else ((c.n + 1 : Nat) : Int)
          decide (y < r.1) || decide (r.2 < y)
        | none => decide (f.maxEnc < f.magEnc (c.n + 1) q)
      if above then 0 else c.discard
  | _ => 0

/-! ### Random values (R148, R149) -/

/-- The neighbour hash of lane `l`, element `j` (R148); `a` and `b` are the neighbours' discard fields. -/
def neighbourHash (a b l j : Nat) : Nat :=
  let x := (a * 65536 + b) ^^^ (l * 256) ^^^ (j * 2 ^ 24)
  let y := x * 0x045D9F3B % 2 ^ 32
  (y ^^^ (y / 65536)) % 65536

/-- The dither matrix D, row by row (Table 06-4). -/
def ditherD : List Nat :=
  [0, 32, 8, 40, 2, 34, 10, 42, 48, 16, 56, 24, 50, 18, 58, 26, 12, 44, 4, 36, 14, 46, 6, 38, 60, 28, 52, 20, 62, 30,
   54, 22, 3, 35, 11, 43, 1, 33, 9, 41, 51, 19, 59, 27, 49, 17, 57, 25, 15, 47, 7, 39, 13, 45, 5, 37, 63, 31, 55, 23,
   61, 29, 53, 21]

/-- The ordered dither at position `e` under phase `phi` (R149). -/
def dither (e phi : Nat) : Nat := 1024 * nth 0 ditherD ((e + phi) % 64) + 512

/-- The random value of lane `l`, element `j` of an instruction whose conversions' exact values are `v`, by lane: the
neighbour hash (R148), or with STOCH = 1 the dither (R149). In scalar form a = b = 0 and the lane is 0. -/
def randomOf (dithered : Option Nat) (scalar : Bool) (active : Mask) (v : Nat → FVal) (f : Fmt) (l j : Nat) : Nat :=
  match dithered with
  | some phase => dither (8 * (if scalar then 0 else l) + j) phase
  | none =>
    let d (m : Nat) : Nat := if active.getLsbD m then discardOf (v m) f else 0
    if scalar then neighbourHash 0 0 0 j else neighbourHash (d ((l + 95) % 96)) (d ((l + 1) % 96)) l j

/-! ### Exact arithmetic (R145, R155) -/

def FVal.neg : FVal → FVal
  | .nan => .nan
  | .inf n => .inf !n
  | .fin n m e => .fin (!n) m e

def FVal.isZero : FVal → Bool
  | .fin _ m _ => m == 0
  | _ => false

/-- A signed integer times 2^e; zero is +0. -/
def ofInt (x : Int) (e : Int) : FVal := .fin (decide (x < 0)) x.natAbs e

/-- m × 2^e as an integer multiple of 2^b, b ≤ e. -/
def scaled (neg : Bool) (m : Nat) (e b : Int) : Int :=
  let n : Int := (m * 2 ^ (e - b).toNat : Nat)
  if neg then -n else n

/-- The exact sum; an exact zero has the sign of R145. -/
def FVal.add (x y : FVal) (mode : Rnd) : FVal := match x, y with
  | .nan, _ | _, .nan => .nan
  | .inf a, .inf b => if a = b then .inf a else .nan
  | .inf a, .fin .. | .fin .., .inf a => .inf a
  | .fin a m e, .fin b n f =>
    let q := min e f
    let s := scaled a m e q + scaled b n f q
    if s = 0 then
      if m = 0 ∧ n = 0 ∧ a = b then .fin a 0 0 else .fin (mode == .rd) 0 0
    else ofInt s q

/-- The exact product. -/
def FVal.mul (x y : FVal) : FVal := match x, y with
  | .nan, _ | _, .nan => .nan
  | .inf a, .inf b => .inf (a != b)
  | .inf a, .fin b n _ | .fin b n _, .inf a => if n = 0 then .nan else .inf (a != b)
  | .fin a m e, .fin b n f => .fin (a != b) (m * n) (e + f)

/-- x × 2^k. -/
def FVal.scale (x : FVal) (k : Int) : FVal := match x with
  | .fin a m e => .fin a m (e + k)
  | y => y

/-! ### The sum rule (R153) -/

/-- The exponent ⌊log2 |t|⌋ of a non-zero term. -/
def FVal.exp : FVal → Option Int
  | .fin _ m e => if m = 0 then none else some ((m.log2 : Int) + e)
  | _ => none

/-- One term truncated towards zero to units of 2^q, with its sign. -/
def truncTo (q : Int) : FVal → Int
  | .fin neg m e => let n : Int := (cutAt m e q).n; if neg then -n else n
  | _ => 0

/-- SUMRULE over every term, the accumulator included (R153). -/
def sumRule (ts : List FVal) : Nat :=
  if ts.contains .nan ∨ (ts.contains (.inf true) ∧ ts.contains (.inf false)) then 0x7FC00000
  else if ts.contains (.inf true) then 0xFF800000
  else if ts.contains (.inf false) then 0x7F800000
  else match (ts.filterMap FVal.exp).max? with
    | none => if ts.all fun t => match t with
        | .fin neg _ _ => neg
        | _ => false then 0x80000000 else 0
    | some emax =>
      let q := emax - 26
      let acc := (ts.map (truncTo q)).sum
      if acc = 0 then 0 else convert (ofInt acc q) .f32 .rn false 0

/-! ### FP32 comparison (R156, R157) -/

/-- An FP32 number as a key that orders as its value does, −0 below +0. -/
def f32Key (w : Word) : Int :=
  let m : Int := (w.toNat % 2 ^ 31 : Nat)
  if w.getLsbD 31 then -m - 1 else m

def isNan32 (w : Word) : Bool := decide (0x7F800000 < w.toNat % 2 ^ 31)

/-- The comparison key in which −0 equals +0. -/
def f32Cmp (w : Word) : Int := let k := f32Key w; if k = -1 then 0 else if k < 0 then k + 1 else k

/-! ### Seed functions (R160) -/

/-- The integer square root, found bit by bit. -/
def isqrtFrom (n : Nat) : Nat → Nat → Nat
  | 0, r => r
  | b + 1, r => isqrtFrom n b (if (r + 2 ^ b) * (r + 2 ^ b) ≤ n then r + 2 ^ b else r)

def isqrt (n : Nat) : Nat := isqrtFrom n (n.log2 / 2 + 1) 0

/-- An exact quotient kept with a sticky bit: a value strictly between representable ones stays between them. -/
def withSticky (neg : Bool) (q : Nat) (exact : Bool) (e : Int) : FVal := .fin neg (2 * q + if exact then 0 else 1) (e - 1)

/-- 1 / (m × 2^e). -/
def recip (neg : Bool) (m : Nat) (e : Int) : FVal :=
  let k := m.log2 + 60
  withSticky neg (2 ^ k / m) (2 ^ k % m == 0) (-(k : Int) - e)

/-- 1 / √(m × 2^e): the root of 2^(2k) / m', with m' × 2^(2h) the value. -/
def recipSqrt (m : Nat) (e : Int) : FVal :=
  let odd := e % 2 != 0
  let m' := if odd then 2 * m else m
  let h := (if odd then e - 1 else e) / 2
  let k := m'.log2 + 60
  let n := 2 ^ (2 * k) / m'
  let r := isqrt n
  withSticky false r (r * r == n && 2 ^ (2 * k) % m' == 0) (-(k : Int) - h)

/-- The bits of log2 of a number in [1, 2), by repeated squaring: `x` has 256 fraction bits. -/
def log2Bits : Nat → Nat → Nat → Nat
  | 0, _, acc => acc
  | n + 1, x, acc =>
    let y := x * x / 2 ^ 256
    if 2 ^ 257 ≤ y then log2Bits n (y / 2) (2 * acc + 1) else log2Bits n y (2 * acc)

/-- log2 (m × 2^e), with 120 fraction bits and a sticky bit (log 12). -/
def log2Of (m : Nat) (e : Int) : FVal :=
  let k := m.log2
  let whole : Int := (k : Int) + e
  let l := log2Bits 120 (m * 2 ^ 256 / 2 ^ k) 0
  if m = 2 ^ k then ofInt whole 0 else ofInt (whole * 2 ^ 121 + (2 * l + 1 : Nat)) (-121)

/-- ⌊π/2 × 2^384⌋ and ⌊ln 2 × 2^384⌋. -/
def halfPi : Nat :=
  0x1921fb54442d18469898cc51701b839a252049c1114cf98e804177d4c76273644a29410f31c6809bbdf2a33679a748636
def ln2 : Nat :=
  0xb17217f7d1cf79abc9e3b39803f2f6af40f343267298b62d8a0d175b8baafa2be7b876206debac98559552fb4afa1b10

/-- The Taylor sum of exp y with 192 fraction bits; `t` is the present term, `k` its number. -/
def expSum : Nat → Nat → Nat → Nat → Nat → Nat
  | 0, _, _, _, acc => acc
  | n + 1, y, k, t, acc => expSum n y (k + 1) (t * y / 2 ^ 192 / (k + 1)) (acc + t)

/-- 2^x for x = ±m × 2^e (log 12). -/
def exp2Of (neg : Bool) (m : Nat) (e : Int) : FVal :=
  if m = 0 then .fin false 1 0
  else
    let ex : Int := (m.log2 : Int) + e
    if 8 ≤ ex then .fin false 1 (if neg then -1000 else 1000)
    else if ex < -40 then .fin false (if neg then 2 ^ 60 - 1 else 2 ^ 60 + 1) (-60)
    else
      let a := scaled neg m (e + 64) 0
      let n := a / 2 ^ 64
      let f := (a % 2 ^ 64).toNat
      if f = 0 then .fin false 1 n
      else .fin false (2 * expSum 60 (f * ln2 / 2 ^ 256) 0 (2 ^ 192) 0 + 1) (n - 193)

/-- A value rounded to nearest even into S12, as an FP32 pattern (R160). -/
def toS12 (x : FVal) : Word := BitVec.ofNat 32 (convert x .s12 .rn false 0 * 4096)

/-! ### Exact reductions (R161) -/

/-- k, the integer nearest to a / c, and a − k × c in units of 2^−384; `c` in the same units. -/
def reduce (c : Nat) (neg : Bool) (m : Nat) (e : Int) : Int × Int :=
  let a := scaled neg m (e + 384) 0
  let k := (2 * a + c) / (2 * c)
  (k, a - k * c)

/-! ### Format slots (R150 to R152) -/

/-- A format slot's fields (Table 06-5). -/
structure FSlot where
  elem : Nat
  scale : Nat
  blk : Nat
  rnd : Nat
  stoch : Nat
  sat : Bool
  phase : Nat
  rsv : Bool
  deriving DecidableEq, Repr

def FSlot.ofBits (n : Nat) : FSlot :=
  { elem := bits n 7 0, scale := bits n 15 8, blk := bits n 23 16, rnd := bits n 26 24, stoch := bits n 33 32
    sat := n.testBit 34, phase := bits n 45 40, rsv := bits n 63 46 != 0 || bits n 39 35 != 0 || bits n 31 27 != 0 }

/-- The slot is valid (R151). -/
def FSlot.valid (f : FSlot) : Bool :=
  decide (1 ≤ f.elem) && decide (f.elem ≤ 8) && decide (f.scale ≤ 1)
    && (f.scale == 0 || f.elem == 4 || f.elem == 5 || f.elem == 6)
    && (if f.scale = 1 then decide (3 ≤ f.blk) && decide (f.blk ≤ 5) else f.blk == 0)
    && decide (f.rnd ≤ 4) && f.stoch != 3 && !f.rsv

/-- Slot `n` of a launch record: bytes 64 + 8n (R150). -/
def slotBits (record : BitVec 1536) (n : Nat) : Nat := bits record.toNat (575 + 64 * n) (512 + 64 * n)

/-- The format of an ELEM code (Table 06-5). -/
def elemFmt : Nat → Fmt
  | 1 => .f32 | 2 => .f16 | 3 => .bf16 | 4 => .e4m3 | 5 => .e5m2 | 6 => .e2m1 | 7 => .i8 | _ => .i4

/-- The format of an explicit type. -/
def tyFmt (dflt : Fmt) : Ty → Fmt
  | .f32 => .f32 | .f16 => .f16 | .bf16 => .bf16 | .e4m3 => .e4m3 | .e5m2 => .e5m2 | .e2m1 => .e2m1 | .i8 => .i8
  | _ => dflt

/-- Element `k` of a packed register (R143). -/
def elemAt (f : Fmt) (w : Word) (k : Nat) : Nat := bits w.toNat (f.width * k + f.width - 1) (f.width * k)

/-- A packed register with element `k` replaced. -/
def setElem (f : Fmt) (w : Word) (k v : Nat) : Word :=
  BitVec.ofNat 32 (setBits w.toNat (f.width * k + f.width - 1) (f.width * k) v)

end Sys2Proof.Machine
end

