-- ==== Sys2Proof/Machine/Float.lean ====
section
/-! DEFINITION. Block 0x40 (R154 to R166): FP32 arithmetic, comparison, conversion, packing, dot products, scales and
quantisation. -/

namespace Sys2Proof.Machine

/-- A register read as FP32. -/
def f32 (w : Word) : FVal := Fmt.f32.decode w.toNat

/-- CONVERT to FP32 as a register. -/
def toF32 (x : FVal) (mode : Rnd) : Word := BitVec.ofNat 32 (convert x .f32 mode false 0)

/-! ### FP32 arithmetic (R155, R156) -/

def execFadd (o : OpA) (s : State) := wordOp (.fadd o) o s fun a b _ => toF32 ((f32 a).add (f32 b) o.rnd) o.rnd
def execFsub (o : OpA) (s : State) := wordOp (.fsub o) o s fun a b _ => toF32 ((f32 a).add (f32 b).neg o.rnd) o.rnd
def execFmul (o : OpA) (s : State) := wordOp (.fmul o) o s fun a b _ => toF32 ((f32 a).mul (f32 b)) o.rnd
def execFfma (o : OpA) (s : State) := wordOp (.ffma o) o s fun a b c =>
  let p := (f32 a).mul (f32 b)
  toF32 ((if o.sub.getLsbD 0 then p.neg else p).add (f32 c) o.rnd) o.rnd

/-- minimumNumber or maximumNumber (R156). -/
def pickNumber (less : Bool) (a b : Word) : Word :=
  if isNan32 a ∧ isNan32 b then 0x7FC00000
  else if isNan32 a then b
  else if isNan32 b then a
  else if decide (f32Key a < f32Key b) = less then a else b

def execFmin (o : OpA) (s : State) := wordOp (.fmin o) o s fun a b _ => pickNumber true a b
def execFmax (o : OpA) (s : State) := wordOp (.fmax o) o s fun a b _ => pickNumber false a b

/-! ### Comparison and classification (R157) -/

/-- The condition codes of FCMP. -/
def fcmpCc (cc : Nat) (a b : Word) : Bool :=
  if isNan32 a ∨ isNan32 b then cc == 1 || cc == 6
  else if cc = 6 then false
  else icmpCc cc (f32Cmp a) (f32Cmp b)

def execFcmp (o : OpA) (s : State) := wordOp (.fcmp o) o s fun a b _ => if fcmpCc o.subLo a b then 1 else 0

/-- The bit of FCLASS's mask. -/
def classBit (w : Word) : Nat :=
  let m := w.toNat % 2 ^ 31
  let neg := w.getLsbD 31
  if 0x7F800000 < m then (if w.getLsbD 22 then 9 else 8)
  else if m = 0x7F800000 then (if neg then 0 else 7)
  else if m = 0 then (if neg then 3 else 4)
  else if m < 0x800000 then (if neg then 2 else 5)
  else if neg then 1 else 6

def execFclass (o : OpA) (s : State) := wordOp (.fclass o) o s fun a _ _ => BitVec.ofNat 32 (2 ^ classBit a)

/-! ### Integral values and integers (R158) -/

/-- FP32 rounded to an integral value; a zero result keeps the sign. -/
def roundIntegral (x : FVal) (mode : Rnd) : FVal := match x with
  | .fin neg m e =>
    let c := cutAt m e 0
    .fin neg (if c.up mode neg 0 then c.n + 1 else c.n) 0
  | y => y

def execFrnd (o : OpA) (s : State) := wordOp (.frnd o) o s fun a _ _ => toF32 (roundIntegral (f32 a) o.rnd) .rn

def execFtoi (o : OpA) (s : State) := wordOp (.ftoi o) o s fun a _ _ =>
  BitVec.ofNat 32 (convert (f32 a) (if o.isN32 then .n32 else .i32) o.rnd false 0)

def execItof (o : OpA) (s : State) := wordOp (.itof o) o s fun a _ _ => toF32 (ofInt (val o.isN32 a) 0) o.rnd

/-! ### Splitting and rebuilding (R159) -/

/-- FEXP. -/
def fexpOut (a : Word) : Int := match f32 a with
  | .fin _ m e => if m = 0 then -2 ^ 31 else (m.log2 : Int) + e
  | _ => 2 ^ 31 - 1

def execFexp (o : OpA) (s : State) := wordOp (.fexp o) o s fun a _ _ => wordOf (fexpOut a)

def execFmant (o : OpA) (s : State) := wordOp (.fmant o) o s fun a _ _ =>
  let x := f32 a
  toF32 (if x.isZero then x else x.scale (-fexpOut a)) .rn

def execLdexp (o : OpA) (s : State) := wordOp (.ldexp o) o s fun a b _ => toF32 ((f32 a).scale b.toInt) o.rnd

/-! ### Seeds and reductions (R160, R161) -/

def rcpSeed (a : Word) : Word := match f32 a with
  | .nan => 0x7FC00000
  | .inf neg => if neg then 0x80000000 else 0
  | .fin neg m e => if m = 0 then (if neg then 0xFF800000 else 0x7F800000) else toS12 (recip neg m e)

def rsqSeed (a : Word) : Word := match f32 a with
  | .nan => 0x7FC00000
  | .inf neg => if neg then 0x7FC00000 else 0
  | .fin neg m e =>
    if m = 0 then (if neg then 0xFF800000 else 0x7F800000) else if neg then 0x7FC00000 else toS12 (recipSqrt m e)

def lg2Seed (a : Word) : Word := match f32 a with
  | .nan => 0x7FC00000
  | .inf neg => if neg then 0x7FC00000 else 0x7F800000
  | .fin neg m e => if m = 0 then 0xFF800000 else if neg then 0x7FC00000 else toS12 (log2Of m e)

def ex2Seed (a : Word) : Word := match f32 a with
  | .nan => 0x7FC00000
  | .inf neg => if neg then 0 else 0x7F800000
  | .fin neg m e => toS12 (exp2Of neg m e)

def execRcpseed (o : OpA) (s : State) := wordOp (.rcpseed o) o s fun a _ _ => rcpSeed a
def execRsqseed (o : OpA) (s : State) := wordOp (.rsqseed o) o s fun a _ _ => rsqSeed a
def execLg2seed (o : OpA) (s : State) := wordOp (.lg2seed o) o s fun a _ _ => lg2Seed a
def execEx2seed (o : OpA) (s : State) := wordOp (.ex2seed o) o s fun a _ _ => ex2Seed a

/-- The reduced argument, rounded once (R161). -/
def reducedOut (c : Nat) (a : Word) : Word := match f32 a with
  | .fin neg m e => if m = 0 then a else toF32 (ofInt (reduce c neg m e).2 (-384)) .rn
  | _ => 0x7FC00000

def execRrpi (o : OpA) (s : State) := wordOp (.rrpi o) o s fun a _ _ =>
  if o.sub.getLsbD 0 then match f32 a with
    | .fin neg m e => wordOf ((reduce halfPi neg m e).1 % 4)
    | _ => 0
  else reducedOut halfPi a

def execRrln2 (o : OpA) (s : State) := wordOp (.rrln2 o) o s fun a _ _ =>
  if o.sub.getLsbD 0 then match f32 a with
    | .nan => 0
    | .inf neg => if neg then 0x80000000 else 0x7FFFFFFF
    | .fin neg m e => intOut false true (reduce ln2 neg m e).1
  else reducedOut ln2 a

/-! ### Slots and conversions (R151, R152, R162, R163) -/

/-- How an instruction converts: destination, rounding, saturation, and the dither's phase where it applies. -/
structure Conv where
  fmt : Fmt
  mode : Rnd
  sat : Bool
  dith : Option Nat
  deriving DecidableEq, Repr

/-- A slot's conversion (R150, R152): with STOCH = 2 .sr rounds as .rn. -/
def FSlot.conv (f : FSlot) : Conv :=
  { fmt := elemFmt f.elem
    mode := if f.rnd = 4 ∧ f.stoch = 2 then .rn else Rnd.ofCode f.rnd
    sat := f.sat, dith := if f.stoch = 1 then some f.phase else none }

/-- The bits of format slot `n` of a crew's launch (R150). -/
def State.slotRaw (s : State) (c : Crew) (n : Nat) : Nat := match s.launch? c.lid with
  | some l => slotBits l.record n
  | none => 0

/-- Format slot `n` of the issuing unit's launch (R150, R151). -/
def State.slot (s : State) (k : Issuer) (n : Nat) : FSlot := FSlot.ofBits (s.slotRaw k.c n)

/-- The named slot, valid and of an accepted ELEM (R151). -/
def State.slotOk (s : State) (k : Issuer) (n : Nat) (elems : List Nat) : Option FSlot :=
  let f := s.slot k n
  if f.valid ∧ elems.contains f.elem then some f else none

/-- How a format-A instruction converts; none when its slot fails (R152). -/
def State.convOf (s : State) (k : Issuer) (o : OpA) (dflt : Fmt) (elems : List Nat) : Option Conv :=
  if o.typ = .slot then (s.slotOk k o.subLo elems).map FSlot.conv
  else some { fmt := tyFmt dflt o.typ, mode := o.rnd, sat := o.sub.getLsbD 0, dith := none }

/-- One conversion of element `j` in lane `l`; `v` gives the exact value in every lane (R148). -/
def convElem (c : Conv) (o : OpA) (k : Issuer) (v : Nat → FVal) (l j : Nat) : Nat :=
  convert (v l) c.fmt c.mode c.sat (if c.mode = .sr then randomOf c.dith o.s k.p.exec v c.fmt l j else 0)

/-- The body of an instruction whose slot is checked first: cause 0x11 (order 8 of Table 04-16). -/
def withSlot {α : Type} (s : State) (x : Option α) (f : α → Res) : Res := match x with
  | some a => f a
  | none => .trap s { cause := 0x11 }

/-- The source format of CVT, SUB[5:3]. -/
def cvtSrc : Nat → Fmt
  | 0 => .f32 | 1 => .f16 | 2 => .bf16 | 3 => .e4m3 | 4 => .e5m2 | 5 => .e2m1 | _ => .i8

def execCvt (o : OpA) (s : State) := issue (.cvt o) s fun k =>
  withSlot s (s.convOf k o .f32 [1, 2, 3, 4, 5, 6, 7]) fun c =>
    let v (l : Nat) : FVal := (cvtSrc o.subHi).decode ((k.src o o.a l).toNat)
    .done (s.setGroup (k.put o fun l => BitVec.ofNat 32 (convElem c o k v l 0)))

def execPk (o : OpA) (s : State) := issue (.pk o) s fun k =>
  withSlot s (s.convOf k o .bf16 [2, 3, 4, 5, 6, 7, 8]) fun c =>
    let p := o.subHi
    if 32 / c.fmt.width ≤ 2 * p then .trap s { cause := 0x02 }
    else .done (s.setGroup (k.put o fun l =>
      let x := convElem c o k (fun m => f32 (k.src o o.a m)) l (2 * p)
      let y := convElem c o k (fun m => f32 (k.src o o.b m)) l (2 * p + 1)
      setElem c.fmt (setElem c.fmt (k.src o o.c l) (2 * p) x) (2 * p + 1) y))

/-- An element as FP32, or as a sign-extended integer for INT8 and INT4 (R163). -/
def unpacked (f : Fmt) (n : Nat) : Word := match f with
  | .i8 | .i4 => wordOf (sgn f.width n)
  | _ => toF32 (f.decode n) .rn

def execUnpk (o : OpA) (s : State) := issue (.unpk o) s fun k =>
  withSlot s (s.convOf k o .bf16 [2, 3, 4, 5, 6, 7, 8]) fun c =>
    if 32 / c.fmt.width ≤ o.subHi then .trap s { cause := 0x02 }
    else .done (s.setGroup (k.put o fun l => unpacked c.fmt (elemAt c.fmt (k.src o o.a l) o.subHi)))

/-! ### Packed arithmetic and dot products (R164, R165) -/

/-- The operation of R155 on elements 0 and 1 separately. -/
def packed2 (o : OpA) (f : FVal → FVal → FVal → FVal) (a b c : Word) : Word :=
  let t := tyFmt .f16 o.typ
  let e (k : Nat) : Nat :=
    convert (f (t.decode (elemAt t a k)) (t.decode (elemAt t b k)) (t.decode (elemAt t c k))) t o.rnd false 0
  BitVec.ofNat 32 (e 0 + 65536 * e 1)

def execHadd2 (o : OpA) (s : State) := wordOp (.hadd2 o) o s (packed2 o fun a b _ => a.add b o.rnd)
def execHmul2 (o : OpA) (s : State) := wordOp (.hmul2 o) o s (packed2 o fun a b _ => a.mul b)
def execHfma2 (o : OpA) (s : State) := wordOp (.hfma2 o) o s (packed2 o fun a b c => (a.mul b).add c o.rnd)

/-- A dot product of two packed registers and an accumulator (R165). -/
def dotOut (f : Fmt) (sat : Bool) (a b c : Word) : Word :=
  let ks := List.range (32 / f.width)
  match f.intRange with
  | some _ =>
    intOut false sat (c.toInt + (ks.map fun k => sgn f.width (elemAt f a k) * sgn f.width (elemAt f b k)).sum)
  | none => BitVec.ofNat 32 (sumRule (f32 c :: ks.map fun k => (f.decode (elemAt f a k)).mul (f.decode (elemAt f b k))))

/-- A dot product instruction. -/
def dotOp (i : Instr) (o : OpA) (s : State) (dflt : Fmt) (elems : List Nat) : Host.Outcome State Fault Refusal :=
  issue i s fun k => withSlot s (s.convOf k o dflt elems) fun c =>
    .done (s.setGroup (k.put o fun l => dotOut c.fmt c.sat (k.src o o.a l) (k.src o o.b l) (k.src o o.c l)))

def execDot4 (o : OpA) (s : State) := dotOp (.dot4 o) o s .e4m3 [4, 5, 7]
def execDot8 (o : OpA) (s : State) := dotOp (.dot8 o) o s .e2m1 [6, 8]
def execDots (o : OpA) (s : State) := dotOp (.dots o) o s .bf16 [2, 3]

/-! ### Scales and quantisation (R144, R166) -/

/-- A value times an E8M0 scale, the canonical NaN for 0xFF. -/
def scaledBy (x : FVal) (b : Nat) : FVal := if b = 255 then .nan else x.scale ((b : Int) - 127)

def execScale (o : OpA) (s : State) := wordOp (.scale o) o s fun a b _ =>
  toF32 (scaledBy (f32 a) (b.toNat / 256 ^ (o.subN / 8 % 4) % 256)) o.rnd

/-- The largest magnitude of a list of FP32 patterns, the canonical NaN where one is NaN. -/
def amax (l : List Word) : Word :=
  if l.any isNan32 then 0x7FC00000
  else BitVec.ofNat 32 ((l.map fun w => w.toNat % 2 ^ 31).foldl max 0)

def execAmaxb (o : OpA) (s : State) := issue (.amaxb o) s (regs s fun k => k.put o fun l =>
  if o.s then amax [k.src o o.a 0]
  else
    let w := 2 ^ o.subLo
    amax ((k.lanes.filter fun m => m / w == l / w).map fun m => k.src o o.a m))

/-- EMAX of an element format (R166). -/
def emaxOf : Fmt → Int
  | .e4m3 => 8 | .e5m2 => 15 | _ => 2

/-- QNT's value a × 2^−X for a block maximum `b`, a NaN where b is ±∞ or NaN (R166). -/
def qntVal (f : Fmt) (a b : Word) : FVal := match f32 b with
  | .fin _ m _ =>
    let x : Int := if m = 0 then -127 else max (-127) (min 127 (fexpOut b - emaxOf f))
    (f32 a).scale (-x)
  | _ => .nan

def execQnt (o : OpA) (s : State) := issue (.qnt o) s fun k =>
  withSlot s ((s.slotOk k o.subLo [4, 5, 6]).filter fun f => f.scale == 1) fun f =>
    let c := { f.conv with sat := true }
    if 32 / c.fmt.width ≤ o.subHi then .trap s { cause := 0x02 }
    else .done (s.setGroup (k.put o fun l =>
      setElem c.fmt (k.src o o.c l) o.subHi
        (convElem c o k (fun m => qntVal c.fmt (k.src o o.a m) (k.src o o.b m)) l o.subHi)))

end Sys2Proof.Machine
end

