-- ==== Sys2Proof/Machine/LoadStore.lean ====
section
/-! DEFINITION. Block 0x70: loads, stores and atomics (R168 to R185), prefetch and maintenance (R186, R187), bank modes
(R188 to R190) and FIFO slots (R191, R192). The checks are made at issue, each access at the operation's completion. -/

namespace Sys2Proof.Machine

/-! ### Addresses and checks (R169 to R172) -/

/-- The effective address of a lane (R169). -/
def Issuer.ea (k : Issuer) (o : OpM) (l : Nat) : DWord :=
  (if o.bs then k.s64 o.b else k.g.rdV64 o.b l) + BitVec.signExtend 64 o.off

/-- What an instruction of block 0x70 does at its locations. -/
inductive Acc1 where
  | load | store | red | atom
  deriving DecidableEq, Repr

/-- The access needs WR. -/
def Acc1.writes : Acc1 → Bool
  | .load => false
  | _ => true

/-- The access is a read-modify-write. -/
def Acc1.rmw : Acc1 → Bool
  | .red | .atom => true
  | _ => false

def Acc1.need (a : Acc1) : Need := if a.writes then .write else .read

/-- Where one lane's access goes: its place and, for memory, the leaf entry it was translated through. -/
structure Spot where
  lane : Nat
  va : Nat
  place : Place
  ent : Nat
  deriving DecidableEq, Repr

/-- A spot in memory: its physical address. -/
def Place.pa? : Place → Option Nat
  | .phys pa _ => some pa
  | .scratch _ => none

/-- The rules of a scratchpad access (R176, R183, R313). -/
def State.scratchSpot (s : State) (c : Crew) (kind : Acc1) (lane va a n : Nat) : Except Trap Spot :=
  let t : Trap := { cause := 0x06, lane, taddr := BitVec.ofNat 64 va }
  if !c.inScratch a n then .error t
  else if kind.writes ∧ s.hitsLive c a n then .error { t with cause := 0x08 }
  else .ok { lane, va, place := .scratch a, ent := 0 }

/-- The protection rules of a translated access beyond its leaf (R52, R184, R185, R403). -/
def State.protectedAt (s : State) (c : Crew) (kind : Acc1) (aop : Nat) (x : Xlate) : Bool :=
  let window := rangeOf x.pa != .device
  (kind == .atom && c.versioned)
    || (window && kind.rmw && !(aop == 0 || aop == 8 || aop == 9))
    || (window && kind == .atom && (s.replayLaunch c).isSome)
    || (kind == .store && c.versioned && x.nc)

/-- Stage 2 of R172 for one lane. `scr`: the address is a crew-relative byte (LDS, STS). DEDUCED (log 127): an atomic or TICKET of a
versioned unit in the scratchpad is made (R185, R213). -/
def State.spotOf (s : State) (c : Crew) (kind : Acc1) (aop n : Nat) (scr : Bool) (lane va : Nat) :
    Except Trap Spot × State :=
  if scr then (s.scratchSpot c kind lane va va n, s)
  else if kind.rmw ∧ va / 2 ^ 32 = 0xFFFFFFFF then (s.scratchSpot c kind lane va (va % 2 ^ 32) n, s)
  else
    let t (cause : Nat) : Trap := { cause, lane, taddr := BitVec.ofNat 64 va, write := kind.writes }
    match s.translate c.ctx va kind.need with
    | (.error e, s1) => (.error (t e), s1)
    | (.ok x, s1) =>
      if s.protectedAt c kind aop x then (.error (t 0x06), s1)
      else (.ok { lane, va, place := .phys x.pa x.nc, ent := x.ent }, s1)

/-- Stage 2 for every lane: the lanes that pass, the lowest failing lane's fault, and the walks' effects. -/
def State.spots (s : State) (c : Crew) (kind : Acc1) (aop n : Nat) (scr : Bool) :
    List (Nat × Nat) → List Spot × Option Trap × State
  | [] => ([], none, s)
  | (l, va) :: ls => match s.spotOf c kind aop n scr l va with
    | (r, s1) => match s1.spots c kind aop n scr ls with
      | (sp, t, s2) => match r with
        | .ok x => (x :: sp, t, s2)
        | .error e => (sp, some e, s2)

/-- The first lane whose location lies in a poisoned sector. -/
def State.poisonedSpot (s : State) (c : Crew) (n : Nat) (sp : List Spot) : Option Spot :=
  sp.find? fun x => s.placePoisoned c n x.place

/-- The first write, of `n` held bytes, that the snapshot or the hold region of a REPLAYABLE launch has no room for (R402, R403). -/
def State.overRegion (s : State) (c : Crew) (n : Nat) (pas : List Nat) : List Spot → Option Spot
  | [] => none
  | x :: l => match x.place with
    | .scratch _ => s.overRegion c n pas l
    | .phys pa _ =>
      let all := pas ++ [pa]
      if s.snapFits c all ∧ s.holdFits c (n * (all.filter fun a => rangeOf a != .device).length) then s.overRegion c n all l
      else some x

/-- Every check of an access (R172), and what passing them does before the access is made: DIRTY bits (R35) and
snapshots (R402). -/
def State.checkAccess (s : State) (c : Crew) (kind : Acc1) (aop n : Nat) (scr : Bool) (eas : List (Nat × Nat)) :
    Except Trap (List Spot) × State :=
  match eas.find? fun e => decide (e.2 % n ≠ 0) with
  | some e => (.error { cause := 0x04, lane := e.1, taddr := BitVec.ofNat 64 e.2 }, s)
  | none => match s.spots c kind aop n scr eas with
    | (sp, t, s1) =>
      let bad (x : Spot) (cause : Nat) : Trap := { cause, lane := x.lane, taddr := BitVec.ofNat 64 x.va }
      let eats := if (kind = .load ∧ (!scr ∨ t.isNone)) ∨ (kind.rmw ∧ t.isNone ∧ !(kind == .red && c.versioned)) then
          s1.poisonedSpot c n sp
        else none
      match eats, t with
      | some x, _ => (.error { bad x 0x07 with inside := x.place.inside }, s1)
      | none, some e => (.error e, s1)
      | none, none =>
        if !kind.writes then (.ok sp, s1)
        else match s1.overRegion c (if kind = .red ∧ aop = 9 then 2 * n else n) [] sp with
          | some x => (.error (bad x 0x17), s1)
          | none =>
            let mem := sp.filter fun x => x.place.pa?.isSome
            let s2 := mem.foldl (fun s x => s.setDirty x.ent) s1
            (.ok sp, s2.snapshot c (mem.filterMap fun x => x.place.pa?))

/-! ### Operands -/

/-- The number that `r` registers from `d` hold in a lane, lowest word first. -/
def Group.rdN (g : Group) (d r lane : Nat) : Nat :=
  (List.range r).foldl (fun n i => n + (g.rdV (d + i) lane).toNat * 2 ^ (32 * i)) 0

/-- The words of a loaded value (Table 07-2). -/
def loadWords (wt v : Nat) : List Word := match wt with
  | 1 => [BitVec.signExtend 32 (BitVec.ofNat 8 v)]
  | 3 => [BitVec.signExtend 32 (BitVec.ofNat 16 v)]
  | _ => (List.range (wtRegs wt)).map fun i => BitVec.ofNat 32 (v / 2 ^ (32 * i))

/-- One lane's access with its operands: the store data, or an atomic's operand and compare value (R178). -/
def Issuer.access (k : Issuer) (o : OpM) (cas : Bool) (x : Spot) : LaneAcc :=
  let r := wtRegs o.wt
  { lane := x.lane, va := x.va, place := x.place
    data := k.g.rdN (if cas then o.d + r else o.d) r x.lane % 256 ^ wtBytes o.wt
    cmp := if cas then k.g.rdN o.d r x.lane else 0, ent := x.ent }

/-- The effective addresses of the active lanes. -/
def Issuer.eas (k : Issuer) (o : OpM) : List (Nat × Nat) := k.lanes.map fun l => (l, (k.ea o l).toNat)

/-- A write that is not made when it issues: it joins the version or the hold region (R55, R185, R403). -/
def State.heldAccess (s : State) (c : Crew) (kind : Acc1) (a : LaneAcc) : Bool := match a.place with
  | .scratch _ => false
  | .phys pa _ =>
    (rangeOf pa != .device && (c.versioned || (s.replayLaunch c).isSome)) || (kind == .red && c.versioned)

/-- The held write of a lane (R185, R403): a store's bytes, or the operands of a RED. -/
def LaneAcc.held (a : LaneAcc) (n : Nat) (aop : Option Nat) (pa : Nat) : HeldWrite :=
  { pa, va := a.va, aop
    bytes := if aop = some 9 then toBytes n a.cmp ++ toBytes n a.data else toBytes n a.data
    ent := some a.ent }

/-- One held write is put away, in the order of issue. -/
def State.holdWrite (s : State) (c : Crew) (h : HeldWrite) : State :=
  if c.versioned then match s.version? c.cid with
    | some v => s.setVersion { v with held := v.held ++ [h] }
    | none => s
  else match s.replayLaunch c with
    | some l => s.setLaunch { l with held := l.held ++ [h] }
    | none => s

/-- A RED of a versioned unit on device memory is recorded with its version (R185). -/
def State.recordRed (s : State) (c : Crew) (wt aop prime : Nat) (acc : List LaneAcc) : State :=
  match s.version? c.cid with
  | some v => if acc.isEmpty then s else s.setVersion { v with reds := v.reds ++ [{ wt, aop, prime, acc }] }
  | none => s

/-- The held accesses of an instruction are put away; those that are still to be made remain. -/
def State.putAway (s : State) (c : Crew) (kind : Acc1) (wt aop prime : Nat) (acc : List LaneAcc) :
    State × List LaneAcc :=
  let held := acc.filter fun a => s.heldAccess c kind a
  let dev (a : LaneAcc) : Bool := match a.place.pa? with
    | some pa => rangeOf pa == .device
    | none => false
  let s1 := s.recordRed c wt aop prime (held.filter dev)
  let n := wtBytes wt
  let s2 := (held.filter fun a => !dev a).foldl (fun s a => match a.place.pa? with
    | some pa => s.holdWrite c (a.held n (if kind.rmw then some aop else none) pa)
    | none => s) s1
  (s2, acc.filter fun a => !s.heldAccess c kind a)

/-! ### The instructions -/

/-- The prime that HPRIME selects (Table 09-1). -/
def primeOf (h : Nat) : Nat :=
  nth 2147483647 [2147483647, 2147483629, 2147483587, 2147483579, 2147483563, 2147483549, 2147483543, 2147483497] (h % 8)

/-- The prime of the issuing context (R220). -/
def State.prime (s : State) (k : Issuer) : Nat := primeOf (s.ctx k.ctx).hprime

/-- Every location of an operation can be accessed now (R45, R47); a write waits for DIRTY (R35). `home`: the access is made
at the home. -/
def State.accReady (s : State) (c : Crew) (acc : List LaneAcc) (write home : Bool) : Bool :=
  acc.all fun a => match a.place with
    | .scratch _ => true
    | .phys pa nc =>
      (!write || !s.dirtyPending a.ent)
        && if home then rangeOf pa != .device || s.dirReady (lineOf pa) (.wr none none [])
        else s.lineReady c pa nc write

/-- The reads that an LD still makes although a lane of it fails translation: those of the lanes that translate (R172). -/
def State.faultReads (s : State) (k : Issuer) (o : OpM) : List LaneAcc :=
  let n := wtBytes o.wt
  if (k.eas o).any fun e => decide (e.2 % n ≠ 0) then []
  else match s.spots k.c .load 0 n false (k.eas o) with
    | (sp, some _, _) => sp.map (k.access o false)
    | (_, none, _) => []

/-- Such reads are made: they fetch their lines, and their values reach no register. -/
def State.touchLanes (s : State) (c : Crew) (n cp : Nat) (acc : List LaneAcc) : State :=
  acc.foldl (fun s a => match a.place with
    | .phys pa nc => s.loadTouch c pa a.va nc cp (sectorsOf pa n)
    | .scratch _ => s) s

/-- The requests for snoop-filter entries that some accesses send (R49). -/
def State.askEntries (s : State) (c : Crew) (write : Bool) (acc : List LaneAcc) : State :=
  acc.foldl (fun s a => match a.place with
    | .phys pa nc => s.askEntry c pa nc write
    | .scratch _ => s) s

/-- LD (R172, R173). -/
def ldBody (o : OpM) (s : State) (k : Issuer) : Res :=
  let rs := s.faultReads k o
  if !s.accReady k.c rs false false then .wait (s.askEntries k.c false rs)
  else match s.checkAccess k.c .load 0 (wtBytes o.wt) false (k.eas o) with
    | (.error t, s1) => .trap (s1.touchLanes k.c (wtBytes o.wt) o.cp rs) t
    | (.ok sp, s1) =>
      s1.launchOp k (.ld o) (.load o.d o.wt (o.wt == 1 || o.wt == 3) (sp.map (k.access o false)) o.cp)

/-- LDS (R176): a failing lane leaves no lane's access made. -/
def ldsBody (o : OpM) (s : State) (k : Issuer) : Res :=
  match s.checkAccess k.c .load 0 (wtBytes o.wt) true (k.eas o) with
  | (.error t, s1) => .trap s1 t
  | (.ok sp, s1) =>
    s1.launchOp k (.lds o) (.load o.d o.wt (o.wt == 1 || o.wt == 3) (sp.map (k.access o false)) o.cp)

/-- ST and STS. -/
def storeBody (i : Instr) (o : OpM) (scr : Bool) (s : State) (k : Issuer) : Res :=
  if !s.flagRoom k.g.gid k.p then .wait s
  else match s.checkAccess k.c .store 0 (wtBytes o.wt) scr (k.eas o) with
    | (.error t, s1) => .trap s1 t
    | (.ok sp, s1) =>
      let (s2, acc) := s1.putAway k.c .store o.wt 0 0 (sp.map (k.access o false))
      s2.launchOp k i (.store o.wt acc o.cp)

/-- ATOM and RED (R178 to R185). -/
def atomBody (i : Instr) (o : OpM) (kind : Acc1) (s : State) (k : Issuer) : Res :=
  if !s.flagRoom k.g.gid k.p then .wait s
  else match s.checkAccess k.c kind o.aop (wtBytes o.wt) false (k.eas o) with
    | (.error t, s1) => .trap s1 t
    | (.ok sp, s1) =>
      let (s2, acc) := s1.putAway k.c kind o.wt o.aop (s.prime k) (sp.map (k.access o (o.aop == 9)))
      s2.launchOp k i (.atom (kind == .atom) o.d o.wt o.aop (s.prime k) acc)

def execLd (o : OpM) (s : State) := issue (.ld o) s (ldBody o s)
def execSt (o : OpM) (s : State) := issue (.st o) s (storeBody (.st o) o false s)
def execLds (o : OpM) (s : State) := issue (.lds o) s (ldsBody o s)
def execSts (o : OpM) (s : State) := issue (.sts o) s (storeBody (.sts o) o true s)
def execAtom (o : OpM) (s : State) := issue (.atom o) s (atomBody (.atom o) o .atom s)
def execRed (o : OpM) (s : State) := issue (.red o) s (atomBody (.red o) o .red s)

/-! ### What the accesses do at their completion -/

/-- A narrow-code sum (R182). -/
def hensAdd (p m d : Nat) : Nat :=
  let v := (m % 2 ^ 32 + m / 2 ^ 32 * p + d % 2 ^ 32 + d / 2 ^ 32 * p) % (p * p)
  v % p + v / p * 2 ^ 32

/-- One rounded sum of the floating atomics. -/
def floatSum (f : Fmt) (m d : Nat) : Nat := convert ((f.decode m).add (f.decode d) .rn) f .rn false 0

/-- The format of a packed pair (Table 07-5). -/
def pairFmt (aop : Nat) : Fmt := if aop = 11 then .bf16 else .f16

/-- A packed sum, each half on its own (R181). -/
def pairSum (f : Fmt) (m d : Nat) : Nat :=
  floatSum f (m % 2 ^ 16) (d % 2 ^ 16) + floatSum f (m / 2 ^ 16) (d / 2 ^ 16) * 2 ^ 16

/-- The new value of an atomic on `n` bytes (Table 07-5): old value `m`, operand `d`, compare value `c`. -/
def atomNew (aop n p m d c : Nat) : Nat :=
  let w := 8 * n
  match aop with
  | 0 => (m + d) % 2 ^ w
  | 1 => if sgn w m ≤ sgn w d then m else d
  | 2 => min m d
  | 3 => if sgn w m ≤ sgn w d then d else m
  | 4 => max m d
  | 5 => m &&& d
  | 6 => m ||| d
  | 7 => m ^^^ d
  | 8 => d
  | 9 => if m = c then d else m
  | 10 => floatSum .f32 m d
  | 11 => pairSum .bf16 m d
  | 12 => pairSum .f16 m d
  | _ => hensAdd p m d

/-- One lane's load. -/
def State.loadLane (s : State) (c : Crew) (n cp : Nat) (a : LaneAcc) : Nat × State := match a.place with
  | .scratch b => (s.rdScratch c b n, s)
  | .phys pa nc =>
    let s1 := s.loadTouch c pa a.va nc cp (sectorsOf pa n)
    (s1.unitLoad c pa n nc, s1)

/-- Every lane's load, with the lane that each value belongs to. -/
def State.loadLanes (s : State) (c : Crew) (n cp : Nat) : List LaneAcc → List (Nat × Nat) × State
  | [] => ([], s)
  | a :: l => match s.loadLane c n cp a with
    | (v, s1) => match s1.loadLanes c n cp l with
      | (vs, s2) => ((a.lane, v) :: vs, s2)

/-- One lane's store. -/
def State.storeLane (s : State) (c : Crew) (n cp : Nat) (a : LaneAcc) : State := match a.place with
  | .scratch b => s.wrScratch c b (toBytes n a.data)
  | .phys pa nc => s.unitStore c pa a.va nc (toBytes n a.data) (cp != 2)

/-- One lane's atomic: the value it found (R179, R180, R183, R184). -/
def State.atomLane (s : State) (c : Crew) (n aop p : Nat) (a : LaneAcc) : Nat × State := match a.place with
  | .scratch b =>
    let m := s.rdScratch c b n
    (m, s.wrScratch c b (toBytes n (atomNew aop n p m a.data a.cmp)))
  | .phys pa _ =>
    let m := s.rdN pa n
    let new := toBytes n (atomNew aop n p m a.data a.cmp)
    (m, if rangeOf pa = .device then s.homeStore c pa a.va new else s.wrBytes pa new)

/-- Every lane's atomic, in ascending lane order (R179). -/
def State.atomLanes (s : State) (c : Crew) (n aop p : Nat) : List LaneAcc → List (Nat × Nat) × State
  | [] => ([], s)
  | a :: l => match s.atomLane c n aop p a with
    | (m, s1) => match s1.atomLanes c n aop p l with
      | (ms, s2) => ((a.lane, m) :: ms, s2)

/-- Values are written to the registers from `d` of their lanes. -/
def State.wrLoaded (s : State) (gid d wt : Nat) (vs : List (Nat × Nat)) : State :=
  match s.group? gid with
  | none => s
  | some g => s.setGroup (vs.foldl (fun g e => g.wrVs d e.1 (loadWords wt e.2)) g)

/-- Some lane of a read would consume an uncorrectable error. -/
def State.accPoisoned (s : State) (c : Crew) (n : Nat) (acc : List LaneAcc) : Option LaneAcc :=
  acc.find? fun a => s.placePoisoned c n a.place

/-- An uncorrectable error met at completion (Table 16-2): the split owes cause 0x07. -/
def State.oweError (s : State) (o : Op) (a : LaneAcc) : State :=
  s.completionTrap o.gid o.split
    { cause := 0x07, lane := a.lane, taddr := BitVec.ofNat 64 a.va, opc := o.opc, inside := a.place.inside }

/-- A load completes; none while a location must wait. -/
def State.loadDone (s : State) (o : Op) (c : Crew) (d wt : Nat) (acc : List LaneAcc) (cp : Nat) : Option State :=
  if !s.accReady c acc false false then none
  else match s.accPoisoned c (wtBytes wt) acc with
    | some a => some (s.oweError o a)
    | none =>
      let (vs, s1) := s.loadLanes c (wtBytes wt) cp acc
      some (s1.wrLoaded o.gid d wt vs)

/-- A store completes. -/
def State.storeDone (s : State) (c : Crew) (wt : Nat) (acc : List LaneAcc) (cp : Nat) : Option State :=
  if !s.accReady c acc true false then none
  else some (acc.foldl (fun s a => s.storeLane c (wtBytes wt) cp a) s)

/-- An atomic completes. -/
def State.atomDone (s : State) (o : Op) (c : Crew) (ret : Bool) (d wt aop p : Nat) (acc : List LaneAcc) :
    Option State :=
  if !s.accReady c acc true true then none
  else match s.accPoisoned c (wtBytes wt) acc with
    | some a => some (s.oweError o a)
    | none =>
      let (ms, s1) := s.atomLanes c (wtBytes wt) aop p acc
      some (if ret then s1.wrLoaded o.gid d wt ms else s1)

/-- A place `n` bytes on. -/
def Place.plus (n : Nat) : Place → Place
  | .phys pa nc => .phys (pa + n) nc
  | .scratch a => .scratch (a + n)

/-- One half of a lane's packed pair: a read-modify-write event of its own on 16 bits (R181). -/
def State.halfLane (s : State) (c : Crew) (aop half : Nat) (a : LaneAcc) : Nat × State :=
  let d := a.data / 2 ^ (16 * half) % 2 ^ 16
  match a.place.plus (2 * half) with
  | .scratch b =>
    let m := s.rdScratch c b 2
    (m, s.wrScratch c b (toBytes 2 (floatSum (pairFmt aop) m d)))
  | .phys pa _ =>
    let m := s.rdN pa 2
    let new := toBytes 2 (floatSum (pairFmt aop) m d)
    (m, if rangeOf pa = .device then s.homeStore c pa (a.va + 2 * half) new else s.wrBytes pa new)

/-- One half of every lane's pair, in ascending lane order (R179, R181). -/
def State.halfLanes (s : State) (c : Crew) (aop half : Nat) : List LaneAcc → List (Nat × Nat) × State
  | [] => ([], s)
  | a :: l => match s.halfLane c aop half a with
    | (m, s1) => match s1.halfLanes c aop half l with
      | (ms, s2) => ((a.lane, m) :: ms, s2)

/-- The first half of a packed pair is performed (R181); which one is not laid down (log 96). Other events may fall between
it and the second. -/
def State.pairFirst (s : State) (o : Op) (c : Crew) (ret : Bool) (d aop : Nat) (acc : List LaneAcc) : Option State :=
  if !s.accReady c acc true true then none
  else match s.accPoisoned c 4 acc with
    | some a => some ((s.oweError o a).finishOp o)
    | none =>
      let half := Config.halfFirst s.tick % 2
      let (ms, s1) := s.halfLanes c aop half acc
      some (s1.setOp { o with kind := .pair ret d aop (1 - half) acc ms })

/-- The second half completes the operation: each lane's result joins the halves' own old values. -/
def State.pairDone (s : State) (o : Op) (c : Crew) (ret : Bool) (d aop half : Nat) (acc : List LaneAcc)
    (got : List (Nat × Nat)) : Option State :=
  if !s.accReady c acc true true then none
  else match s.accPoisoned c 4 acc with
    | some a => some (s.oweError o a)
    | none =>
      let (ms, s1) := s.halfLanes c aop half acc
      let join (a b : Nat) : Nat := if half = 1 then a + b * 2 ^ 16 else b + a * 2 ^ 16
      some (if ret then s1.wrLoaded o.gid d 4 (List.zipWith (fun x y => (x.1, join x.2 y.2)) got ms) else s1)

/-! ### Prefetch and maintenance (R186, R187) -/

/-- The lines that the active lanes name, each once, of those that translate, and the lowest lane's fault. -/
def State.lineSpots (s : State) (k : Issuer) (o : OpM) : List LaneAcc × Option Trap × State :=
  match s.spots k.c .load 0 1 false (k.eas o) with
  | (sp, t, s1) =>
    let dev := sp.filter fun x => match x.place.pa? with
      | some pa => rangeOf pa == .device
      | none => false
    let acc := dev.map fun x => ({ lane := x.lane, va := x.va, place := x.place, data := 0, cmp := 0 } : LaneAcc)
    let line (a : LaneAcc) : Nat := (a.place.pa?.map lineOf).getD 0
    let nc (a : LaneAcc) : Bool := a.place == .phys ((a.place.pa?).getD 0) true
    (acc.foldl (fun l a => if l.any fun b => line b == line a && nc b == nc a then l else l ++ [a]) [], t, s1)

def execPref (o : OpM) (s : State) := issue (.pref o) s fun k =>
  match s.lineSpots k o with
  | (acc, _, s1) => s1.launchOp k (.pref o) (.pref acc o.cp)

/-- CWB and CINV. -/
def maintBody (i : Instr) (o : OpM) (inv : Bool) (s : State) (k : Issuer) : Res :=
  match s.lineSpots k o with
  | (_, some t, s1) => .trap s1 t
  | (acc, none, s1) => s1.launchOp k i (.cwb inv acc)

def execCwb (o : OpM) (s : State) := issue (.cwb o) s (maintBody (.cwb o) o false s)
def execCinv (o : OpM) (s : State) := issue (.cinv o) s (maintBody (.cinv o) o true s)

/-- A prefetch is made for each line that its home can serve now; it is a request that orders nothing (R186). -/
def State.prefDone (s : State) (c : Crew) (acc : List LaneAcc) (cp : Nat) : State :=
  acc.foldl (fun s a => match a.place with
    | .phys pa nc => if s.lineReady c pa nc false then s.loadTouch c pa a.va nc cp (sectorsOf pa 1) else s
    | .scratch _ => s) s

/-- CWB or CINV on one line of a cluster (R53). -/
def State.maintLine (s : State) (c : Nat) (inv : Bool) (line : Nat) (nc : Bool) : State :=
  match (s.cluster c).holds line nc with
  | none => s
  | some l =>
    let s1 := s.writeBack l
    if inv then s1.dropLines c fun x => x.line == line && x.nc == nc
    else s1.setCluster c { s1.cluster c with
      cache := updWhere (fun x => x.line == line && x.nc == nc) (fun x => { x with dirty := 0 }) (s1.cluster c).cache }

def State.maintDone (s : State) (c : Crew) (inv : Bool) (acc : List LaneAcc) : Option State :=
  let named (a : LaneAcc) : Option (Nat × Bool) := match a.place with
    | .phys pa nc => some (lineOf pa, nc)
    | .scratch _ => none
  let ls := acc.filterMap named
  if ls.all fun e => match (s.cluster c.cluster).holds e.1 e.2 with
      | some l => s.canWriteBack l
      | none => true
  then some (ls.foldl (fun s e => s.maintLine c.cluster inv e.1 e.2) s) else none

/-! ### Bank modes (R188 to R190) -/

def bankModeOf (n : Nat) : BankMode := match n with
  | 0 => .cache | 1 => .scratch | 2 => .fifo | _ => .off

def Cluster.bank (cl : Cluster) (i : Nat) : Bank := nth Bank.reset cl.banks i

/-- Banks leave CACHE (R189): the dirty NC lines among their own are written back, and all of them are dropped. Evc follows,
where a slice drops its copy too, as an event of its own. -/
def State.emptyWays (s : State) (c : Nat) (out : List Nat) : State :=
  (((s.cluster c).cache.filter fun l => out.contains l.way).foldl (fun s l => s.writeBack l) s).dropLines c
    fun l => out.contains l.way

/-- A bank as it stands in a new mode (R189). -/
def Bank.enter (b : Bank) (m : BankMode) (auto : Bool) (ctx : Nat) : Bank :=
  { b with mode := m, auto, owner := if m = .fifo then some ctx else none, slots := [] }

/-- Banks of a cluster change mode together (R189): a bank that leaves CACHE is emptied, one that enters SCRATCH reads zero, and
the words of a bank that changes are not live (R313). -/
def State.switchBanks (s : State) (c : Nat) (which : List Nat) (m : BankMode) (auto : Bool) (ctx : Nat) : State :=
  let moved := which.filter fun i => ((s.cluster c).bank i).mode != m
  let s1 := s.emptyWays c (moved.filter fun i => ((s.cluster c).bank i).mode == .cache)
  let cl := s1.cluster c
  let hit (key : Nat) : Bool := moved.contains (key / 49152)
  let banks := moved.foldl (fun bs i => putAt bs i ((cl.bank i).enter m auto ctx)) cl.banks
  s1.setCluster c { cl with banks, scratch := NMap.drop hit cl.scratch
                            liveWords := cl.liveWords.filter fun w => !hit w
                            badWords := cl.badWords.filter fun w => !hit (8 * w) }

/-- The banks that a BANKCFG in progress on a cluster names. -/
def State.bankBusy (s : State) (c : Nat) : Option Word := (s.bankChange c).map (·.1)

/-- An FPUSH or FPOP is outstanding on a bank of a cluster. -/
def State.fifoBusy (s : State) (c bank : Nat) : Bool :=
  s.ops.any fun o => (match (s.group? o.gid).bind fun g => s.crew? g.cid with
      | some cr => cr.cluster == c
      | none => false) && match o.kind with
    | .fpush b _ _ _ => b == bank
    | .fpop b _ _ _ _ => b == bank
    | _ => false

/-- The checks of R188, in order. -/
def State.bankFault (s : State) (k : Issuer) (mask : Word) (m : BankMode) : Option Nat :=
  let cl := s.cluster k.cluster
  let named := (List.range 32).filter fun i => mask.getLsbD i
  let after := (List.range 32).filter fun i =>
    if mask.getLsbD i then m == .scratch else (cl.bank i).mode == .scratch
  if s.crews.any fun c => c.cluster == k.cluster && c.ctx != k.ctx && s.groups.any fun g => g.cid == c.cid && !g.retired then
    some 0x06
  else if named.any fun i => (cl.bank i).mode == .fifo && (cl.bank i).owner != some k.ctx then some 0x06
  else if after.length ≠ (cl.banksIn .scratch).length ∧
      s.crews.any (fun c => c.cluster == k.cluster && decide (0 < c.scratchSize)) then some 0x10
  else if named.any fun i => (cl.bank i).mode == .fifo && m != .fifo
      && ((cl.bank i).slots.any (fun e => e.2.full) || s.fifoBusy k.cluster i) then some 0x10
  else none

/-- BANKCFG (R188): taken one at a time on a cluster. -/
def execBankcfg (o : OpE) (s : State) := issue (.bankcfg o) s fun k =>
  if (s.bankBusy k.cluster).isSome then .wait s
  else match s.bankFault k (k.s o.a) (bankModeOf (o.bits 1 0)) with
    | some c => .trap s { cause := c }
    | none => s.launchOp k (.bankcfg o) (.bankcfg (k.s o.a) (o.bits 1 0))

/-- The banks change, once every dirty NC line of the cluster can be written back; a named AUTO bank loses its mark
(R190). -/
def State.bankcfgDone (s : State) (c : Crew) (mask : Word) (mode : Nat) : Option State :=
  if (s.cluster c.cluster).cache.all fun l => s.canWriteBack l then
    let named := (List.range 32).filter fun i => mask.getLsbD i
    let s1 := s.switchBanks c.cluster named (bankModeOf mode) false c.ctx
    let cl := s1.cluster c.cluster
    some (s1.setCluster c.cluster { cl with
      banks := named.foldl (fun bs i => putAt bs i { cl.bank i with auto := false }) cl.banks })
  else none

/-! ### FIFO slots (R191, R192) -/

/-- The checks of FPUSH and FPOP at issue. -/
def State.fifoFault (s : State) (k : Issuer) (bank : Nat) : Option Nat :=
  let b := (s.cluster k.cluster).bank bank
  if b.mode ≠ .fifo then some 0x10 else if b.owner ≠ some k.ctx then some 0x06 else none

/-- FPUSH and FPOP at issue: the slot and the phase of iteration i. With no active lane nothing is accessed and nothing
faults (R169). While a BANKCFG that names the bank is in progress, the word is held. -/
def fifoBody (i : Instr) (o : OpM) (kind : (bank slot phase : Nat) → OpKind) (s : State) (k : Issuer) : Res :=
  let bank := o.off.toNat % 32
  let n := (k.s64 o.b).toNat
  if k.p.exec = 0 then s.launchOp k i .done
  else if (match s.bankBusy k.cluster with
    | some m => m.getLsbD bank
    | none => false) then .wait s
  else match s.fifoFault k bank with
    | some c => .trap s { cause := c }
    | none => s.launchOp k i (kind bank (n % 128) (n / 128 % 2))

def execFpush (o : OpM) (s : State) := issue (.fpush o) s fun k =>
  fifoBody (.fpush o) o (fun b sl ph => .fpush b sl ph (k.lanes.map fun l => (l, k.g.rdV o.d l))) s k

def execFpop (o : OpM) (s : State) := issue (.fpop o) s fun k =>
  fifoBody (.fpop o) o (fun b sl ph => .fpop b sl ph o.d k.p.exec) s k

def Bank.slot (b : Bank) (i : Nat) : Slot := NMap.get Slot.empty b.slots i

/-- The condition of an FPUSH or FPOP on its slot holds. -/
def State.fifoMet (s : State) (c : Nat) (o : Op) : Bool := match o.kind with
  | .fpush b i ph _ => let x := ((s.cluster c).bank b).slot i; !x.full && x.ph.toNat == ph
  | .fpop b i ph _ _ => let x := ((s.cluster c).bank b).slot i; x.full && x.ph.toNat == ph
  | _ => false

/-- The bank and slot that an operation waits on. -/
def OpKind.slot? : OpKind → Option (Nat × Nat)
  | .fpush b i _ _ => some (b, i)
  | .fpop b i _ _ _ => some (b, i)
  | _ => none

/-- The cluster of an operation's crew. -/
def State.opCluster (s : State) (o : Op) : Option Nat := ((s.group? o.gid).bind fun g => s.crew? g.cid).map (·.cluster)

/-- It is its turn on the slot: its condition holds, and no instruction that reached the bank earlier could be served. -/
def State.fifoTurn (s : State) (c : Nat) (o : Op) : Bool :=
  s.fifoMet c o && !s.ops.any fun p =>
    decide (p.id < o.id) && s.opCluster p == some c && p.kind.slot? == o.kind.slot? && s.fifoMet c p

def State.setSlot (s : State) (c b i : Nat) (x : Slot) : State :=
  let cl := s.cluster c
  s.setCluster c { cl with
    banks := putAt cl.banks b { cl.bank b with slots := NMap.set Slot.empty (cl.bank b).slots i x } }

def State.fpushDone (s : State) (o : Op) (c b i : Nat) (data : List (Nat × Word)) : Option State :=
  if s.fifoTurn c o then
    let x := ((s.cluster c).bank b).slot i
    some (s.setSlot c b i { x with words := data.foldl (fun m e => NMap.set 0 m e.1 e.2) x.words, full := true })
  else none

def State.fpopDone (s : State) (o : Op) (c b i d : Nat) (lanes : Mask) : Option State :=
  if s.fifoTurn c o then
    let x := ((s.cluster c).bank b).slot i
    let s1 := s.setSlot c b i { x with full := false, ph := !x.ph }
    match s1.group? o.gid with
    | none => some s1
    | some g => some (s1.setGroup (g.wrLanes d (fun l => NMap.get 0 x.words l) (lanesOf lanes)))
  else none

end Sys2Proof.Machine
end

