-- ==== Sys2Proof/Machine/Sync.lean ====
section
/-! DEFINITION. Block 0x90: fences (R198, R199), the group barrier (R201), named barriers (R203 to R208), monitor-wait
(R210 to R212) and tickets (R213); and SWRITE (R139, R222, R378), whose write of HPRIME fences. -/

namespace Sys2Proof.Machine

/-! ### Fences (R198, R199) -/

/-- Some access of a list is to device memory or the scratchpad, which every scope waits for (Table 08-3). -/
def accInside (acc : List LaneAcc) : Bool := acc.any fun a => match a.place with
  | .phys pa _ => rangeOf pa == .device
  | .scratch _ => true

/-- The command of a core's matrix engine that an operation stands for. -/
def State.matrixCmd (s : State) (core op : Nat) : Option MCmd := (s.core core).mq.find? fun c => c.op == op

/-- The tile command that an operation stands for. -/
def State.tileCmd (s : State) (op : Nat) : Option TCmd :=
  s.tiles.findSome? fun e => e.2.cmds.find? fun c => c.op == op

/-- The lowest scope of a FENCE that waits for these accesses (Table 08-3): every scope for an access inside the device, .fab
for the others. -/
def accFence (acc : List LaneAcc) : Nat := if accInside acc then 0 else 5

/-- The operation makes a memory event and has not reached the point that Table 08-3 gives for a scope: a matrix or crossbar
command is accepted when it has no destination line left to take in K (R47, R198), and an update of the event home when every
die has applied it (R368). -/
def State.fenceHolds (s : State) (core scope : Nat) (o : Op) : Bool := match o.kind with
  | .load _ _ _ acc _ | .store _ acc _ | .atom _ _ _ _ _ acc | .pair _ _ _ _ acc _ => decide (accFence acc ≤ scope)
  | .ticket _ _ place _ _ => match place with
    | .phys pa _ => scope == 5 || rangeOf pa == .device
    | .scratch _ => true
  | .late _ _ _ f _ => decide (f ≤ scope)
  | .cwb .. | .fpush .. | .fpop .. | .copy _ | .sred _ | .update _ | .launch .. | .ctxsave .. | .ctxload _ => true
  | .matrix => match s.matrixCmd core o.id with
    | some m => !m.need.isEmpty
    | none => false
  | .tile => match s.tileCmd o.id with
    | some m => !m.need.isEmpty
    | none => false
  | _ => false

/-- The operation stands before a split's present instruction in its program order. -/
def Op.before (o : Op) (g n : Nat) : Bool := o.gid == g && (o.split == n || o.also.contains n)

/-- Every earlier memory event of a split has reached its point for a scope; `upTo`: operations issued from then on do not
count. -/
def State.fencePassed (s : State) (g : Group) (n scope upTo : Nat) : Bool :=
  s.ops.all fun o => !(o.before g.gid n && decide (o.id < upTo) && s.fenceHolds g.core scope o)

def execFence (o : OpE) (s : State) := issue (.fence o) s fun k =>
  if s.fencePassed k.g k.p.num (o.bits 2 0) s.nextId then .done s else .wait s

/-! ### The group barrier (R201) -/

def execGbar (o : OpE) (s : State) := issue (.gbar o) s fun k =>
  let sc := o.bits 2 0
  if s.fencePassed k.g k.p.num sc s.nextId then
    let others := k.g.splits.any fun p => p.hold == .gbar
    let g := { k.g.setSplit { k.p with hold := .gbar } with gbarScope := if others then min sc k.g.gbarScope else sc }
    .went ((s.setGroup g).gbarCheck k.g.gid)
  else .wait s

/-! ### Named barriers (R203 to R208) -/

def Bar.reset (size : Nat) : Bar := { phase := 0, scope := 1, arrived := 0, expect := size }

def Bar.next (b : Bar) : Bar := { b with arrived := 0, phase := (b.phase + 1) % 2 ^ 16 }

/-- A barrier as the save image holds it (Table 08-4). -/
def Bar.word (b : Bar) : DWord :=
  BitVec.ofNat 64 (b.phase % 2 ^ 16 * 2 ^ 48 + b.scope % 8 * 2 ^ 32 + b.arrived.toNat * 2 ^ 16 + b.expect % 32)

/-- The barrier that a word of the save image restores. -/
def Bar.ofWord (w : DWord) : Bar :=
  { phase := field w 63 48, scope := field w 34 32, arrived := BitVec.ofNat 16 (field w 31 16), expect := field w 4 0 }

/-- Groups that have arrived in the present phase. -/
def Bar.count (b : Bar) : Nat := ((List.range 16).filter fun i => b.arrived.getLsbD i).length

/-- A group arrives (R204). -/
def Bar.arrive (b : Bar) (gidx : Nat) : Bar :=
  let c := { b with arrived := b.arrived ||| BitVec.ofNat 16 (2 ^ gidx) }
  if b.expect ≤ c.count then c.next else c

def Crew.bar (c : Crew) (n : Nat) : Bar := nth (Bar.reset c.size) c.bars n
def Crew.setBar (c : Crew) (n : Nat) (b : Bar) : Crew := { c with bars := putAt c.bars n b }

/-- A name at or above the declared number (R22). -/
def Crew.noBar (c : Crew) (n : Nat) : Bool := decide (c.bars.length ≤ n)

def execNbarinit (o : OpE) (s : State) := issue (.nbarinit o) s fun k =>
  let n := o.bits 3 0 + 1
  if k.c.noBar o.d ∨ k.c.size < n then .trap s { cause := 0x01 }
  else .done (s.setCrew (k.c.setBar o.d { (k.c.bar o.d).next with expect := n, scope := o.bits 6 4 }))

/-- The group has not yet arrived in the present phase, and the split's earlier events have reached the point of the
barrier's scope (R200, R206). -/
def State.canArrive (s : State) (g : Group) (c : Crew) (n b upTo : Nat) : Bool :=
  !(c.bar b).arrived.getLsbD g.gidx && s.fencePassed g n (c.bar b).scope upTo

def execNbararr (o : OpE) (s : State) := issue (.nbararr o) s fun k =>
  if k.c.noBar o.d then .trap s { cause := 0x01 }
  else if s.canArrive k.g k.c k.p.num o.d s.nextId then
    let b := k.c.bar o.d
    let s1 := s.setCrew (k.c.setBar o.d (b.arrive k.g.gidx))
    .done (if o.bit 0 then s1.setGroup (k.g.wrS k.p.num o.a (BitVec.ofNat 32 b.phase)) else s1)
  else .wait s

/-- What NBARWAIT waits for: a phase other than sA's as its split reads it now; it is over at once where PHASE differs already
(R207). -/
def Issuer.nbarwaitKind (k : Issuer) (o : OpE) : OpKind :=
  let ph := (k.s o.a).toNat % 2 ^ 16
  if (k.c.bar o.d).phase ≠ ph then .done else .nbarwait o.d ph

def execNbarwait (o : OpE) (s : State) := issue (.nbarwait o) s fun k =>
  if k.c.noBar o.d then .trap s { cause := 0x01 } else s.launchOp k (.nbarwait o) (k.nbarwaitKind o)

def execNbarsync (o : OpE) (s : State) := issue (.nbarsync o) s fun k =>
  if k.c.noBar o.d then .trap s { cause := 0x01 }
  else if s.flagRoom k.g.gid k.p ∧ s.canArrive k.g k.c k.p.num o.d s.nextId then
    (s.setCrew (k.c.setBar o.d ((k.c.bar o.d).arrive k.g.gidx))).launchOp k (.nbarsync o)
      (.nbarsync o.d (some (k.c.bar o.d).phase))
  else s.launchOp k (.nbarsync o) (.nbarsync o.d none)

/-- The held arrival of an NBARSYNC is made (R206, R208). -/
def State.nbarArrive (s : State) (o : Op) (g : Group) (c : Crew) (b : Nat) : Option State :=
  if s.canArrive g c o.split b o.id then
    some ((s.setCrew (c.setBar b ((c.bar b).arrive g.gidx))).setOp
      { o with kind := .nbarsync b (some (c.bar b).phase) })
  else none

/-! ### Monitor-wait (R210 to R212) -/

/-- MWATCH: the address, and the lane a fault names; none where there is no active lane (R210). -/
def Issuer.watchAt (k : Issuer) (o : OpM) : Option (Nat × Nat) :=
  match k.lanes with
  | l :: _ => some (l, (k.ea o l).toNat)
  | [] => if o.bs then some (0xFF, (k.ea o 0).toNat) else none

def execMwatch (o : OpM) (s : State) := issue (.mwatch o) s fun k =>
  match k.watchAt o with
  | none => .done s
  | some (l, va) =>
    let t (cause : Nat) : Trap := { cause, lane := l, taddr := BitVec.ofNat 64 va }
    match s.translate k.ctx va .read with
    | (.error e, s1) => .trap s1 (t e)
    | (.ok x, s1) =>
      if rangeOf x.pa ≠ .device ∨ x.nc then .trap s1 (t 0x06)
      else
        let sl := sliceOfCluster k.cluster
        let line := lineOf x.pa
        let s2 := if s1.sliceHolds sl line then s1 else s1.request line (.rds sl)
        let w : Watch := { slice := sl, line, trig := false }
        match s2.group? k.g.gid with
        | none => .done s2
        | some g => match g.split? k.p.num with
          | none => .done s2
          | some p => .done ((s2.setGroup (g.setSplit { p with watch := some w })).wakeMwaits k.g.gid p)

/-- MWAIT (R211): it completes at once, its watch disarmed, or sleeps. -/
def execMwait (o : OpE) (s : State) := issue (.mwait o) s fun k =>
  if !s.flagRoom k.g.gid k.p then .wait s
  else if k.p.watchOver then
    State.launchOp (s.setGroup (k.g.setSplit { k.p with watch := none })) k (.mwait o) .done
  else s.launchOp k (.mwait o) .mwait

/-- The watch of an operation's split: its MWAIT completes where it is triggered or there is none (R211). Where an MWATCH has
replaced an untriggered watch while the MWAIT slept, it is the new watch that it waits for and disarms (log 104). -/
def State.watchMet (s : State) (o : Op) : Bool :=
  match (s.group? o.gid).bind fun g => g.split? o.split with
  | some p => p.watchOver
  | none => true

/-- The watch is disarmed. -/
def State.disarm (s : State) (o : Op) : State :=
  match s.group? o.gid with
  | none => s
  | some g => match g.split? o.split with
    | none => s
    | some p => s.setGroup (g.setSplit { p with watch := none })

/-- WATCH_TRIGGER (R211): a watched line is written or invalidated, or the slice drops its copy for capacity (row 4). -/
def execWatchTrigger (slice line : Nat) (s : State) : Host.Outcome State Fault Refusal :=
  .next (s.trigger (fun sl => sl == slice) line)

/-- SPURIOUS_WAKE (R30): an MWAIT returns with no write behind it: its split's watch is triggered. -/
def execSpuriousWake (g n : Nat) (s : State) : Host.Outcome State Fault Refusal :=
  .next (match s.group? g with
    | none => s
    | some x => match x.split? n with
      | none => s
      | some p => match p.watch with
        | some w => s.setGroup (x.setSplit { p with watch := some { w with trig := true } })
        | none => s)

/-! ### Tickets (R213) -/

/-- TICKET is checked as an atomic that the windows do not take, here .min (R172, R184, R213). -/
def execTicket (o : OpM) (s : State) := issue (.ticket o) s fun k =>
  match k.lanes with
  | [] => s.launchOp k (.ticket o) .done
  | l :: _ =>
    let va := (k.ea o l).toNat
    if !s.flagRoom k.g.gid k.p then .wait s
    else match s.checkAccess k.c .atom 1 8 false [(l, va)] with
      | (.error t, s1) => .trap s1 t
      | (.ok sp, s1) => match sp with
        | x :: _ => s1.launchOp k (.ticket o) (.ticket o.d va x.place k.p.exec x.ent)
        | [] => .done s1

/-- The draw: each lane's number, and the counter past them (R213). -/
def State.ticketDone (s : State) (o : Op) (c : Crew) (d va : Nat) (place : Place) (lanes : Mask) (ent : Nat) :
    Option State :=
  let ls := lanesOf lanes
  let a : LaneAcc := { lane := ls.headD 0xFF, va, place, data := ls.length, cmp := 0, ent }
  if !s.accReady c [a] true true then none
  else match s.accPoisoned c 8 [a] with
    | some x => some (s.oweError o x)
    | none =>
      let (m, s1) := s.atomLane c 8 0 0 a
      some (s1.wrLoaded o.gid d 5 (ls.mapIdx fun i l => (l, (m + i) % 2 ^ 64)))

/-! ### SWRITE (R139, R221, R222, R378) -/

/-- The trap registers as an SWRITE of number `n` leaves them (Tables 16-3 and 16-4). -/
def TrapRegs.put (t : TrapRegs) (n : Nat) (w : Word) : TrapRegs := match n with
  | 0x31 => { t with tepc := hi32 t.tepc ++ (w &&& 0xFFFFFFF8) }
  | 0x32 => { t with tepc := w ++ lo32 t.tepc }
  | 0x35 => { t with tinfo := t.tinfo &&& 0xFFFFFFF0 ||| (w &&& 0xF) }
  | 0x36 => { t with texec := Mask.setWord t.texec 0 w }
  | 0x37 => { t with texec := Mask.setWord t.texec 1 w }
  | 0x38 => { t with texec := Mask.setWord t.texec 2 w }
  | 0x39 => { t with trep := w &&& 0x1FFFF }
  | _ => t

/-- SWRITE: SOFT0, HPRIME and HSTAT.RANGE take a write, the writable trap registers only in handler mode; a write of a
read-only register is ignored. -/
def execSwrite (o : OpA) (s : State) := issue (.swrite o) s fun k =>
  let w := k.con o
  match o.subN with
  | 0x17 => .done (s.setGroup { k.g with soft0 := w })
  | 0x20 =>
    if s.fencePassed k.g k.p.num 4 s.nextId then
      .done (s.setCtx k.ctx { s.ctx k.ctx with hprime := w.toNat % 8 })
    else .wait s
  | 0x21 => .done (s.setGroup { k.g with hstat := k.g.hstat &&& ~~~(w &&& 1) })
  | n =>
    if k.p.hmode then .done (s.setGroup (k.g.setSplit { k.p with trap := k.p.trap.put n w })) else .done s

end Sys2Proof.Machine
end

