-- ==== Sys2Proof/Machine/Engine.lean ====
section
/-! DEFINITION. What the engines' commands share: address ranges (R172, R183), age keys and taking lines in K (R47, R51),
reading and writing memory, and the energy budget (R248, R249). -/

namespace Sys2Proof.Machine

/-! ### Ranges -/

/-- What an engine does with a range. -/
inductive EngUse where
  | src | dst
  deriving DecidableEq, Repr

/-- Which places an engine's range may lie in. -/
structure EngRule where
  /-- A page of the host or fabric window is allowed. -/
  window : Bool := false
  /-- An NC page is allowed. -/
  nc : Bool := false
  deriving DecidableEq, Repr

/-- Translation of the bytes from `va`, page by page (R172): the runs, and the DIRTY bits that a destination sets. `fuel`
is the number of pages at most. -/
def State.rangeAt (s : State) (ctx : Nat) (use : EngUse) (r : EngRule) :
    Nat → Nat → Nat → Except Trap (List (Seg × Nat)) × State
  | 0, _, _ => (.ok [], s)
  | fuel + 1, va, len =>
    if len = 0 then (.ok [], s)
    else
      let n := min len (24576 - va % 24576)
      let t (c : Nat) : Trap := { cause := c, taddr := BitVec.ofNat 64 va, write := use == .dst }
      match s.translate ctx va (if use = .dst then .write else .read) with
      | (.error e, s1) => (.error (t e), s1)
      | (.ok x, s1) =>
        if (rangeOf x.pa ≠ .device ∧ !r.window) ∨ (x.nc ∧ !r.nc) then (.error (t 0x06), s1)
        else match s1.rangeAt ctx use r fuel ((va + n) % 2 ^ 64) (len - n) with
          | (.error e, s2) => (.error e, s2)
          | (.ok l, s2) => (.ok (({ va, place := .phys x.pa x.nc, len := n, ent := x.ent }, x.ent) :: l), s2)

/-- The scratchpad window of R183. -/
def inWindow (va : Nat) : Bool := va / 2 ^ 32 == 0xFFFFFFFF

/-- The runs of `len` bytes from `va`: in the crew's scratchpad under the window of R183, where it is allowed, else in
memory. -/
def State.range (s : State) (c : Crew) (use : EngUse) (r : EngRule) (scratch : Bool) (va len : Nat) :
    Except Trap (List (Seg × Nat)) × State :=
  if inWindow va then
    let a := va % 2 ^ 32
    let t (n : Nat) : Trap := { cause := n, taddr := BitVec.ofNat 64 va }
    if !scratch ∨ !c.inScratch a len then (.error (t 0x06), s)
    else (.ok [({ va, place := .scratch a, len }, 0)], s)
  else s.rangeAt c.ctx use r (len / 24576 + 2) va len

/-- Several ranges one after another. -/
def State.ranges (s : State) (c : Crew) (use : EngUse) (r : EngRule) (scratch : Bool) :
    List (Nat × Nat) → Except Trap (List (Seg × Nat)) × State
  | [] => (.ok [], s)
  | (va, len) :: l => match s.range c use r scratch va len with
    | (.error t, s1) => (.error t, s1)
    | (.ok a, s1) => match s1.ranges c use r scratch l with
      | (.error t, s2) => (.error t, s2)
      | (.ok b, s2) => (.ok (a ++ b), s2)

/-- The physical addresses of a run's first and last byte in memory. -/
def Seg.pas (g : Seg) : List Nat := match g.place with
  | .phys pa _ => if g.len = 0 then [] else [pa, pa + g.len - 1]
  | .scratch _ => []

/-- The lines an engine takes in K, in ascending order: those of its coherent destinations, unless its unit is versioned
(R47, R48, R52). -/
def kLines (c : Crew) (dst : List Seg) : List Nat :=
  if c.versioned then [] else sortAsc (dst.flatMap Seg.lines)

/-- The bytes of the windows that runs hold, each counted once. -/
def windowBytes (l : List Seg) : Nat :=
  (dedupe (l.flatMap fun g => match g.place with
    | .phys pa _ => if rangeOf pa = .device then [] else (List.range g.len).map fun i => pa + i
    | .scratch _ => [])).length

/-- The snapshot and hold regions of a REPLAYABLE launch have room for a destination (R402, R403). -/
def State.dstRoom (s : State) (c : Crew) (dst : List (Seg × Nat)) : Bool :=
  s.snapFits c (dst.flatMap fun d => d.1.pas) && s.holdFits c (windowBytes (dst.map (·.1)))

/-- The leaf entries of destinations in memory. -/
def dstEnts (dst : List Seg) : List Nat := dst.filterMap fun d => match d.place with
  | .phys .. => some d.ent
  | .scratch _ => none

/-- DIRTY is set in some leaves (R35). -/
def State.dirtyAll (s : State) (ents : List Nat) : State := ents.foldl (fun s e => s.setDirty e) s

/-- DIRTY stands in the leaves of these runs, as far as it was to be set. -/
def State.dirtyDone (s : State) (l : List Seg) : Bool := l.all fun g => match g.place with
  | .phys .. => !s.dirtyPending g.ent
  | .scratch _ => true

/-- A destination is admitted: its pages are snapshotted (R402). -/
def State.snapDst (s : State) (c : Crew) (dst : List (Seg × Nat)) : State := s.snapshot c (dst.flatMap fun d => d.1.pas)

/-- A destination that is written with no acceptance to wait for: DIRTY is set (R35) and its pages are snapshotted. -/
def State.markDst (s : State) (c : Crew) (dst : List (Seg × Nat)) : State := (s.dirtyAll (dstEnts (dst.map (·.1)))).snapDst c dst

/-! ### Reading and writing -/

/-- The bytes of a run, as an engine of the unit reads them (R47, R48). A read of a line that another engine holds in K takes
the line as it stands, as R47 and Table 02-5 lay down, although R59 orders every access but that engine's own after its
writes (log 97). -/
def State.segBytes (s : State) (c : Crew) (g : Seg) : List Byte := match g.place with
  | .phys pa _ => (List.range g.len).map fun i => s.unitByte c (pa + i)
  | .scratch a => (s.scratchKeys c a g.len).map fun k => NMap.get 0 (s.cluster c.cluster).scratch k

def State.segsBytes (s : State) (c : Crew) (l : List Seg) : List Byte := l.flatMap fun g => s.segBytes c g

/-- A run that an engine of a unit reads holds a poisoned sector or word (R307). -/
def State.segPoisoned (s : State) (c : Crew) (g : Seg) : Bool := 0 < g.len && s.placePoisoned c g.len g.place

/-- A device write that the directory does not act on, since the engine holds the lines or writes the home copy itself
(R47, R52): every watch on the lines is triggered (R211). -/
def State.homeWrite (s : State) (pa : Nat) (bs : List Byte) : State :=
  (List.range (lineOf (pa + bs.length - 1) - lineOf pa + 1)).foldl
    (fun s i => s.trigger (fun _ => true) (lineOf pa + i)) (s.wrBytes pa bs)

/-- An engine of a unit writes one run. -/
def State.segWrite (s : State) (c : Crew) (g : Seg) (bs : List Byte) : State := match g.place with
  | .scratch a => s.wrScratch c a bs
  | .phys pa _ => match rangeOf pa with
    | .device =>
      if c.versioned then
        (List.range (bs.length)).foldl (fun s i => s.versionWrite c.cid (pa + i) (g.va + i) [nth 0 bs i]) s
      else if bs.isEmpty then s
      else (s.markConflict c.lid (tileOf pa)).homeWrite pa bs
    | _ => s.unitStore c pa g.va false bs false

/-- An engine writes bytes to runs in order. -/
def State.segsWrite (s : State) (c : Crew) : List Seg → List Byte → State
  | [], _ => s
  | g :: l, bs => (s.segWrite c g (bs.take g.len)).segsWrite c l (bs.drop g.len)

/-- The lines of device memory that a run touches, NC ones among them. -/
def Seg.deviceLines (g : Seg) : List Nat := match g.place with
  | .phys pa _ =>
    if g.len = 0 ∨ rangeOf pa ≠ .device then []
    else (List.range (lineOf (pa + g.len - 1) - lineOf pa + 1)).map fun i => lineOf pa + i
  | .scratch _ => []

/-- The versioned unit's destination lines can enter V now (R48); a destination on an NC page goes to its version too. -/
def State.versionReady (s : State) (c : Crew) (dst : List Seg) : Bool :=
  !c.versioned || (dst.flatMap Seg.deviceLines).all fun l => s.dirReady l (.vwr c.cid 0)

/-- The VWrs of such a destination that must wait for snoop-filter entries stand at their homes (R49). -/
def State.askVersion (s : State) (c : Crew) (dst : List Seg) : State :=
  if c.versioned then (dst.flatMap Seg.deviceLines).foldl (fun s l => s.askEntry c (192 * l) false true) s else s

/-- A thread's read of runs on coherent pages can be made now (R45, R47, R59). -/
def State.readsNow (s : State) (c : Crew) (l : List Seg) : Bool :=
  (l.flatMap Seg.lines).all fun n => s.lineReady c (192 * n) false false

/-- Such a read that must wait asks for the snoop-filter entries of its lines (R49). -/
def State.askReads (s : State) (c : Crew) (l : List Seg) : State :=
  (l.flatMap Seg.lines).foldl (fun s n => s.askEntry c (192 * n) false false) s

/-- No command that the versioned unit has issued before command `id` to another engine is still to write a coherent line of the
destination of `id` (R59). -/
def State.dstFree (s : State) (c : Crew) (id : Nat) (engine : EngPlace) (dst : List Seg) : Bool :=
  (s.ownCmds c).all fun x =>
    decide (id ≤ x.id) || x.engine == engine || (dst.flatMap Seg.lines).all fun l => !x.lines.contains l

/-! ### Age keys and K (R47, R49, R51) -/

/-- An age key for a command issued on a die: the die's 48-bit count and the engine's place (R51). -/
def State.newAge (s : State) (die : Nat) (p : EngPlace) : Nat × State :=
  let d := s.die die
  (d.ageCount * 1024 + p.rank, s.setDie die { d with ageCount := (d.ageCount + 1) % 2 ^ 48 })

/-- An engine command as the homes see it. -/
structure KCmd where
  id : Nat
  age : Nat
  need : List Nat
  held : List Nat
  accepted : Bool
  deriving DecidableEq, Repr

/-- A queued matrix or crossbar command is accepted once it holds every line it needs. -/
def MCmd.k (c : MCmd) : KCmd := { id := c.op, age := c.age, need := c.need, held := c.held, accepted := c.need.isEmpty }
def TCmd.k (c : TCmd) : KCmd := { id := c.op, age := c.age, need := c.need, held := c.held, accepted := c.need.isEmpty }
def Copy.k (c : Copy) : KCmd := { id := c.id, age := c.ageKey, need := c.need, held := c.held, accepted := c.accepted }
def Sred.k (c : Sred) : KCmd := { id := c.id, age := c.ageKey, need := c.need, held := c.held, accepted := c.accepted }

/-- Every engine command in progress. -/
def State.kcmds (s : State) : List KCmd :=
  s.copies.map Copy.k ++ s.sreds.map Sred.k ++ s.cores.flatMap (fun e => e.2.mq.map MCmd.k)
    ++ s.tiles.flatMap fun e => e.2.cmds.map TCmd.k

def State.kcmd? (s : State) (id : Nat) : Option KCmd := s.kcmds.find? fun c => c.id == id

/-- A tile's commands with their lines replaced. -/
def Tile.setLines (t : Tile) (id : Nat) (need held : List Nat) : Tile :=
  let f (c : TCmd) : TCmd := if c.op = id then { c with need, held } else c
  { t with
    q := t.q.map f
    busy := match t.busy with
      | .idle => .idle
      | .run c w d => .run (f c) w d
      | .prog c d => .prog (f c) d
      | .cal c b p => .cal (f c) b p
      | .mvm c w => .mvm (f c) (w.map fun x => (f x.1, x.2)) }

/-- The lines of a command replaced. -/
def State.setLines (s : State) (id : Nat) (need held : List Nat) : State :=
  { s with
    copies := updWhere (fun c => c.id == id) (fun c => { c with need, held }) s.copies
    sreds := updWhere (fun c => c.id == id) (fun c => { c with need, held }) s.sreds
    cores := s.cores.map fun e =>
      (e.1, { e.2 with mq := updWhere (fun c => c.op == id) (fun c => { c with need, held }) e.2.mq })
    tiles := s.tiles.map fun e => (e.1, e.2.setLines id need held) }

/-- A command's lines are given up with EndK (R47). -/
def State.endLines (s : State) (id : Nat) (lines : List Nat) : State := lines.foldl (fun s l => s.endK l id) s

/-- The youngest of some commands. -/
def youngest (l : List KCmd) : Option KCmd :=
  l.foldl (fun b c => match b with
    | none => some c
    | some x => if x.age < c.age then some c else b) none

/-- GETK_TAKE_BACK (R51): a command not yet accepted gives up every line it holds, writing nothing, and will take its lines
again from its first. -/
def State.takeBack (s : State) (d : KCmd) : State :=
  (s.endLines d.id d.held).setLines d.id (sortAsc (d.held ++ d.need)) []

/-- The commands, not accepted, that a GetK for a line waits for (R51); none where it need not wait for such. -/
def State.kRivals (s : State) (line : Nat) : List KCmd :=
  let e := s.dirAt line
  if e.st = .k then (s.kcmds.filter fun c => c.id == e.engine && !c.accepted)
  else if e.st = .u then
    let set := s.snoopSet line
    let owner (x : DirEntry) : Option KCmd := if x.st = .k ∧ x.txn.isNone then s.kcmd? x.engine else none
    if set.length < 16 ∨ (snoopVictim set).isSome ∨ set.any (fun x => match owner x.2 with
        | some c => c.accepted
        | none => false) then []
    else set.filterMap fun x => owner x.2
  else []

/-- The line is freed where a younger command that is not accepted stands in the way. -/
def State.clearWay (s : State) (age line : Nat) : State :=
  match youngest ((s.kRivals line).filter fun d => decide (age < d.age)) with
  | some d => s.takeBack d
  | none => s

/-- The accumulators and the buffers that a matrix command names. -/
def MCmdKind.names : MCmdKind → List Nat × List Nat
  | .mma acc buf .. => ([acc], [buf])
  | .acq acc _ | .accrd acc .. | .accrdMem acc .. | .accwr acc .. | .accz acc => ([acc], [])
  | .mopld buf _ => ([], [buf])

/-- The commands that reached a matrix engine before `id`. -/
def before (id : Nat) : List MCmd → List MCmd
  | [] => []
  | c :: l => if c.op = id then [] else c :: before id l

/-- A matrix command's turn: no earlier command names one of its accumulators or buffers (R241). -/
def mTurn (mq : List MCmd) (c : MCmd) : Bool :=
  (before c.op mq).all fun d =>
    !(d.kind.names.1.any c.kind.names.1.contains || d.kind.names.2.any c.kind.names.2.contains)

/-- A command may take its lines: a queued matrix or crossbar command only once its turn has come. -/
def State.kTurn (s : State) (id : Nat) : Bool :=
  (s.cores.all fun e => e.2.mq.all fun c => c.op != id || mTurn e.2.mq c)
    && s.tiles.all fun e => match e.2.busy with
      | .idle => e.2.q.tail.all fun c => c.op != id
      | _ => e.2.q.all fun c => c.op != id

/-- The victim of a set with no other (R49): the entry held longest among those in K whose command has been accepted. -/
def State.kVictim (s : State) (line : Nat) : Option Nat :=
  (((s.snoopSet line).filter fun e => e.2.st == .k && e.2.txn.isNone && match s.kcmd? e.2.engine with
      | some c => c.accepted
      | none => false).foldl (fun b e => match b with
    | none => some e
    | some f => if e.2.since < f.2.since then some e else b) (none : Option (Nat × DirEntry))).map (·.1)

/-- A request that finds no entry: the victim in K is sent a Recall, which waits there for EndK (R49). -/
def State.recallK (s : State) (line : Nat) (r : DReq) : State :=
  if s.dirRoom line r then s
  else match s.kVictim line with
    | some v => if (s.dirAt v).queue.contains .recall then s else s.arrive v .recall
    | none => s

/-- GetK for a command's next line (R47, R51). -/
def State.takeK (s : State) (id : Nat) : State :=
  match s.kcmd? id with
  | none => s
  | some c => match if s.kTurn id then c.need else [] with
    | [] => s
    | line :: rest =>
      let s1 := s.clearWay c.age line
      if s1.dirReady line (.getk id) then (s1.dirWhole line (.getk id)).setLines id rest (c.held ++ [line])
      else s1.recallK line (.getk id)

/-- GETK: an engine takes its command's next destination line. -/
def execGetk (cmd : Nat) (s : State) : Host.Outcome State Fault Refusal := .next (s.takeK cmd)

/-! ### The energy budget (R248, R249) -/

def Context.cost (x : Context) (cls : Nat) : Nat := nth 0 x.ecost cls

/-- The order in which a split first stalled for energy. -/
def Split.stalledAt (p : Split) : Option Nat := match p.hold with
  | .energy n => some n
  | _ => none

/-- Some other split of the context on the cluster has stalled for energy before (R248). -/
def State.energyAhead (s : State) (k : Issuer) : Bool :=
  s.groups.any fun g => match s.crew? g.cid with
    | some c => c.ctx == k.ctx && c.cluster == k.cluster && g.splits.any fun p => match p.stalledAt with
      | some n => match k.p.stalledAt with
        | some m => decide (n < m)
        | none => true
      | none => false
    | none => false

/-- The command of a class may issue: the share after its debit; none while it stalls. One that costs nothing stalls for no
other, since it takes no units (R248). -/
def State.energyPay (s : State) (k : Issuer) (cls : Nat) : Option Share :=
  let e := s.share k.ctx k.cluster
  let cost := (s.ctx k.ctx).cost cls
  let cap := 256 * (s.shareNow k.ctx k.cluster).capk
  if s.energyAhead k ∧ cost ≠ 0 then none
  else if cost ≤ e.level then some { e with level := e.level - cost }
  else if cap < cost ∧ e.level = cap then some { e with level := 0 }
  else none

/-- What holds the issuing split is changed. -/
def State.setHold (s : State) (k : Issuer) (h : Hold) : State :=
  s.updGroup k.g.gid fun g => g.updSplit k.p.num fun p => { p with hold := h }

/-- The split stalls, or issues with its share debited and the stall over. -/
def State.energyIssue (s : State) (k : Issuer) (cls : Nat) (f : State → Res) : Res :=
  match s.energyPay k cls with
  | none =>
    .wait (if k.p.stalledAt.isSome then s
      else { s.setHold k (.energy s.nextId) with nextId := s.nextId + 1 })
  | some e => f ((s.setShare k.ctx k.cluster e).setHold k .none)

end Sys2Proof.Machine
end

