-- ==== Sys2Proof/Machine/Hensel.lean ====
section
/-! DEFINITION. Block 0xA0, the exact-rational unit: Hensel codes of the prime in force (R218 to R233). -/

namespace Sys2Proof.Machine

/-! ### Codes (R218, R219) -/

/-- The number whose base-p digits are given, lowest first; a digit weighs as the integer it holds. -/
def digitsVal (p : Nat) (ds : List Nat) : Nat := ds.foldr (fun d n => d + p * n) 0

/-- The k base-p digits of a number. -/
def digitsOf (p : Nat) : Nat → Nat → List Nat
  | 0, _ => []
  | k + 1, x => x % p :: digitsOf p k (x / p)

/-- CODE(x) as k words packed into one number. -/
def codeOf (p k : Nat) (x : Int) : Nat := digitsVal (2 ^ 32) (digitsOf p k (x % (p ^ k : Nat)).toNat)

/-- VALUE of the code in the registers from `r` of a lane. -/
def Issuer.value (i : Issuer) (p k r l : Nat) : Nat :=
  digitsVal p ((List.range k).map fun j => (i.g.rdV (r + j) l).toNat)

/-- One step of the extended Euclid on (remainders, coefficients). -/
def euclid (stop : Nat → Bool) : Nat → Nat → Nat → Int → Int → Nat × Int
  | 0, _, rc, _, tc => (rc, tc)
  | fuel + 1, rp, rc, tp, tc =>
    if stop rc then (rc, tc)
    else euclid stop fuel rc (rp % rc) tc (tp - (rp / rc : Nat) * tc)

/-- The inverse of `x` modulo `m`, for `x` coprime to `m` (R227). -/
def invMod (x m : Nat) : Int := (euclid (fun r => decide (r ≤ 1)) 256 m (x % m) 0 1).2

/-- HDEC's recovery of a rational from a code's value (R229): numerator, denominator, and whether they pass. -/
def recover (p k v : Nat) : Int × Nat × Bool :=
  let m := p ^ k
  let n := isqrt ((m - 1) / 2)
  let r := euclid (fun rc => decide (2 * rc * rc < m - 1)) 128 m (v % m) 0 1
  let a : Int := if 0 < r.2 then (r.1 : Int) else -(r.1 : Int)
  let b := r.2.natAbs
  (a, b, decide (b ≤ n) && decide (a.natAbs ≤ n) && decide (b % p ≠ 0))

/-- A number of k words, lowest first. -/
def wordsOf (k n : Nat) : List Word := (List.range k).map fun i => BitVec.ofNat 32 (n / 2 ^ (32 * i))

/-- Codes are written to the registers from D of the active lanes. -/
def Issuer.putCodes (i : Issuer) (d k : Nat) (f : Nat → Nat) : Group :=
  i.lanes.foldl (fun g l => g.wrVs d l (wordsOf k (f l))) i.g

/-- The register that a source field of a code names. -/
def codeReg : Src → Nat
  | .reg n => n
  | .code _ => 0

/-! ### Ring arithmetic (R225) -/

/-- The body of a ring operation on the values of A and B. -/
def ring (i : Instr) (o : OpA) (s : State) (f : Int → Int → Int) : Host.Outcome State Fault Refusal :=
  issue i s (regs s fun k =>
    let p := s.prime k
    k.putCodes o.d o.hw fun l => codeOf p o.hw (f (k.value p o.hw (codeReg o.a) l) (k.value p o.hw (codeReg o.b) l)))

def execHadd (o : OpA) (s : State) := ring (.hadd o) o s fun a b => a + b
def execHsub (o : OpA) (s : State) := ring (.hsub o) o s fun a b => a - b
def execHmul (o : OpA) (s : State) := ring (.hmul o) o s fun a b => a * b
def execHneg (o : OpA) (s : State) := ring (.hneg o) o s fun a _ => -a

/-! ### Encoding, inverse and division (R226, R227) -/

/-- HENC's numerator and denominator in a lane. -/
def Issuer.fraction (k : Issuer) (o : OpA) (l : Nat) : Int × Nat :=
  if o.hw = 2 then ((k.src o o.a l).toInt, (k.src o o.b l).toNat)
  else ((k.src64 o o.a l).toInt, (k.src64 o o.b l).toNat)

def execHenc (o : OpA) (s : State) := issue (.henc o) s fun k =>
  let p := s.prime k
  match k.lanes.find? fun l => decide ((k.fraction o l).2 % p = 0) with
  | some l => .trap s { cause := 0x0B, lane := l }
  | none => .done (s.setGroup (k.putCodes o.d o.hw fun l =>
      codeOf p o.hw ((k.fraction o l).1 * invMod (k.fraction o l).2 (p ^ o.hw))))

/-- HINV and HDIV: numerator `num`, divisor in the registers from `r`. -/
def divide (i : Instr) (o : OpA) (r : Nat) (num : Issuer → Nat → Nat → Int) (s : State) (k : Issuer) : Res :=
  let p := s.prime k
  match k.lanes.find? fun l => decide (k.value p o.hw r l % p = 0) with
  | some l => .trap s { cause := 0x0B, lane := l }
  | none => s.launchOp k i (.hres o.d o.hw k.p.exec (k.lanes.map fun l =>
      (l, codeOf p o.hw (num k p l * invMod (k.value p o.hw r l) (p ^ o.hw)))))

def execHinv (o : OpA) (s : State) := issue (.hinv o) s (divide (.hinv o) o (codeReg o.a) (fun _ _ _ => 1) s)

def execHdiv (o : OpA) (s : State) := issue (.hdiv o) s
  (divide (.hdiv o) o (codeReg o.b) (fun k p l => k.value p o.hw (codeReg o.a) l) s)

/-! ### Comparison, digits and canonical form (R228) -/

def execHeq (o : OpA) (s : State) := issue (.heq o) s (regs s fun k =>
  let p := s.prime k
  let m := p ^ o.hw
  k.g.wrLanes o.d (fun l =>
    if k.value p o.hw (codeReg o.a) l % m = k.value p o.hw (codeReg o.b) l % m then 1 else 0) k.lanes)

/-- Low-order zero digits. -/
def zeroDigits : List Nat → Nat
  | 0 :: l => zeroDigits l + 1
  | _ => 0

def execHdig (o : OpA) (s : State) := issue (.hdig o) s (regs s fun k =>
  let p := s.prime k
  let ds (l : Nat) : List Nat := digitsOf p o.hw (k.value p o.hw (codeReg o.a) l % p ^ o.hw)
  k.g.wrLanes o.d (fun l =>
    BitVec.ofNat 32 (if o.sub.getLsbD 3 then zeroDigits (ds l) else nth 0 (ds l) (o.subN / 2 % 4))) k.lanes)

def execHnorm (o : OpA) (s : State) := issue (.hnorm o) s (regs s fun k =>
  let p := s.prime k
  let w := if o.sub.getLsbD 1 then 2 else o.hw
  k.putCodes o.d w fun l => codeOf p w (k.value p o.hw (codeReg o.a) l))

/-! ### Recovering the rational (R229 to R231) -/

/-- A recovered pair as k words: the numerator below the denominator, half of the words each. -/
def pairWords (k : Nat) (a : Int) (b : Nat) : Nat :=
  let w := 2 ^ (16 * k)
  (a % (w : Nat)).toNat + b % w * w

def execHdec (o : OpA) (s : State) := issue (.hdec o) s fun k =>
  let p := s.prime k
  let flag := o.sub.getLsbD 1
  let out (l : Nat) : Int × Nat × Bool := recover p o.hw (k.value p o.hw (codeReg o.a) l)
  let fail := k.lanes.find? fun l => !(out l).2.2
  let res := k.lanes.map fun l =>
    let r := out l
    (l, if r.2.2 then pairWords o.hw r.1 r.2.1 else 0)
  s.launchOp k (.hdec o) (.hdec o.d o.hw k.p.exec flag res fail)

/-! ### Completion -/

/-- Values of k words are written to the registers from D of their lanes. -/
def State.wrCodes (s : State) (gid d k : Nat) (vs : List (Nat × Nat)) : State :=
  match s.group? gid with
  | none => s
  | some g => s.setGroup (vs.foldl (fun g e => g.wrVs d e.1 (wordsOf k e.2)) g)

/-- HDEC completes (R231). -/
def State.hdecDone (s : State) (o : Op) (d k : Nat) (flag : Bool) (res : List (Nat × Nat)) (fail : Option Nat) :
    State :=
  match fail with
  | none => s.wrCodes o.gid d k res
  | some l =>
    if flag then
      let s1 := s.wrCodes o.gid d k res
      match s1.group? o.gid with
      | none => s1
      | some g => s1.setGroup { g with hstat := BitVec.ofNat 32 (l % 128 * 256 + 1) }
    else s.completionTrap o.gid o.split { cause := 0x0C, lane := l, opc := o.opc }

end Sys2Proof.Machine
end

