-- ==== Sys2Proof/Machine/Matrix.lean ====
section
/-! DEFINITION. Block 0xB0, the matrix engine (R237 to R256), and the reference period of a cluster (R141, R249, R392). -/

namespace Sys2Proof.Machine

/-! ### Accumulators, buffers, tags and tokens (R237 to R242) -/

def Core.acc (c : Core) (n : Nat) : Acc := NMap.get Acc.reset c.accs n
def Core.buf (c : Core) (n : Nat) : Buf := NMap.get Buf.reset c.bufs n
def State.setAcc' (s : State) (core n : Nat) (a : Acc) : State :=
  s.setCore core { s.core core with accs := NMap.set Acc.reset (s.core core).accs n a }
def State.setBuf (s : State) (core n : Nat) (b : Buf) : State :=
  s.setCore core { s.core core with bufs := NMap.set Buf.reset (s.core core).bufs n b }

/-- A tag binds while a group of its context is resident on the core (R238). -/
def State.bound (s : State) (core : Nat) (tag : Option Nat) : Option Nat :=
  tag.filter fun c => s.groups.any fun g => g.core == core && !g.retired && s.ctxOf g == c

/-- No named accumulator or buffer is bound to another context (R238). -/
def State.tagsOk (s : State) (k : Issuer) (names : List Nat × List Nat) : Bool :=
  let ok (t : Option Nat) : Bool := match s.bound k.g.core t with
    | some c => c == k.ctx
    | none => true
  (names.1.all fun n => ok ((s.core k.g.core).acc n).ctx) && names.2.all fun n => ok ((s.core k.g.core).buf n).ctx

/-- A command reaches what it names: a tag that is none or has lapsed is taken, and the contents are zeroed (R238). -/
def State.takeTags (s : State) (k : Issuer) (names : List Nat × List Nat) : State :=
  let core := k.g.core
  let mine (t : Option Nat) : Bool := s.bound core t == some k.ctx
  let s1 := names.1.foldl (fun s' n =>
    let a := (s'.core core).acc n
    if mine a.ctx then s' else s'.setAcc' core n { a with ctx := some k.ctx, val := [] }) s
  names.2.foldl (fun s' n =>
    if mine ((s'.core core).buf n).ctx then s' else s'.setBuf core n { ctx := some k.ctx, bytes := [] }) s1

/-- The group has claimed an accumulator (Table 10-2). -/
def Issuer.claims (k : Issuer) (n : Nat) : Bool := k.g.claim.getLsbD n

/-- A command reaches the engine (R241). -/
def State.queueMatrix (s : State) (k : Issuer) (i : Instr) (kind : MCmdKind) (need : List Nat) : Res :=
  if !s.flagRoom k.g.gid k.p then .wait s
  else if !s.tagsOk k kind.names then .trap s { cause := 0x06 }
  else
    let (age, s1) := (s.takeTags k kind.names).newAge (dieOfCluster k.cluster) (.matrix k.g.core)
    let c := s1.core k.g.core
    let cmd : MCmd := { op := s1.nextId, gid := k.g.gid, ctx := k.ctx, cid := k.c.cid, kind, age, need, held := [] }
    (s1.setCore k.g.core { c with mq := c.mq ++ [cmd] }).launchOp k i .matrix

/-- ACQ (R240): of an accumulator that the group already claims it has no effect. -/
def execAcq (o : OpE) (s : State) := issue (.acq o) s fun k =>
  if !s.tagsOk k ([o.d], []) then .trap s { cause := 0x06 }
  else if k.claims o.d then s.launchOp k (.acq o) .done
  else if !s.flagRoom k.g.gid k.p then .wait s
  else
    let g := { k.g with claim := k.g.claim ||| BitVec.ofNat 16 (2 ^ o.d) }
    (s.setGroup g).queueMatrix { k with g } (.acq o) (.acq o.d false) []

/-- REL (R240): the token returns ahead of any command that waits for it. -/
def execRel (o : OpE) (s : State) := issue (.rel o) s fun k =>
  if !s.tagsOk k ([o.d], []) then .trap s { cause := 0x06 }
  else if !k.claims o.d then s.launchOp k (.rel o) .done
  else if !s.flagRoom k.g.gid k.p then .wait s
  else
    let g := { k.g with claim := k.g.claim &&& ~~~BitVec.ofNat 16 (2 ^ o.d) }
    let c := s.core k.g.core
    let a := c.acc o.d
    let release (m : MCmd) : MCmd := match m.kind with
      | .acq n _ => if m.gid = k.g.gid ∧ n = o.d then { m with kind := .acq n true } else m
      | _ => m
    let c1 := { c with
      accs := if a.token = some k.g.gid then NMap.set Acc.reset c.accs o.d { a with token := none } else c.accs
      mq := c.mq.map release }
    ((s.setGroup g).setCore k.g.core c1).launchOp { k with g } (.rel o) .done

/-! ### Shapes and operands (R243 to R246) -/

/-- The K of Table 10-3, in elements, from a slot. -/
def FSlot.kSteps (f : FSlot) : Nat := match f.elem with
  | 2 | 3 => 32
  | 6 => 192
  | _ => 64

/-- Registers of the A operand (Table 10-3). -/
def FSlot.aRegs (f : FSlot) : Nat := if f.elem = 6 then 24 else 16

/-- Registers of the A scales. -/
def FSlot.scaleRegs (f : FSlot) : Nat := if f.scale = 0 then 0 else if f.elem = 6 then 2 else 1

/-- Bytes of the B operand (Table 10-3). -/
def FSlot.bBytes (f : FSlot) : Nat :=
  if f.elem = 6 then 6528 else if f.scale = 1 then 4224 else 4096

/-- A slot that a table row names: ELEM from 2 to `hi`; E2M1 needs a scale, and a scale needs BLK 5 (R243). -/
def FSlot.mmaOk (f : FSlot) (hi : Nat) : Bool :=
  f.valid && decide (2 ≤ f.elem) && decide (f.elem ≤ hi) && (f.elem != 6 || f.scale == 1) && (f.scale == 0 || f.blk == 5)

/-- Two slots agree in element width, SCALE and BLK (R243). -/
def slotsAgree (a b : FSlot) : Bool :=
  (elemFmt a.elem).width == (elemFmt b.elem).width && a.scale == b.scale && a.blk == b.blk

/-- Metadata registers of MMAS (R246). -/
def sparseRegs (f : FSlot) (g8 : Bool) : Nat :=
  if f.elem ≤ 3 then (if g8 then 4 else 2) else if g8 then 8 else 4

/-- A register span beyond the count (R101). -/
def Issuer.over (k : Issuer) (r n : Nat) : Bool := decide (k.g.count < r + n)

/-- The active rows' words of `n` registers from `r`. -/
def Issuer.rows (k : Issuer) (r n : Nat) : List (Nat × List Word) :=
  k.lanes.map fun l => (l, (List.range n).map fun j => k.g.rdV (r + j) l)

/-- The issue of MMA and MMAS: the spans, the slots' rule and the C field that a slot leaves unused (R104, order 8; log 40), the
tags, the energy budget, and the queue (R248, R250). -/
def mmaIssue (i : Instr) (o : OpE) (sparse : Bool) (s : State) (k : Issuer) : Res :=
  let fa := s.slot k o.fs
  let fb := s.slot k (o.bits 7 5)
  let hi := if sparse then 5 else 6
  let known := decide (2 ≤ fa.elem) && decide (fa.elem ≤ hi)
  let g8 := sparse && o.bit 4
  let aRegs := if sparse then 16 else fa.aRegs
  let cRegs := if sparse then sparseRegs fa g8 else fa.scaleRegs
  if (k.over o.a aRegs ∧ (sparse ∨ known)) ∨ (known ∧ cRegs ≠ 0 ∧ k.over o.c cRegs) then .trap s { cause := 0x03 }
  else if !fa.mmaOk hi ∨ !fb.mmaOk hi ∨ !slotsAgree fa fb ∨ (sparse ∧ fa.scale = 1) then .trap s { cause := 0x11 }
  else if !sparse ∧ cRegs = 0 ∧ o.c ≠ 0 then .trap s { cause := 0x02 }
  else if !s.tagsOk k ([o.d], [o.b]) then .trap s { cause := 0x06 }
  else if !s.flagRoom k.g.gid k.p then .wait s
  else s.energyIssue k (o.bits 2 0) fun s1 =>
    s1.queueMatrix k i (.mma o.d o.b sparse g8 (o.bit 3) (BitVec.ofNat 64 (s.slotRaw k.c o.fs))
      (BitVec.ofNat 64 (s.slotRaw k.c (o.bits 7 5))) (k.rows o.a aRegs) (k.rows o.c cRegs)) []

def execMma (o : OpE) (s : State) := issue (.mma o) s (mmaIssue (.mma o) o false s)
def execMmas (o : OpE) (s : State) := issue (.mmas o) s (mmaIssue (.mmas o) o true s)

/-! ### Multiply and accumulate (R244 to R246) -/

/-- Byte `i` of a buffer. -/
def Buf.byte (b : Buf) (i : Nat) : Nat := (NMap.get 0 b.bytes i).toNat

/-- B(k, n): element n of row k (R244). -/
def Buf.elem (b : Buf) (f : Fmt) (k n : Nat) : Nat :=
  let w := f.width
  let at_ := 8 * w * k + n * w / 8
  if w = 4 then b.byte at_ / (if n % 2 = 0 then 1 else 16) % 16
  else (List.range (w / 8)).foldl (fun x i => x + b.byte (at_ + i) * 256 ^ i) 0

/-- Element `u` of a row's words (R143). -/
def rowElem (f : Fmt) (ws : List Word) (u : Nat) : Nat :=
  elemAt f (nth 0 ws (u * f.width / 32)) (u % (32 / f.width))

/-- Scale byte of block `j` of a row. -/
def rowScale (cs : List Word) (j : Nat) : Nat := bits (nth 0 cs (j / 4)).toNat (8 * (j % 4) + 7) (8 * (j % 4))

/-- The logical row that kept value `u` multiplies (R246). -/
def sparseIndex (cs : List Word) (g8 : Bool) (u : Nat) : Nat :=
  let half := if g8 then 4 else 2
  let g := u / half
  let t := u % half
  if g8 then
    let w := (nth 0 cs (g / 2)).toNat / 2 ^ (12 * (g % 2))
    8 * g + w / 2 ^ (3 * t) % 8
  else
    let w := (nth 0 cs (g / 8)).toNat / 2 ^ (4 * (g % 8))
    4 * g + w / 2 ^ (2 * t) % 4

/-- The terms of one output element (R245, R246): row words `ws`, scales or metadata `cs`, column `n`. -/
def mmaTerms (fa fb : FSlot) (sparse g8 : Bool) (b : Buf) (ws cs : List Word) (n : Nat) : List FVal :=
  let ea := elemFmt fa.elem
  let eb := elemFmt fb.elem
  let kk := fa.kSteps
  (List.range kk).map fun u =>
    let row := if sparse then sparseIndex cs g8 u else u
    let t := (ea.decode (rowElem ea ws u)).mul (eb.decode (b.elem eb row n))
    if fa.scale = 1 then
      let sa := rowScale cs (u / 32)
      let sb := b.byte (8 * eb.width * kk + 64 * (u / 32) + n)
      if sa = 255 ∨ sb = 255 then .nan else t.scale ((sa : Int) + sb - 254)
    else t

/-- One row of an MMA. -/
def Acc.mmaRow (a : Acc) (fa fb : FSlot) (sparse g8 z : Bool) (b : Buf) (row : Nat) (ws cs : List Word) : Acc :=
  (List.range 64).foldl (fun a' n =>
    let c : Word := if z then 0 else NMap.get 0 a.val (64 * row + n)
    let r := sumRule (mmaTerms fa fb sparse g8 b ws cs n ++ [Fmt.f32.decode c.toNat])
    { a' with val := NMap.set 0 a'.val (64 * row + n) (BitVec.ofNat 32 r) }) a

/-! ### Direct access (R251 to R253) -/

def execAccrd (o : OpE) (s : State) := issue (.accrd o) s fun k =>
  if !k.claims o.a then .trap s { cause := 0x0A }
  else s.queueMatrix k (.accrd o) (.accrd o.a o.d (o.bits 5 0) o.cnt k.p.exec) []

def execAccwr (o : OpE) (s : State) := issue (.accwr o) s fun k =>
  if !k.claims o.d then .trap s { cause := 0x0A }
  else s.queueMatrix k (.accwr o) (.accwr o.d (o.bits 5 0) o.cnt (k.rows o.a o.cnt)) []

def execAccz (o : OpE) (s : State) := issue (.accz o) s fun k =>
  if !k.claims o.d then .trap s { cause := 0x0A } else s.queueMatrix k (.accz o) (.accz o.d) []

/-- ACCRD.mem (R252). DESIGN CHOICE (log 128): the check of P comes after the CLAIM bit and the tags and before the alignment. -/
def execAccrdMem (o : OpE) (s : State) := issue (.accrdMem o) s fun k =>
  let f := s.slot k o.fs
  let e := (elemFmt f.elem).width / 8
  let base := (k.s64 o.d).toNat
  let p := (k.s o.c).toNat
  if !f.valid ∨ 5 < f.elem ∨ f.scale = 1 then .trap s { cause := 0x11 }
  else if !k.claims o.a then .trap s { cause := 0x0A }
  else if !s.tagsOk k ([o.a], []) then .trap s { cause := 0x06 }
  else if p < 64 * e then .trap s { cause := 0x01 }
  else if base % e ≠ 0 ∨ p % e ≠ 0 then .trap s { cause := 0x04, taddr := BitVec.ofNat 64 base }
  else if !s.flagRoom k.g.gid k.p then .wait s
  else match s.ranges k.c .dst {} false ((List.range 96).map fun i => ((base + i * p) % 2 ^ 64, 64 * e)) with
    | (.error t, s1) => .trap s1 t
    | (.ok dst, s1) =>
      if !s1.dstRoom k.c dst then .trap s1 { cause := 0x17 }
      else
        let segs := dst.map (·.1)
        (s1.snapDst k.c dst).queueMatrix k (.accrdMem o) (.accrdMem o.a (BitVec.ofNat 64 (s.slotRaw k.c o.fs)) segs) (kLines k.c segs)

/-- MOPLD (R253). -/
def execMopld (o : OpE) (s : State) := issue (.mopld o) s fun k =>
  let f := s.slot k o.fs
  let sp := o.bit 0
  let va := (k.s64 o.a).toNat
  if !f.mmaOk 6 ∨ (sp ∧ f.scale = 1) then .trap s { cause := 0x11 }
  else if !s.tagsOk k ([], [o.d]) then .trap s { cause := 0x06 }
  else if va % 64 ≠ 0 then .trap s { cause := 0x04, taddr := BitVec.ofNat 64 va }
  else match s.range k.c .src { nc := true } true va (if sp then 8192 else f.bBytes) with
    | (.error t, s1) => .trap s1 t
    | (.ok src, s1) => s1.queueMatrix k (.mopld o) (.mopld o.d (src.map (·.1))) []

/-- The bytes that ACCRD.mem writes, row by row (R252). -/
def Acc.stored (a : Acc) (f : FSlot) : List Byte :=
  let c := f.conv
  (List.range 96).flatMap fun i => (List.range 64).flatMap fun n =>
    toBytes (c.fmt.width / 8) (convert (Fmt.f32.decode (NMap.get 0 a.val (64 * i + n)).toNat) c.fmt c.mode c.sat
      (if c.mode = .sr then dither (8 * (i % 8) + n % 8) f.phase else 0))

/-! ### Performing the commands (R240, R241) -/

/-- A command leaves its engine's queue. -/
def State.leaveMatrix (s : State) (core op : Nat) : State :=
  let c := s.core core
  s.setCore core { c with mq := c.mq.filter fun m => m.op != op }

/-- A command leaves its engine's queue and its operation completes; a result that has still to be written keeps it there, since
a token moves only after every earlier command has completed (R240). -/
def State.endMatrix (s : State) (core op : Nat) : State :=
  if s.opLate op then s else (s.leaveMatrix core op).opOver op

/-- What a command does when it is performed; none while it must wait beyond its turn. -/
def State.doMatrix (s : State) (core : Nat) (m : MCmd) : Option State :=
  let c := s.core core
  match m.kind with
  | .mma acc buf sparse g8 z fa fb a cs =>
    let x := c.acc acc
    if x.token.isSome then none
    else
      let fa := FSlot.ofBits fa.toNat
      let fb := FSlot.ofBits fb.toNat
      some (s.setAcc' core acc (a.foldl (fun y r =>
        y.mmaRow fa fb sparse g8 z (c.buf buf) r.1 r.2 (((cs.find? fun q => q.1 == r.1).map (·.2)).getD [])) x))
  | .acq acc released =>
    let x := c.acc acc
    if released then some s
    else if x.token.isNone then some (s.setAcc' core acc { x with token := some m.gid })
    else none
  | .accrd acc d col cnt rows =>
    if s.opLate m.op then none
    else some (s.lateOp m.op ((lanesOf rows).flatMap fun l =>
      (List.range cnt).map fun j => (d + j, l, NMap.get 0 (c.acc acc).val (64 * l + col + j))) [])
  | .accrdMem acc slot dst =>
    match s.crew? m.cid with
    | none => some s
    | some cr =>
      if m.need.isEmpty ∧ s.versionReady cr dst ∧ s.dstFree cr m.op (.matrix core) dst ∧ s.dirtyDone dst then
        some ((s.segsWrite cr dst ((c.acc acc).stored (FSlot.ofBits slot.toNat))).endLines m.op m.held)
      else none
  | .accwr acc col cnt vals =>
    let x := c.acc acc
    some (s.setAcc' core acc { x with val := vals.foldl (fun v r => (List.range cnt).foldl (fun v j =>
      NMap.set 0 v (64 * r.1 + col + j) (nth 0 r.2 j)) v) x.val })
  | .accz acc => some (s.setAcc' core acc { c.acc acc with val := [] })
  | .mopld buf src =>
    match s.crew? m.cid with
    | none => some s
    | some cr => match src.find? fun g => s.segPoisoned cr g with
      | some g => match s.op? m.op with
        | some o => some (s.completionTrap o.gid o.split
            { cause := 0x07, taddr := BitVec.ofNat 64 g.va, opc := o.opc, inside := g.place.inside })
        | none => some s
      | none => some (s.setBuf core buf { c.buf buf with
          bytes := (s.segsBytes cr src).zipIdx.foldl (fun b e => NMap.set 0 b e.2 e.1) [] })

/-- A command of a core's matrix engine is performed when its turn has come; none while it waits. -/
def State.performMatrix (s : State) (core op : Nat) : Option State :=
  match s.matrixCmd core op with
  | none => none
  | some m => if mTurn (s.core core).mq m then (s.doMatrix core m).map fun t => t.endMatrix core op else none

/-- A command with destination lines is accepted once it holds them all: DIRTY is set in its leaves (R35, R47). -/
def State.admitMatrix (s : State) (core op : Nat) : State :=
  match s.matrixCmd core op with
  | none => s
  | some m => match m.kind with
    | .accrdMem _ _ dst => if m.need.isEmpty ∧ mTurn (s.core core).mq m then s.dirtyAll (dstEnts dst) else s
    | _ => s

/-- A command that must wait asks for the snoop-filter entries that its destination in a version needs (R49). -/
def State.askMatrix (s : State) (core op : Nat) : State := match s.matrixCmd core op with
  | none => s
  | some m => match m.kind, s.crew? m.cid with
    | .accrdMem _ _ dst, some cr => if mTurn (s.core core).mq m then s.askVersion cr dst else s
    | _, _ => s

/-- A command whose turn has come is accepted and performed, as far as it need not wait. -/
def State.goMatrix (s : State) (core op : Nat) : State :=
  let s1 := s.admitMatrix core op
  (s1.performMatrix core op).getD (s1.askMatrix core op)

/-- MMA_PERFORM (R241): the engine performs the next command for its accumulators and buffers. -/
def execMmaPerform (core op : Nat) (s : State) : Host.Outcome State Fault Refusal := .next (s.goMatrix core op)

/-- ACC_TOKEN_GRANT (R240): the token moves to the group of the ACQ whose turn has come. -/
def execAccTokenGrant (core op : Nat) (s : State) : Host.Outcome State Fault Refusal := .next (s.goMatrix core op)

/-- A group that retires returns every token it holds (R242). -/
def State.returnTokens (s : State) (g : Group) : State :=
  let c := s.core g.core
  s.setCore g.core { c with accs := c.accs.map fun e =>
    (e.1, if e.2.token = some g.gid then { e.2 with token := none } else e.2) }

/-! ### CMPR (R247) -/

/-- The rank of an element: NaN above every number, else its magnitude. -/
def rankOf (f : Fmt) (n : Nat) : Nat := if f.decode n = .nan then 2 ^ f.width else n % 2 ^ (f.width - 1)

/-- The indices kept in a group, ascending. -/
def keptOf (f : Fmt) (es : List Nat) : List Nat :=
  let r (i : Nat) : Nat := rankOf f (nth 0 es i)
  (List.range es.length).filter fun i =>
    decide (((List.range es.length).filter fun j => decide (r i < r j) || (r j == r i && decide (j < i))).length
      < es.length / 2)

/-- The shape of a CMPR: source and destination registers, groups, and nibbles of metadata (R247). -/
structure CmprShape where
  src : Nat
  dst : Nat
  groups : Nat
  nibbles : Nat

def cmprShape (f : Fmt) (g8 : Bool) : CmprShape :=
  if f.width = 16 then (if g8 then ⟨4, 2, 1, 3⟩ else ⟨2, 1, 1, 1⟩) else if g8 then ⟨2, 1, 1, 3⟩ else ⟨2, 1, 2, 2⟩

/-- The packed kept values and the metadata of one lane. -/
def compress (f : Fmt) (g8 : Bool) (ws : List Word) : Nat × Nat :=
  let n := if g8 then 8 else 4
  let b := if g8 then 3 else 2
  let sh := cmprShape f g8
  let es (g : Nat) : List Nat := (List.range n).map fun j => rowElem f ws (g * n + j)
  let vals := (List.range sh.groups).flatMap fun g => (keptOf f (es g)).map fun i => nth 0 (es g) i
  let field (g : Nat) : Nat := ((keptOf f (es g)).zipIdx.map fun e => e.1 * 2 ^ (b * e.2)).sum
  ((vals.zipIdx.map fun e => e.1 * 2 ^ (f.width * e.2)).sum,
   ((List.range sh.groups).map fun g => field g * 2 ^ (b * (n / 2) * g)).sum)

/-- CMPR (R247): its checks in the order of R104, the bound on P last since it depends on the slot (log 40). DESIGN CHOICE (log 107): where
vC is also a destination of the kept values, it is left with the metadata, which is written last. -/
def execCmpr (o : OpE) (s : State) := issue (.cmpr o) s fun k =>
  let fs := s.slot k o.fs
  let f := elemFmt fs.elem
  let g8 := o.bit 0
  let p := o.bits 3 1
  let sh := cmprShape f g8
  let known := decide (2 ≤ fs.elem) && decide (fs.elem ≤ 5)
  if known ∧ (o.a % sh.src ≠ 0 ∨ o.d % sh.dst ≠ 0) then .trap s { cause := 0x01 }
  else if known ∧ (k.over o.a sh.src ∨ k.over o.d sh.dst) then .trap s { cause := 0x03 }
  else if !known ∨ !fs.valid then .trap s { cause := 0x11 }
  else if 8 < p + sh.nibbles then .trap s { cause := 0x02 }
  else
    let out (l : Nat) : List (Nat × Nat × Word) :=
      let r := compress f g8 ((List.range sh.src).map fun j => k.g.rdV (o.a + j) l)
      ((wordsOf sh.dst r.1).mapIdx fun j w => (o.d + j, l, w))
        ++ [(o.c, l, BitVec.ofNat 32 (setBits (k.g.rdV o.c l).toNat (4 * (p + sh.nibbles) - 1) (4 * p) r.2))]
    s.launchOp k (.cmpr o) (.regs (k.lanes.flatMap out))

/-- Registers written at a completion point. -/
def State.wrRegs (s : State) (gid : Nat) (ws : List (Nat × Nat × Word)) : State :=
  match s.group? gid with
  | none => s
  | some g => s.setGroup (ws.foldl (fun g w => g.wrV w.1 w.2.1 w.2.2) g)

/-! ### The reference period (R141, R249, R392) -/

/-- EBUDGET_REFILL: one period of a cluster's reference oscillator: its time counter counts, each resident context's share
is refilled, and the time slices of its crews run. DESIGN CHOICE (log 17): the die's stamp counter counts with its first
cluster. -/
def execEbudgetRefill (cluster : Nat) (s : State) : Host.Outcome State Fault Refusal :=
  let cl := s.cluster cluster
  let refill (x : Nat) : Share :=
    let e := s.shareNow x cluster
    { s.share x cluster with level := min (256 * e.capk) (e.level + e.rate) }
  let s1 := s.setCluster cluster { cl with time := (cl.time + 1) % 2 ^ 64 }
  let s2 := (List.range 32).foldl (fun s x =>
    if (s.ctx x).registered then s.setShare x cluster (refill x) else s) s1
  let s3 : State := { s2 with
    crews := updWhere (fun c => c.cluster == cluster) (fun c => { c with slice := c.slice + 1 }) s2.crews }
  let die := dieOfCluster cluster
  .next (if cluster % 24 = 0 then s3.setDie die { s3.die die with stamp := ((s3.die die).stamp + 1) % 2 ^ 64 } else s3)

end Sys2Proof.Machine
end

