-- ==== Sys2Proof/Machine/Crossbar.lean ====
section
/-! DEFINITION. The crossbar tiles in LOGIC mode: lines and cells (R257 to R260), gates, endurance and rotation (R261 to
R267), and the issue of CBCFG, CBGATE, CBRUN, CBREAD, CBWRITE, CBMAP and CBSTAT (R272 to R278, R298). -/

namespace Sys2Proof.Machine

/-! ### Cells, lines and counters (R257, R258, R263, R265) -/

/-- The rated life of a line (R265). -/
def endLim : Nat := 5000000000

/-- The key of the cell where line `l` of an axis crosses line `r` of the other. -/
def cellKey (axis l r : Nat) : Nat := if axis = 0 then 512 * r + l else 512 * l + r

def Tile.cell (t : Tile) (axis l r : Nat) : Nat := NMap.get t.fill t.cells (cellKey axis l r)
def Tile.setCell (t : Tile) (axis l r v : Nat) : Tile := { t with cells := NMap.set t.fill t.cells (cellKey axis l r) v }

def Tile.map (t : Tile) (axis : Nat) : List Nat := if axis = 0 then t.map0 else t.map1
def Tile.run (t : Tile) (axis p : Nat) : Nat := NMap.get 0 (if axis = 0 then t.run0 else t.run1) p
def Tile.life (t : Tile) (axis l : Nat) : Nat :=
  min (2 ^ 40 - 1) (t.lifeBase + NMap.get 0 (if axis = 0 then t.life0 else t.life1) l)

/-- `w` write phases on a line. -/
def Tile.wear (t : Tile) (axis l w : Nat) : Tile :=
  if axis = 0 then { t with life0 := NMap.set 0 t.life0 l (NMap.get 0 t.life0 l + w) }
  else { t with life1 := NMap.set 0 t.life1 l (NMap.get 0 t.life1 l + w) }

/-- `w` write phases on a pool line in the current run. -/
def Tile.addRun (t : Tile) (axis p w : Nat) : Tile :=
  if axis = 0 then { t with run0 := NMap.set 0 t.run0 p (t.run axis p + w) }
  else { t with run1 := NMap.set 0 t.run1 p (t.run axis p + w) }

/-- Every cell is set to one level, which adds 1 to every lifetime counter (R260, R284). -/
def Tile.wipe (t : Tile) (level : Nat) : Tile := { t with fill := level, cells := [], lifeBase := t.lifeBase + 1 }

/-- The maps at identity over the pool. -/
def poolMap (pbase : Nat) : List Nat := (List.range 32).map fun k => pbase + k

/-- PHYS(X, f): the physical line a line field names; none where it names nothing (R263). -/
def Tile.phys (t : Tile) (axis f : Nat) : Option Nat :=
  if f < t.pbase then some f else if 480 ≤ f ∧ f < 512 then some (nth 0 (t.map axis) (f - 480)) else none

/-! ### Gates (R261 to R264, R267) -/

/-- A stop's status codes (Tables 11-5 and 12-6). -/
abbrev Status := Nat

/-- Inputs of a gate opcode; none for a bad one (Table 11-3). -/
def gateInputs : Nat → Option Nat
  | 1 | 2 => some 0
  | 3 => some 1
  | 4 => some 2
  | 5 | 6 => some 3
  | _ => none

/-- Write phases of a gate. -/
def gatePhases (op : Nat) : Nat := if op ≤ 3 then 1 else 2

/-- The gate's function of its input bits. -/
def gateFn (op : Nat) (is : List Nat) : Nat := match op with
  | 1 => 1
  | 2 => 0
  | 6 => if is.sum ≤ 1 then 1 else 0
  | _ => if is.sum = 0 then 1 else 0

/-- The fields of a gate word in pass `j` of a run with step `step` (Table 11-4). -/
structure Gate where
  op : Nat
  axis : Nat
  ins : List Nat
  res : Nat
  lo : Nat
  hi : Nat
  bad : Bool

def gateOf (w : DWord) (j step : Nat) : Gate :=
  let op := field w 63 59
  let fs := [field w 57 49, field w 48 40, field w 39 31]
  let n := (gateInputs op).getD 0
  { op, axis := field w 58 58, ins := fs.take n, res := field w 30 22
    lo := field w 21 13 + j * step, hi := field w 12 4 + j * step
    bad := (gateInputs op).isNone || field w 3 0 != 0 || (fs.drop n).any (fun f => f != 0) }

/-- The gate word is bad on this tile (R263). -/
def Tile.badGate (t : Tile) (g : Gate) : Bool :=
  g.bad || (g.res :: g.ins).any (fun f => (t.phys g.axis f).isNone) || g.ins.contains g.res || decide (g.hi < g.lo)
    || decide (t.pbase ≤ g.hi)

/-- ROTATE (R267): the tile with the scratch line moved where its ration calls for it; none for STOP(RATION). -/
def Tile.rotate (t : Tile) (axis k w : Nat) : Option Tile :=
  let m := t.map axis
  if t.run axis (nth 0 m k) + w ≤ t.ration then some t
  else
    let cand := (List.range 512).filter fun p =>
      decide (t.pbase ≤ p) && !m.contains p && decide (t.run axis p + w ≤ t.ration)
        && decide (t.life axis p + w ≤ endLim)
    match cand.foldl (fun b p => match b with
        | none => some p
        | some q => if t.life axis p < t.life axis q then some p else b) (none : Option Nat) with
    | none => none
    | some p => some (if axis = 0 then { t with map0 := putAt m k p } else { t with map1 := putAt m k p })

/-- GATE (R264): the tile after the gate, or the status of its stop. -/
def Tile.gate (t : Tile) (w : DWord) (j step : Nat) : Except Status Tile :=
  let g := gateOf w j step
  if t.badGate g then .error 1
  else
    let n := gatePhases g.op
    match if 480 ≤ g.res then t.rotate g.axis (g.res - 480) n else some t with
    | none => .error 2
    | some t1 =>
      let at_ (f : Nat) : Nat := (t1.phys g.axis f).getD 0
      let o := at_ g.res
      if endLim < t1.life g.axis o + n then .error 3
      else
        let t2 := (List.range (g.hi + 1 - g.lo)).foldl (fun t' i =>
          t'.setCell g.axis o (g.lo + i) (gateFn g.op (g.ins.map fun f => t1.cell g.axis (at_ f) (g.lo + i)))) t1
        let t3 := t2.wear g.axis o n
        .ok (if t.pbase ≤ o then t3.addRun g.axis o n else t3)

/-! ### Reading and writing lines (R275, R276, R297) -/

/-- The physical line that a read or a write names: through the maps in LOGIC, directly in the matrix-vector modes. -/
def Tile.lineAt (t : Tile) (axis f : Nat) : Option Nat := if t.mode = .logic then t.phys axis f else some f

/-- A cell as a bit: bit 3 of its level in the matrix-vector modes. -/
def Tile.bit (t : Tile) (axis l r : Nat) : Nat := if t.mode = .logic then t.cell axis l r else t.cell axis l r / 8 % 2

/-- Word `i` of a line: its cells 32i to 32i + 31. -/
def Tile.lineWord (t : Tile) (axis l i : Nat) : Word :=
  BitVec.ofNat 32 ((List.range 32).foldl (fun n b => n + t.bit axis l (32 * i + b) * 2 ^ b) 0)

/-- One line is written from a 64-byte image (R276, R297). -/
def Tile.wrLine (t : Tile) (axis l : Nat) (image : List Byte) : Tile :=
  let on := if t.mode = .logic then 1 else 15
  let t1 := (List.range 512).foldl (fun t' r =>
    t'.setCell axis l r (if (nth 0 image (r / 8)).getLsbD (r % 8) then on else 0)) t
  let cal := if t.mode = .logic then t.cal else if axis = 0 then 0 else t.cal &&& ~~~BitVec.ofNat 8 (2 ^ (l / 64))
  { t1.wear axis l 1 with cal }

/-- Lines are written one after another; WORN stops before a line that would pass ENDLIM. -/
def Tile.wrLines (t : Tile) (axis : Nat) : List (Nat × List Byte) → Tile × Status
  | [] => (t, 0)
  | (l, im) :: ls => if endLim < t.life axis l + 1 then (t, 3) else (t.wrLine axis l im).wrLines axis ls

/-! ### Issue (R259, R272) -/

/-- The tile belongs to another context: cause 0x06 at issue (R259). -/
def State.otherTile (s : State) (k : Issuer) (tile : Nat) : Bool := match (s.tile tile).tag with
  | some c => c != k.ctx
  | none => false

/-- The group has named a tile (R391). -/
def State.pin (s : State) (k : Issuer) : State := s.updGroup k.g.gid fun g => { g with pinned := true }

/-- A multiply, or a read that relates to no run: the commands that a CBCAL may admit (R292). -/
def TCmdKind.light : TCmdKind → Bool
  | .mvm .. | .read _ _ _ none _ => true
  | _ => false

/-- A command reaches a tile (R270): the group has named a tile (R391), and a multiply or a read that arrives at a CBCAL
may be admitted (R292). DESIGN CHOICE (log 111): a CBSTAT that arrives meanwhile, which is performed as it arrives, is no command
of another kind after which nothing more is admitted. -/
def State.queueTile (s : State) (k : Issuer) (i : Instr) (tile : Nat) (kind : TCmdKind) (need : List Nat) : Res :=
  if !s.flagRoom k.g.gid k.p then .wait s
  else
    let (age, s1) := (s.pin k).newAge (dieOfCluster k.cluster) (.tile k.g.core)
    let t := s1.tile tile
    let joins := (match t.busy with
        | .cal .. | .mvm _ (some _) => true
        | _ => false) && kind.light && t.q.all fun c => c.kind.light
    let cmd : TCmd := { op := s1.nextId, gid := k.g.gid, ctx := k.ctx, cid := k.c.cid, kind, age, need, held := [], joins }
    (s1.setTile tile { t with q := t.q ++ [cmd] }).launchOp k i .tile

/-- The checks that every command but CBSTAT shares at issue, and the command's body with its tile. -/
def onTile (s : State) (k : Issuer) (x : Nat) (f : Nat → Res) : Res :=
  if s.otherTile k (k.tile x) then .trap s { cause := 0x06 } else f (k.tile x)

/-- The configuration word is acceptable (R260, R284). -/
def cfgOk (w : Word) : Bool :=
  let n := w.toNat
  let pbase := bits n 24 16
  if n % 4 ≤ 1 then
    bits n 31 25 == 0 && bits n 7 2 == 0
      && (n % 4 == 0 || (bits n 15 8 != 0 && pbase % 16 == 0 && decide (16 ≤ pbase) && decide (pbase ≤ 464)))
  else n / 4 == 0

def execCbcfg (o : OpE) (s : State) := issue (.cbcfg o) s fun k =>
  if !cfgOk (k.s o.a) then .trap s { cause := 0x01 }
  else onTile s k o.d fun x => s.queueTile k (.cbcfg o) x (.cfg (k.s o.a)) []

/-- The issuing clause and word, by which the reads that directly follow a run are known (R271). -/
def Issuer.here (k : Issuer) : DWord × Nat := (k.p.pc, k.p.widx)

def execCbgate (o : OpE) (s : State) := issue (.cbgate o) s fun k =>
  onTile s k o.d fun x =>
    s.queueTile k (.cbgate o) x (.run [] [k.s64 o.a] 1 1 0 k.here.1 k.here.2) []

/-- A source range of a crossbar command: aligned, in the scratchpad window or in device memory (R274). -/
def tileSource (s : State) (k : Issuer) (va len align : Nat) (f : State → List Seg → Res) : Res :=
  if va % align ≠ 0 then .trap s { cause := 0x04, taddr := BitVec.ofNat 64 va }
  else match s.range k.c .src { nc := true } true va len with
    | (.error t, s1) => .trap s1 t
    | (.ok src, s1) => f s1 (src.map (·.1))

def execCbrun (o : OpE) (s : State) := issue (.cbrun o) s fun k =>
  let g := (k.s o.b).toNat
  if g = 0 ∨ 4096 < g then .trap s { cause := 0x01 }
  else onTile s k o.d fun x => tileSource s k (k.s64 o.a).toNat (8 * g) 8 fun s1 src =>
    s1.queueTile k (.cbrun o) x (.run src [] g (o.bits 7 0 + 1) (o.bits 16 8) k.here.1 k.here.2) []

def execCbwrite (o : OpE) (s : State) := issue (.cbwrite o) s fun k =>
  let cnt := o.bits 14 9 + 1
  onTile s k o.d fun x => tileSource s k (k.s64 o.a).toNat (64 * cnt) 64 fun s1 src =>
    s1.queueTile k (.cbwrite o) x (.write (o.bits 15 15) (o.bits 8 0) cnt src) []

def execCbmap (o : OpE) (s : State) := issue (.cbmap o) s fun k =>
  onTile s k o.a fun x => s.queueTile k (.cbmap o) x (.map (o.bits 0 0) o.d) []

def execCbmapReset (o : OpE) (s : State) := issue (.cbmapReset o) s fun k =>
  onTile s k o.a fun x => s.queueTile k (.cbmapReset o) x (.mapReset (o.bits 0 0)) []

/-- The run that a read now arriving relates to (R271): the most recent at the tile that has not finished, with the gates
it has completed, none where it has not started. A read that arrives while a CBPROG is queued waits behind that (R292). -/
def Tile.lastRun (t : Tile) : Option (Nat × Option Nat) :=
  match t.q.reverse.find? fun c => match c.kind with
      | .run .. | .prog .. => true
      | _ => false with
  | some c => match c.kind with
    | .run .. => some (c.op, none)
    | _ => none
  | none => match t.busy with
    | .run c _ done => some (c.op, some done)
    | _ => none

/-- A command that is neither a run nor a read which relates to one. -/
def TCmd.heavy (c : TCmd) : Bool := match c.kind with
  | .run .. | .read _ _ _ (some _) _ => false
  | _ => true

/-- A .nowait command would be performed or admitted at once, or behind the current block of a CBCAL only (R275, R292): what waits
for the end of the CBCAL comes after it, and what was admitted before it comes first. -/
def Tile.free (t : Tile) : Bool := match t.busy with
  | .idle => t.q.isEmpty
  | .cal .. => t.q.all fun c => c.kind.light && !c.joins
  | _ => false

/-- A .nowait read that relates to a run waits behind another command that is not a run (R275). -/
def Tile.runClear (t : Tile) (run : Nat) : Bool := match t.busy with
  | .run c _ _ => c.op == run || (t.q.takeWhile fun d => d.op != run).all fun d => !d.heavy
  | .idle => (t.q.takeWhile fun d => d.op != run).all fun d => !d.heavy
  | _ => false

/-- Lane 16 of vD takes a report (R275). -/
def State.report (s : State) (gid d : Nat) (w : Word) : State := s.wrRegs gid [(d, 16, w)]

/-- CBREAD (R271, R275): one that relates to a run is admitted at the next boundary that the run reaches, which is 0 where it
has not started, or at the later one that it names. -/
def execCbread (o : OpE) (s : State) := issue (.cbread o) s fun k =>
  onTile s k o.a fun x =>
    let t := s.tile x
    let b := (k.s o.c).toNat % 2 ^ 24
    let busy : Res := (s.pin k).launchOp k (.cbread o) (.regs [(o.d, 16, 0x40000000)])
    let put (run : Option Nat) (at_ : Nat) : Res :=
      s.queueTile k (.cbread o) x (.read o.d (o.bits 9 9) (o.bits 8 0) run at_) []
    match t.lastRun with
    | some (run, done) =>
      if o.bit 11 ∧ !t.runClear run then busy
      else
        let first := match done with
          | some n => n + 1
          | none => 0
        put (some run) (if o.bit 10 then max b first else first)
    | none => if o.bit 11 ∧ !t.free then busy else put none 0

/-! ### CBSTAT (R278, R298) -/

def TMode.code : TMode → Nat
  | .off => 0 | .logic => 1 | .mvm => 2 | .compat => 3

/-- The tile's word of Table 11-8. -/
def Tile.stat (t : Tile) (own : Bool) : Nat :=
  let top := t.mode.code * 2 ^ 30 + (if t.cmds.isEmpty then 0 else 2 ^ 29)
  if own then top + 2 ^ 28 + t.status % 16 * 2 ^ 24 + t.ration % 256 * 2 ^ 16 + t.pbase % 512 + t.boundary % 2 ^ 24 * 2 ^ 32
  else top

/-- The bits of a chunk of a set of lines. -/
def chunk (m : NMap Bool) (k : Nat) : Nat :=
  (List.range 64).foldl (fun n i => n + if NMap.get false m (64 * k + i) then 2 ^ i else 0) 0

/-- A CBSTAT is performed as it arrives: its pair is written at its completion point. -/
def cbstat (i : Instr) (o : OpE) (s : State) (f : Tile → Bool → Word → Nat) : Host.Outcome State Fault Refusal :=
  issue i s fun k =>
    let t := s.tile (k.tile o.a)
    let v := BitVec.ofNat 64 (f t (t.tag == some k.ctx) (k.s o.c))
    (s.pin k).launchOp k i (.sres [(o.d, lo32 v), (o.d + 1, hi32 v)])

/-- The tile is the context's and in a matrix-vector mode (R298). -/
def Tile.mvmOwn (t : Tile) (own : Bool) : Bool := own && (t.mode == .mvm || t.mode == .compat)

def execCbstatSt (o : OpE) (s : State) := cbstat (.cbstatSt o) o s fun t own _ => t.stat own

def execCbstatLife (o : OpE) (s : State) := cbstat (.cbstatLife o) o s fun t own c =>
  if own then t.life (bits c.toNat 9 9) (c.toNat % 512) else 0

def execCbstatCal (o : OpE) (s : State) := cbstat (.cbstatCal o) o s fun t own _ =>
  if t.mvmOwn own then t.cal.toNat + t.bad.length * 2 ^ 32 else 0

def execCbstatBad (o : OpE) (s : State) := cbstat (.cbstatBad o) o s fun t own c =>
  if t.mvmOwn own then chunk t.bad (c.toNat % 8) else 0

def execCbstatOvf (o : OpE) (s : State) := cbstat (.cbstatOvf o) o s fun t own c =>
  if t.mvmOwn own then chunk t.ovf (c.toNat % 8) else 0

end Sys2Proof.Machine
end

