-- ==== Sys2Proof/Machine/Mvm.lean ====
section
/-! DEFINITION. The crossbar tiles at work: starting commands (R259, R260, R270, R297), gates of a run with the reads they
let in (R264 to R271), and the matrix-vector modes: CBPROG, CBCAL and CBMVM (R283 to R300). -/

namespace Sys2Proof.Machine

/-! ### Issue (R293 to R296) -/

def execCbprog (o : OpE) (s : State) := issue (.cbprog o) s fun k =>
  let w := (k.s o.b).toNat
  let first := bits w 8 0
  let cnt := bits w 24 16 + 1
  if bits w 15 9 ≠ 0 ∨ bits w 31 25 ≠ 0 ∨ 512 < first + cnt then .trap s { cause := 0x01 }
  else onTile s k o.d fun x => tileSource s k (k.s64 o.a).toNat (256 * cnt) 64 fun s1 src =>
    s1.queueTile k (.cbprog o) x (.prog first cnt src) []

def execCbcal (o : OpE) (s : State) := issue (.cbcal o) s fun k =>
  if o.bits 7 0 = 0 then .trap s { cause := 0x01 }
  else onTile s k o.d fun x => s.queueTile k (.cbcal o) x (.cal (BitVec.ofNat 8 (o.bits 7 0))) []

/-- Outputs of a column range in a mode: a word for each column, or for each pair (R294). -/
def mvmWords (m : TMode) (clo chi : Nat) : Nat := if m = .compat then (chi + 1 - clo) / 2 else chi + 1 - clo

/-- A register of CBMVM's ranges: the lower and the upper end; none where other bits are set or the ends are reversed. -/
def mvmRange (w : Word) : Option (Nat × Nat) :=
  let n := w.toNat
  if bits n 15 9 ≠ 0 ∨ bits n 31 25 ≠ 0 ∨ bits n 24 16 < bits n 8 0 then none else some (bits n 8 0, bits n 24 16)

def execCbmvm (o : OpE) (s : State) := issue (.cbmvm o) s fun k =>
  match mvmRange (k.s o.c), mvmRange (k.s (o.c + 1)) with
  | some (lo, hi), some (clo, chi) => onTile s k (o.bits 5 0) fun x =>
    let src := (k.s64 o.a).toNat
    let dst := (k.s64 o.b).toNat
    let words := mvmWords (s.tile x).mode clo chi
    if src % 8 ≠ 0 then .trap s { cause := 0x04, taddr := BitVec.ofNat 64 src }
    else if dst % 4 ≠ 0 then .trap s { cause := 0x04, taddr := BitVec.ofNat 64 dst }
    else match s.range k.c .src { nc := true } true src ((hi + 2 - lo) / 2) with
      | (.error t, s1) => .trap s1 t
      | (.ok a, s1) => match s1.range k.c .dst {} true dst (4 * words) with
        | (.error t, s2) => .trap s2 t
        | (.ok b, s2) =>
          if !s2.dstRoom k.c b then .trap s2 { cause := 0x17 }
          else if !s2.flagRoom k.g.gid k.p then .wait s2
          else s2.energyIssue k o.fs fun s3 =>
            if o.bit 7 ∧ !(s3.tile x).free then
              (s3.pin k).launchOp k (.cbmvm o) (.sres [(o.d, 0x80000000)])
            else
              let segs := b.map (·.1)
              (s3.snapDst k.c b).queueTile k (.cbmvm o) x
                (.mvm lo hi clo chi (o.bit 6) o.d words (a.map (·.1)) segs) (kLines k.c segs)
  | _, _ => .trap s { cause := 0x01 }

/-! ### The end of a command (R269) -/

/-- The command's operation completes. -/
def State.endTile (s : State) (c : TCmd) : State := s.opOver c.op

/-- A trap is owed at the command's completion point. -/
def State.tileTrap (s : State) (c : TCmd) (t : Trap) : State := match s.op? c.op with
  | some o => s.completionTrap o.gid o.split { t with opc := o.opc }
  | none => s

/-- A status that is a stop. -/
def isStop (st : Status) : Bool := st != 0 && st != 5

/-- A command ends with a status: STATUS takes it, and a stop raises cause 0x0E. -/
def State.tileEnd (s : State) (x : Nat) (c : TCmd) (st : Status) : State :=
  let s1 := s.setTile x { s.tile x with status := st }
  (if isStop st then s1.tileTrap c { cause := 0x0E } else s1).endTile c

/-- A command that a tag or an uncorrectable error keeps from its effect: STATUS and BOUNDARY stay (R259). -/
def State.tileRefuse (s : State) (c : TCmd) (t : Trap) : State := (s.tileTrap c t).endTile c

/-- A command's source was poisoned: cause 0x07 at its completion point (R417). -/
def State.tilePoison (s : State) (c : TCmd) (g : Seg) : State :=
  s.tileRefuse c { cause := 0x07, taddr := BitVec.ofNat 64 g.va, inside := g.place.inside }

/-- What the tile answers a command that it is to perform (R259, R272, R293). -/
inductive TileSay where
  | ok | other | mode
  deriving DecidableEq, Repr

/-- The modes in which a command acts. -/
def TCmdKind.actsIn (k : TCmdKind) (m : TMode) : Bool := match k with
  | .cfg _ => true
  | .read .. | .write .. => m != .off
  | .run .. | .map .. | .mapReset _ => m == .logic
  | .prog .. | .cal _ | .mvm .. => m == .mvm || m == .compat

def TCmdKind.isCfg : TCmdKind → Bool
  | .cfg _ => true
  | _ => false

def Tile.say (t : Tile) (c : TCmd) : TileSay := match t.tag with
  | some x => if x ≠ c.ctx then .other else if c.kind.actsIn t.mode then .ok else .mode
  | none => if c.kind.isCfg then .ok else .mode

/-! ### Configuration (R260, R284) -/

/-- Into a matrix-vector mode: nothing changes on a tile that is already in it. -/
def Tile.intoMvm (t : Tile) (m : TMode) (level : Nat) : Tile :=
  if t.mode = m then t else { t.wipe level with mode := m, cal := 0, bad := [], ovf := [] }

/-- CBCFG as the tile performs it. -/
def Tile.configure (t : Tile) (ctx : Nat) (w : Word) : Tile :=
  let n := w.toNat
  match n % 4 with
  | 0 => { t.wipe 0 with mode := .off, tag := none }
  | 1 =>
    let t1 := if t.mode = .logic then t else t.wipe 0
    { t1 with mode := .logic, tag := some ctx, pbase := bits n 24 16, ration := bits n 15 8
              map0 := poolMap (bits n 24 16), map1 := poolMap (bits n 24 16), run0 := [], run1 := [] }
  | 2 => { t.intoMvm .mvm 8 with tag := some ctx }
  | _ => { t.intoMvm .compat 0 with tag := some ctx }

/-! ### Reads (R271, R275, R297) -/

/-- A read is performed; `at_`: the boundary, where it relates to a run. A read that stops reports its code. -/
def State.tileRead (s : State) (x : Nat) (c : TCmd) (at_ : Option Nat) : State :=
  let t := s.tile x
  let base : Nat := match at_ with
    | some b => 2 ^ 31 + b
    | none => 0
  let stop (st : Status) : State :=
    ((s.report c.gid (match c.kind with
      | .read d _ _ _ _ => d
      | _ => 0) (BitVec.ofNat 32 (base + st * 2 ^ 24))).tileTrap c { cause := 0x0E }).endTile c
  match c.kind with
  | .read d axis line _ _ => match t.say c with
    | .other => s.tileRefuse c { cause := 0x06 }
    | .mode => stop 4
    | .ok => match t.lineAt axis line with
      | none => stop 1
      | some l =>
        (s.lateOp c.op ((List.range 16).map (fun i => (d, i, t.lineWord axis l i)) ++ [(d, 16, BitVec.ofNat 32 base)]) []).endTile c
  | _ => s

/-- A queued read that relates to a run and is admitted at a boundary up to `b`. -/
def TCmd.dueAt (c : TCmd) (run b : Nat) : Bool := match c.kind with
  | .read _ _ _ (some r) a => r == run && decide (a ≤ b)
  | _ => false

/-- Reads leave the queue and are performed in arrival order (R271). -/
def State.admitReads (s : State) (x : Nat) (p : TCmd → Bool) (report : Nat) : State :=
  let t := s.tile x
  (t.q.filter p).foldl (fun s c => s.tileRead x c (some report)) (s.setTile x { t with q := t.q.filter fun c => !p c })

/-- Every read that relates to a run. -/
def TCmd.readsOf (c : TCmd) (run : Nat) : Bool := match c.kind with
  | .read _ _ _ (some r) _ => r == run
  | _ => false

/-- The run is over: the tile is free, and the reads that relate to the run and were not admitted are (R271). -/
def State.runOver (s : State) (x : Nat) (c : TCmd) (b : Nat) : State :=
  (s.setTile x { s.tile x with busy := .idle }).admitReads x (fun d => d.readsOf c.op) b

/-! ### Starting a command (R270) -/

/-- The lines that a CBWRITE names, with their images; none where one names nothing. -/
def Tile.named (t : Tile) (axis line : Nat) (bs : List Byte) : Nat → Option (List (Nat × List Byte))
  | 0 => some []
  | n + 1 => match t.lineAt axis line, t.named axis (line + 1) (bs.drop 64) n with
    | some l, some r => some ((l, bs.take 64) :: r)
    | _, _ => none

/-- A run's gate words. -/
def State.runWords (s : State) (c : Crew) (sched : List Seg) (inline : List DWord) (g : Nat) : List DWord :=
  if sched.isEmpty then inline
  else
    let bs := s.segsBytes c sched
    (List.range g).map fun i => BitVec.ofNat 64 (ofBytes ((bs.drop (8 * i)).take 8))

/-- The tile takes up a command for work of several steps. -/
def State.tileBusy (s : State) (x : Nat) (b : TBusy) : State := s.setTile x { s.tile x with busy := b }

/-- A command that does not act where it stands is ended. -/
def State.tileTurnAway (s : State) (x : Nat) (c : TCmd) (say : TileSay) : State := match say with
  | .other => match c.kind with
    | .run .. => (s.tileRefuse c { cause := 0x06 }).runOver x c 0
    | _ => s.tileRefuse c { cause := 0x06 }
  | _ => match c.kind with
    | .run .. => ((s.setTile x { s.tile x with boundary := 0 }).tileEnd x c 4).runOver x c 0
    | _ => s.tileEnd x c 4

/-- A command is taken up by an idle tile; one that a single step performs is performed whole. -/
def State.tileTake (s : State) (x : Nat) (c : TCmd) : State :=
  let t := s.tile x
  let say := t.say c
  match c.kind with
  | .mvm .. => s.tileBusy x (.mvm c none)
  | .read .. => s.tileRead x c none
  | kind => if say ≠ .ok then s.tileTurnAway x c say
    else match kind with
    | .cfg w => (s.setTile x (t.configure c.ctx w)).tileEnd x c 0
    | .run sched inline g .. => match s.crew? c.cid with
      | none => s.endTile c
      | some cr => match sched.find? fun g => s.segPoisoned cr g with
        | some bad => (s.tilePoison c bad).runOver x c 0
        | none => s.setTile x { t with run0 := [], run1 := [], boundary := 0
                                       busy := .run c (s.runWords cr sched inline g) 0 }
    | .write axis line cnt src => match s.crew? c.cid with
      | none => s.endTile c
      | some cr => match src.find? fun g => s.segPoisoned cr g with
        | some bad => s.tilePoison c bad
        | none => match t.named axis line (s.segsBytes cr src) cnt with
          | none => s.tileEnd x c 1
          | some ls =>
            let (t1, st) := t.wrLines axis ls
            (s.setTile x t1).tileEnd x c st
    | .map axis d => (s.lateOp c.op ((List.range 32).map fun k =>
        (d, k, BitVec.ofNat 32 (nth 0 (t.map axis) k))) []).tileEnd x c 0
    | .mapReset axis =>
      (s.setTile x (if axis = 0 then { t with map0 := poolMap t.pbase } else { t with map1 := poolMap t.pbase })).tileEnd x c 0
    | .prog .. => s.tileBusy x (.prog c 0)
    | .cal m => s.tileBusy x (.cal c ((List.range 8).filter fun i => m.getLsbD i) false)
    | .mvm .. | .read .. => s

/-- A command admitted at a boundary of a CBCAL is performed whole (R292). -/
def State.tileWithin (s : State) (x : Nat) (c : TCmd) (cal : TCmd) (blocks : List Nat) : State := match c.kind with
  | .mvm .. => s.tileBusy x (.mvm c (some (cal, blocks)))
  | _ => s.tileRead x c none

/-- The words of a clause from `i` up to but not including `j` are all CBREADs. -/
def readsBetween (ws : List DWord) (i j : Nat) : Bool :=
  (List.range (j - i)).all fun n => field (nth 0 ws (i + n - 1)) 63 56 == 0xC3

/-- The reads that directly follow a run in its clause are still being issued, with no stall between them (R271). -/
def State.chainOpen (s : State) (c : TCmd) : Bool := match c.kind with
  | .run _ _ _ _ _ pc widx => match s.op? c.op, s.group? c.gid with
    | some o, some g => match g.split? o.split with
      | none => false
      | some p => match p.cl with
        | none => false
        | some cl => p.pc == pc && decide (widx < p.widx) && g.runs && p.retained.isNone && !p.hold.stops
            && readsBetween cl.words (widx + 1) (p.widx + 1) && s.flagRoom g.gid p
    | _, _ => false
  | _ => false

/-- A CBCAL goes on with its next block, or is over. -/
def State.calOn (s : State) (x : Nat) (c : TCmd) (blocks : List Nat) : State :=
  if blocks.isEmpty then (s.tileEnd x c 0).tileBusy x .idle else s.tileBusy x (.cal c blocks false)

/-- TILE_COMMAND_START: an idle tile takes up its next command, a run once the reads that directly follow it have come (R271);
a CBCAL paused at a boundary gives way to the next command admitted there, or goes on (R292). -/
def execTileCommandStart (tile : Nat) (s : State) : Host.Outcome State Fault Refusal :=
  let t := s.tile tile
  .next (match t.busy with
    | .idle => match t.q with
      | c :: q => if s.chainOpen c then s else (s.setTile tile { t with q }).tileTake tile c
      | [] => s
    | .cal cal blocks true => match t.q.find? fun c => c.joins with
      | some c => (s.setTile tile { t with q := t.q.filter fun d => d.op != c.op }).tileWithin tile c cal blocks
      | none => s.calOn tile cal blocks
    | _ => s)

/-! ### Gates of a run (R264, R268, R271) -/

/-- One gate of a run, the admission of reads at the boundaries on either side of it, and the run's end. -/
def State.runGate (s : State) (x : Nat) (c : TCmd) (ws : List DWord) (done g p step : Nat) : State :=
  let s1 := s.admitReads x (fun d => d.dueAt c.op done) done
  let t := s1.tile x
  match t.gate (nth 0 ws (done % g)) (done / g) step with
  | .error st => ((s1.setTile x { t with boundary := done }).tileEnd x c st).runOver x c done
  | .ok t1 =>
    let s2 := (s1.setTile x { t1 with boundary := done + 1, busy := .run c ws (done + 1) }).admitReads x
      (fun d => d.dueAt c.op (done + 1)) (done + 1)
    if done + 1 = g * p then (s2.tileEnd x c 0).runOver x c (done + 1) else s2

/-- CROSSBAR_GATE. -/
def execCrossbarGate (tile : Nat) (s : State) : Host.Outcome State Fault Refusal :=
  .next (match (s.tile tile).busy with
    | .run c ws done => match c.kind with
      | .run _ _ g p step _ _ => s.runGate tile c ws done g p step
      | _ => s
    | _ => s)

/-! ### Programming (R289) -/

/-- Part of a list of runs: `len` bytes from byte `off`. -/
def sliceSegs : List Seg → Nat → Nat → List Seg
  | [], _, _ => []
  | g :: l, off, len =>
    if len = 0 then []
    else if g.len ≤ off then sliceSegs l (off - g.len) len
    else
      let n := min len (g.len - off)
      let place := match g.place with
        | .phys pa nc => .phys (pa + off) nc
        | .scratch b => .scratch (b + off)
      { va := g.va + off, place, len := n } :: sliceSegs l 0 (len - n)

/-- The level that an image's nibble asks of column `c`. -/
def Tile.target (t : Tile) (image : List Byte) (c : Nat) : Nat :=
  let n := (nth 0 image (c / 2)).toNat / (if c % 2 = 0 then 1 else 16) % 16
  if t.mode = .mvm then (n + 8) % 16 else n

/-- A row's cells take levels. -/
def Tile.setRow (t : Tile) (r : Nat) (f : Nat → Nat) : Tile :=
  (List.range 512).foldl (fun t' c => t'.setCell 1 r c (f c)) t

/-- A row is programmed and read back. The levels that a failed row is left with are free values (log 8). -/
def Tile.programRow (t : Tile) (r : Nat) (image : List Byte) (ok : Bool) (tick : Nat) : Tile :=
  let t1 := if ok then t.setRow r (t.target image) else t.setRow r fun c => Config.failedLevel tick r c % 16
  let t2 := t1.wear 1 r 4
  { t2 with cal := t2.cal &&& ~~~BitVec.ofNat 8 (2 ^ (r / 64)), bad := NMap.set false t2.bad r (!ok) }

/-- CBPROG_ROW: the tile programs its next row, whose cells all read back at their targets or do not. -/
def execCbprogRow (tile : Nat) (verified : Bool) (s : State) : Host.Outcome State Fault Refusal :=
  let t := s.tile tile
  let free (s : State) : State := s.tileBusy tile .idle
  .next (match t.busy with
    | .prog c done => match c.kind, s.crew? c.cid with
      | .prog first cnt src, some cr =>
        let r := first + done
        let part := sliceSegs src (256 * done) 256
        if endLim < t.life 1 r + 4 then free (s.tileEnd tile c 3)
        else match part.find? fun g => s.segPoisoned cr g with
          | some bad => free (s.tilePoison c bad)
          | none =>
            let s1 := s.setTile tile { t.programRow r (s.segsBytes cr part) verified s.tick with busy := .prog c (done + 1) }
            if !verified then free (s1.tileEnd tile c 6)
            else if done + 1 = cnt then free (s1.tileEnd tile c 0)
            else s1
      | _, _ => free (s.endTile c)
    | _ => s)

/-! ### Calibration (R290, R292) -/

/-- CBCAL_BLOCK: the tile calibrates one block, and pauses at its end, the last one's too, where a command is admitted. -/
def execCbcalBlock (tile : Nat) (s : State) : Host.Outcome State Fault Refusal :=
  let t := s.tile tile
  .next (match t.busy with
    | .cal c (b :: bs) false =>
      let t1 := { t with cal := t.cal ||| BitVec.ofNat 8 (2 ^ b) }
      let waits := t.q.any fun d => d.joins
      if waits ∨ !bs.isEmpty then s.setTile tile { t1 with busy := .cal c bs waits } else (s.setTile tile t1).calOn tile c []
    | .cal c [] false => s.calOn tile c []
    | _ => s)

/-- The blocks of a multiply. -/
def TCmd.uses (c : TCmd) (block : Nat) : Bool := match c.kind with
  | .mvm lo hi .. => decide (lo / 64 ≤ block) && decide (block ≤ hi / 64)
  | _ => false

/-- DRIFT_MONITOR (R290): a block's references have drifted; never while a command that uses it is performed. DESIGN CHOICE (log
129): a CBCAL is no command that uses the blocks it names. -/
def execDriftMonitor (tile block : Nat) (s : State) : Host.Outcome State Fault Refusal :=
  let t := s.tile tile
  let used := match t.busy with
    | .mvm c _ => c.uses block
    | _ => false
  .next (if used then s else s.setTile tile { t with cal := t.cal &&& ~~~BitVec.ofNat 8 (2 ^ block) })

/-! ### Multiplying (R286, R287, R291, R294) -/

/-- DIG(x, h). -/
def dig (x h : Nat) : Nat := x / 4 ^ h % 4

/-- SPLIT passes over (row, input) in ascending rows: `cur` is the pass being formed, with its digit sums. -/
def splitPasses : List (Nat × Nat) → List (Nat × Nat) → Nat → Nat → List (List (Nat × Nat))
  | [], cur, _, _ => [cur]
  | (r, x) :: l, cur, d0, d1 =>
    if 136 < d0 + dig x 0 ∨ 136 < d1 + dig x 1 then cur :: splitPasses l [(r, x)] (dig x 0) (dig x 1)
    else splitPasses l (cur ++ [(r, x)]) (d0 + dig x 0) (d1 + dig x 1)

/-- One phase sum of a column. -/
def Tile.phase (t : Tile) (col h : Nat) (pass : List (Nat × Nat)) : Nat :=
  (pass.map fun e => t.cell 1 e.1 col * dig e.2 h).sum

/-- The raw sum of a column and whether a phase was clamped. -/
def Tile.raw (t : Tile) (passes : List (List (Nat × Nat))) (col : Nat) : Nat × Bool :=
  passes.foldl (fun a p => [0, 1].foldl (fun a h =>
    let s := t.phase col h p
    (a.1 + 4 ^ h * min s 2047, a.2 || decide (2047 < s))) a) (0, false)

/-- The input of row `lo + i`. -/
def nibble (bs : List Byte) (i : Nat) : Nat := (nth 0 bs (i / 2)).toNat / (if i % 2 = 0 then 1 else 16) % 16

/-- What a multiply computes: its results, the clamped columns and the number of passes. -/
structure Product where
  y : List Word
  ovf : NMap Bool
  passes : Nat

def Tile.multiply (t : Tile) (lo hi clo chi : Nat) (clamp : Bool) (input : List Byte) : Product :=
  let xs := (List.range (hi + 1 - lo)).map fun i => (lo + i, nibble input i)
  let passes := if clamp then [xs] else splitPasses xs [] 0 0
  let raws := (List.range (chi + 1 - clo)).map fun i => t.raw passes (clo + i)
  let sum : Int := ((xs.map (·.2)).sum : Nat)
  let rawAt (i : Nat) : Int := ((nth (0, false) raws i).1 : Int)
  { y := if t.mode = .mvm then (List.range raws.length).map fun i => wordOf (rawAt i - 8 * sum)
      else (List.range (raws.length / 2)).map fun m => wordOf (rawAt (2 * m) - rawAt (2 * m + 1))
    ovf := raws.zipIdx.foldl (fun m e => NMap.set false m (clo + e.2) e.1.2) []
    passes := passes.length }

/-- The status that keeps a multiply from its effect: its rows are looked at first (R291), then its columns (R294, log 43). -/
def Tile.mvmStop (t : Tile) (lo hi clo chi words : Nat) : Option Status :=
  if (List.range (hi + 1 - lo)).any fun i => NMap.get false t.bad (lo + i) then some 7
  else if t.mode = .compat ∧ (clo % 2 = 1 ∨ chi % 2 = 0) then some 4
  else if words < mvmWords t.mode clo chi then some 4
  else none

/-- Scalar registers written at an operation's completion point. -/
def State.wrScalars (s : State) (gid sp : Nat) (ws : List (Nat × Word)) : State :=
  match s.group? gid with
  | none => s
  | some g => s.setGroup (ws.foldl (fun g w => g.wrS sp w.1 w.2) g)

/-- sD of a tile command. -/
def State.tileScalar (s : State) (c : TCmd) (d : Nat) (w : Word) : State := match s.op? c.op with
  | some o => s.wrScalars o.gid o.split [(d, w)]
  | none => s

/-- The tile after a multiply: idle, or back at the boundary of the CBCAL in which it was admitted. -/
def State.mvmOver (s : State) (x : Nat) (within : Option (TCmd × List Nat)) : State :=
  s.tileBusy x (match within with
    | none => .idle
    | some (cal, blocks) => .cal cal blocks true)

/-- A multiply that has no effect: sD := 0, and its lines are released unwritten. R294 states sD for a stop. DESIGN CHOICE (log
110): a multiply that a tag or an uncorrectable error keeps from its effect at its completion point leaves 0 too. -/
def State.mvmEmpty (s : State) (c : TCmd) (d : Nat) : State := (s.endLines c.op c.held).tileScalar c d 0

/-- The status word of Table 12-5. -/
def Product.word (p : Product) (ncal : Nat) : Word :=
  BitVec.ofNat 32 ((if p.ovf.isEmpty then 0 else 2 ^ 30) + p.ovf.length * 2 ^ 16 + ncal * 16 + p.passes)

/-- CBMVM on a tile that may multiply: the blocks that lapsed are calibrated, the results written. -/
def State.mvmWork (s : State) (x : Nat) (c : TCmd) (cr : Crew) (lo hi clo chi : Nat) (clamp : Bool) (d : Nat)
    (src dst : List Seg) : State :=
  let t := s.tile x
  let blocks := (List.range 8).filter fun b => c.uses b
  let ncal := (blocks.filter fun b => !t.cal.getLsbD b).length
  let t1 := { t with cal := blocks.foldl (fun m b => m ||| BitVec.ofNat 8 (2 ^ b)) t.cal }
  let p := t1.multiply lo hi clo chi clamp (s.segsBytes cr src)
  let s1 := s.setTile x { t1 with ovf := p.ovf }
  let s2 := (s1.segsWrite cr dst (p.y.flatMap fun w => toBytes 4 w.toNat)).endLines c.op c.held
  (s2.lateOp c.op [] [(d, p.word ncal)]).tileEnd x c (if p.ovf.isEmpty then 0 else 5)

/-- A multiply that holds every line it takes is accepted: DIRTY is set in the leaves of its destination (R35, R47). -/
def State.admitTile (s : State) (x : Nat) : State := match (s.tile x).busy with
  | .mvm c _ => match c.kind with
    | .mvm _ _ _ _ _ _ _ _ dst => if c.need.isEmpty then s.dirtyAll (dstEnts dst) else s
    | _ => s
  | _ => s

/-- CBMVM_PERFORM: the multiply that the tile has taken up; it waits until its destination lines are its own. DESIGN CHOICE (log
43): one that stops with MODE for its columns or for too few words has calibrated no block. -/
def execCbmvmPerform (tile : Nat) (s0 : State) : Host.Outcome State Fault Refusal :=
  let s := s0.admitTile tile
  let t := s.tile tile
  .next (match t.busy with
    | .mvm c within => match c.kind, s.crew? c.cid with
      | .mvm lo hi clo chi clamp d words src dst, some cr =>
        match t.say c with
        | .other => ((s.mvmEmpty c d).tileRefuse c { cause := 0x06 }).mvmOver tile within
        | .mode => ((s.mvmEmpty c d).tileEnd tile c 4).mvmOver tile within
        | .ok => match t.mvmStop lo hi clo chi words with
          | some st => ((s.mvmEmpty c d).tileEnd tile c st).mvmOver tile within
          | none => match src.find? fun g => s.segPoisoned cr g with
            | some bad => ((s.mvmEmpty c d).tilePoison c bad).mvmOver tile within
            | none =>
              if c.need.isEmpty ∧ s.versionReady cr dst ∧ s.dstFree cr c.op (.tile (tile / 64)) dst ∧ s.dirtyDone dst then
                (s.mvmWork tile c cr lo hi clo chi clamp d src dst).mvmOver tile within
              else s.askVersion cr dst
      | _, _ => (s.endTile c).mvmOver tile within
    | _ => s)

end Sys2Proof.Machine
end

