-- ==== Sys2Proof/Machine/Copy.lean ====
section
/-! DEFINITION. The copy engine: layout records (R303, R304), what a copy writes (R306, R307), its stages (R308 to R310),
copy tags (R311, R312) and transaction barriers (R313 to R316). -/

namespace Sys2Proof.Machine

/-! ### Copy tags (R311, R312) -/

def Core.tag (c : Core) (n : Nat) : Tag := NMap.get Tag.reset c.tags n
def State.setTag (s : State) (core n : Nat) (t : Tag) : State :=
  s.setCore core { s.core core with tags := NMap.set Tag.reset (s.core core).tags n t }

/-- The context that a tag is bound to (R311). -/
def State.tagOwner (s : State) (core n : Nat) : Option Nat :=
  let t := (s.core core).tag n
  if t.cnt ≠ 0 then t.ctx else s.bound core t.ctx

/-- No named tag is bound to another context. -/
def State.tagFree (s : State) (k : Issuer) (ns : List Nat) : Bool :=
  ns.all fun n => match s.tagOwner k.g.core n with
    | some c => c == k.ctx
    | none => true

/-- A named tag as the instruction finds it: one that is none's or has lapsed is first reset (R311). -/
def State.bindTag (s : State) (k : Issuer) (n : Nat) : State :=
  if s.tagOwner k.g.core n = some k.ctx then s else s.setTag k.g.core n { Tag.reset with ctx := some k.ctx }

def State.bindTags (s : State) (k : Issuer) (ns : List Nat) : State := ns.foldl (fun s n => s.bindTag k n) s

/-- The tags that a mask names (R312). -/
def tagsOf (m : DWord) : List Nat := (List.range 64).filter fun t => m.getLsbD t

/-- The tag instructions: their mask's tags are bound, and the body runs. -/
def onTags (s : State) (k : Issuer) (a : Nat) (f : State → DWord → Res) : Res :=
  let m := k.s64 a
  if s.tagFree k (tagsOf m) then f (s.bindTags k (tagsOf m)) m else .trap s { cause := 0x06 }

/-- What a TAGWANY waits for: its mask as its split reads it now. -/
def Issuer.tagwanyKind (k : Issuer) (o : OpE) : OpKind := .tagwany o.d (k.s64 o.a) (o.bit 0)

/-- The same for a TAGWALL. -/
def Issuer.tagwallKind (k : Issuer) (o : OpE) : OpKind := .tagwall (k.s64 o.a)

def execTagwany (o : OpE) (s : State) := issue (.tagwany o) s fun k =>
  onTags s k o.a fun s1 _ => s1.launchOp k (.tagwany o) (k.tagwanyKind o)

def execTagwall (o : OpE) (s : State) := issue (.tagwall o) s fun k =>
  onTags s k o.a fun s1 _ => s1.launchOp k (.tagwall o) (k.tagwallKind o)

def execTagfirst (o : OpE) (s : State) := issue (.tagfirst o) s fun k =>
  onTags s k o.a fun s1 m => s1.launchOp k (.tagfirst o) (.tagfirst o.d m (o.bit 0))

def execTagclr (o : OpE) (s : State) := issue (.tagclr o) s fun k =>
  onTags s k o.a fun s1 m =>
    .done ((tagsOf m).foldl (fun s n => s.setTag k.g.core n { (s.core k.g.core).tag n with done := false }) s1)

/-- The lowest masked tag that is done. -/
def Core.firstDone (c : Core) (m : DWord) : Option Nat := (tagsOf m).find? fun n => (c.tag n).done

/-- TAGWANY may complete. -/
def Core.anyDone (c : Core) (m : DWord) : Bool := m == 0 || (c.firstDone m).isSome

/-- TAGWALL may complete. -/
def Core.allDone (c : Core) (m : DWord) : Bool := (tagsOf m).all fun n => (c.tag n).cnt == 0

/-- TAGWANY or TAGFIRST reports (R312). -/
def State.tagReport (s : State) (o : Op) (core d : Nat) (m : DWord) (clr : Bool) : State :=
  match (s.core core).firstDone m with
  | none => s.wrScalars o.gid o.split [(d, 0xFFFFFFFF)]
  | some n =>
    let s1 := if clr then s.setTag core n { (s.core core).tag n with done := false } else s
    s1.wrScalars o.gid o.split [(d, BitVec.ofNat 32 n)]

/-! ### Transaction barriers (R313 to R316) -/

/-- The word of Table 13-5 at a key of a cluster's scratchpad. -/
def State.tbWord (s : State) (c key : Nat) : Nat :=
  ofBytes ((List.range 8).map fun i => NMap.get 0 (s.cluster c).scratch (key + i))

def tbPhase (w : Nat) : Nat := bits w 63 48
def tbArrive (w : Nat) : Nat := bits w 47 38
def tbInit (w : Nat) : Nat := bits w 37 28
def tbTx (w : Nat) : Nat := bits w 27 0

def tbMake (phase arrive init tx : Nat) : Nat :=
  phase % 2 ^ 16 * 2 ^ 48 + arrive % 2 ^ 10 * 2 ^ 38 + init % 2 ^ 10 * 2 ^ 28 + tx % 2 ^ 28

/-- A word is live. -/
def State.tbLive (s : State) (c key : Nat) : Bool := (s.cluster c).liveWords.contains key

def State.tbStore (s : State) (c key w : Nat) : State :=
  let cl := s.cluster c
  s.setCluster c { cl with
    scratch := (toBytes 8 w).zipIdx.foldl (fun m e => NMap.set 0 m (key + e.2) e.1) cl.scratch }

/-- The TBWAITs on a word of a cluster, changed. -/
def State.tbWaits (s : State) (c key : Nat) (f : (d phase : Nat) → Bool → OpKind → OpKind) : State :=
  { s with ops := s.ops.map fun o => match o.kind with
      | .tbwait d k ph trap false => if k = key ∧ s.opCluster o = some c then { o with kind := f d ph trap o.kind } else o
      | _ => o }

/-- An operation leaves a word: where ARRIVE and TX are both 0 the phase completes, and every TBWAIT on the old phase ends
with OK (R314). -/
def State.tbPut (s : State) (c key w : Nat) : State :=
  if tbArrive w = 0 ∧ tbTx w = 0 then
    let ph := (tbPhase w + 1) % 2 ^ 16
    (s.tbStore c key (tbMake ph (tbInit w) (tbInit w) 0)).tbWaits c key fun d p trap kind =>
      if p = ph then kind else .late [] [(d, 0)] none 6 trap
  else s.tbStore c key w

/-- What TBINIT of a live word and TBINVAL do: waits end INVALID, and charged copies are detached (R315). -/
def State.tbKill (s : State) (c key : Nat) : State :=
  let s1 := s.tbWaits c key fun d p trap _ => .tbwait d key p trap true
  { s1 with copies := updWhere (fun x => x.cluster == c && x.tb == some key) (fun x => { x with tb := none }) s1.copies }

def State.setLive (s : State) (c key : Nat) (live : Bool) : State :=
  let cl := s.cluster c
  s.setCluster c { cl with
    liveWords := if live then insertAsc key cl.liveWords else cl.liveWords.filter fun k => k != key }

/-- A barrier address (R317): its key in the cluster's scratchpad. -/
def State.tbKey (s : State) (c : Crew) (va : DWord) : Except Trap Nat :=
  let a := va.toNat % 2 ^ 32
  if !inWindow va.toNat then .error { cause := 0x06, taddr := va }
  else if a % 8 ≠ 0 then .error { cause := 0x04, taddr := va }
  else if !c.inScratch a 8 then .error { cause := 0x06, taddr := va }
  else .ok (s.scratchAt c a)

/-- An instruction on a barrier: its address's checks, and the body. -/
def State.tbAt (s : State) (k : Issuer) (va : DWord) (f : Nat → Res) : Res := match s.tbKey k.c va with
  | .error t => .trap s t
  | .ok key => f key

def execTbinit (o : OpE) (s : State) := issue (.tbinit o) s fun k =>
  s.tbAt k (k.s64 o.a) fun key =>
    let n := (k.s o.b).toNat
    if n = 0 ∨ 1023 < n then .trap s { cause := 0x01 }
    else
      let s1 := if s.tbLive k.cluster key then s.tbKill k.cluster key else s
      .done ((s1.setLive k.cluster key true).tbStore k.cluster key (tbMake 0 n n 0))

def execTbarr (o : OpE) (s : State) := issue (.tbarr o) s fun k =>
  s.tbAt k (k.s64 o.a) fun key =>
    let b := if o.bit 0 then (k.s o.b).toNat else 0
    let w := s.tbWord k.cluster key
    if 2 ^ 24 ≤ b then .trap s { cause := 0x01 }
    else if !s.tbLive k.cluster key then .trap s { cause := 0x09 }
    else if !s.fencePassed k.g k.p.num 1 s.nextId ∨ tbArrive w = 0 then .wait s
    else
      let s1 := s.tbPut k.cluster key (tbMake (tbPhase w) (tbArrive w - 1) (tbInit w) (tbTx w + b))
      .done (if o.bit 1 then s1.setGroup (k.g.wrS k.p.num o.d (BitVec.ofNat 32 (tbPhase w))) else s1)

def execTbexpect (o : OpE) (s : State) := issue (.tbexpect o) s fun k =>
  s.tbAt k (k.s64 o.a) fun key =>
    let b := (k.s o.b).toNat
    let w := s.tbWord k.cluster key
    if 2 ^ 24 ≤ b then .trap s { cause := 0x01 }
    else if !s.tbLive k.cluster key then .trap s { cause := 0x09 }
    else .done (s.tbPut k.cluster key (tbMake (tbPhase w) (tbArrive w) (tbInit w) (tbTx w + b)))

/-- What a TBWAIT waits for: a phase other than sC's as its split reads it now; it is over at once where PHASE differs already,
and ends INVALID where the word is not live (R315, R320). -/
def State.tbwaitKind (s : State) (k : Issuer) (o : OpE) (key : Nat) : OpKind :=
  let ph := (k.s o.c).toNat % 2 ^ 16
  let live := s.tbLive k.cluster key
  if live ∧ tbPhase (s.tbWord k.cluster key) ≠ ph then .late [] [(o.d, 0)] none 6 (o.bit 0) else .tbwait o.d key ph (o.bit 0) !live

def execTbwait (o : OpE) (s : State) := issue (.tbwait o) s fun k =>
  s.tbAt k (k.s64 o.a) fun key => s.launchOp k (.tbwait o) (s.tbwaitKind k o key)

def execTbinval (o : OpE) (s : State) := issue (.tbinval o) s fun k =>
  s.tbAt k (k.s64 o.a) fun key =>
    .done (if s.tbLive k.cluster key then (s.tbKill k.cluster key).setLive k.cluster key false else s)

/-- A TBWAIT that R315 has ended completes (R320). -/
def State.tbwaitDone (s : State) (o : Op) (d : Nat) (trap invalid : Bool) : Option State :=
  if !invalid then none
  else if trap then some (s.completionTrap o.gid o.split { cause := 0x09, opc := o.opc })
  else some (s.wrScalars o.gid o.split [(d, 1)])

/-! ### Layout records (R303, R304) -/

/-- A tensor descriptor (Table 13-1). -/
structure TDesc where
  base : Nat
  ext : List Nat
  /-- Strides of dimensions 0 to 3; that of dimension 0 stands in the element size. -/
  stride : List Nat
  origin : List Int
  elem : Nat
  rank : Nat
  fill : Nat
  rsv : Nat

def TDesc.ofBits (n : Nat) : TDesc :=
  { base := bits n 63 0
    ext := (List.range 4).map fun k => bits n (16 * k + 79) (16 * k + 64)
    stride := 0 :: (List.range 3).map fun k => bits n (64 * (k + 1) + 127) (64 * (k + 1) + 64)
    origin := (List.range 4).map fun k => sgn 32 (bits n (32 * k + 351) (32 * k + 320))
    elem := bits n 455 448, rank := bits n 463 456, fill := bits n 471 464, rsv := bits n 511 472 }

/-- Twice the element size in bytes. -/
def TDesc.z2 (t : TDesc) : Nat := (elemFmt t.elem).width / 4

/-- The descriptor lies in the scratchpad window. -/
def TDesc.scratch (t : TDesc) : Bool := inWindow t.base

/-- ADDR(T, p) in half-bytes (R303). -/
def TDesc.addr2 (t : TDesc) (p : List Int) : Nat :=
  let at_ : Int := 2 * (t.base : Int) + nth 0 p 0 * t.z2
    + 2 * ((List.range 4).map fun k => nth 0 p k * Int.ofNat (nth 0 t.stride k)).sum
  (at_ % 2 ^ 65).toNat

/-- A point lies within the extents. -/
def TDesc.inside (t : TDesc) (p : List Int) : Bool :=
  (List.range 4).all fun k => decide (0 ≤ nth 0 p k) && decide (nth 0 p k < Int.ofNat (nth 0 t.ext k))

/-- A record with the origins that a copy uses (R318). -/
structure Layout where
  src : TDesc
  dst : TDesc
  box : List Nat
  slot : Nat
  sc : List Int
  dc : List Int
  rsv : Bool

def Layout.ofRecord (record : BitVec 1536) (sc dc : Option (List Int)) : Layout :=
  let n := record.toNat
  let src := TDesc.ofBits (bits n 511 0)
  let dst := TDesc.ofBits (bits n 1023 512)
  let ctl := bits n 1535 1024
  { src, dst, box := (List.range 4).map fun k => bits ctl (16 * k + 15) (16 * k), slot := bits ctl 66 64
    sc := sc.getD src.origin, dc := dc.getD dst.origin
    rsv := src.rsv != 0 || dst.rsv != 0 || bits ctl 511 73 != 0 || bits ctl 71 67 != 0 }

/-- The dimensions of a descriptor are as R304 asks. -/
def Layout.dimsOk (l : Layout) (t : TDesc) : Bool := (List.range 4).all fun k =>
  let e := nth 0 t.ext k
  let b := nth 0 l.box k
  if k < t.rank then e != 0 && b != 0
  else e == 1 && b == 1 && nth 0 t.origin k == 0 && nth 0 t.stride k == 0

/-- A 4-bit destination must be even in dimension 0: the record's own origin (R304) and the one that a CPYL gives (R318) alike. -/
def Layout.evenOk (l : Layout) : Bool :=
  l.dst.z2 != 1 || (nth 0 l.dst.origin 0 % 2 == 0 && nth 0 l.dc 0 % 2 == 0 && nth 0 l.box 0 % 2 == 0 && nth 0 l.dst.ext 0 % 2 == 0)

/-- BASE and strides are multiples of the element size. -/
def TDesc.aligned (t : TDesc) : Bool := (t.base :: t.stride).all fun x => 2 * x % t.z2 == 0

/-- The checks of R304 and R306. -/
def Layout.fault (l : Layout) (f : FSlot) : Option Nat :=
  let elemOk (t : TDesc) : Bool := decide (1 ≤ t.elem) && decide (t.elem ≤ 8) && decide (t.fill ≤ 1)
  if l.rsv then some 0x02
  else if l.src.rank ≠ l.dst.rank ∨ l.src.rank = 0 ∨ 4 < l.src.rank ∨ !elemOk l.src ∨ !elemOk l.dst
      ∨ !l.dimsOk l.src ∨ !l.dimsOk l.dst ∨ 2 ^ 22 < l.box.prod ∨ !l.evenOk then some 0x01
  else if !l.src.aligned ∨ !l.dst.aligned then some 0x04
  else if l.src.elem ≠ l.dst.elem ∧ (!f.valid ∨ f.elem ≠ l.dst.elem ∨ f.scale ≠ 0) then some 0x11
  else none

/-! ### Points (R306) -/

/-- A point that a copy writes: its place in the box, and the half-byte addresses of its destination and its source. -/
structure CPoint where
  c : List Nat
  dst : Nat
  src : Option Nat

/-- The points written, in box order (R306). -/
def Layout.points (l : Layout) : List CPoint :=
  let b (k : Nat) : List Nat := List.range (nth 0 l.box k)
  let at_ (o : List Int) (c : List Nat) : List Int := (List.range 4).map fun k => nth 0 o k + Int.ofNat (nth 0 c k)
  let cs := (b 3).flatMap fun z => (b 2).flatMap fun y => (b 1).flatMap fun x => (b 0).map fun w => [w, x, y, z]
  cs.filterMap fun c =>
    let d := at_ l.dc c
    let s := at_ l.sc c
    if l.dst.inside d then
      some { c, dst := l.dst.addr2 d, src := if l.src.inside s then some (l.src.addr2 s) else none }
    else none

/-- Where an element lies: bytes of memory on a page of the copy, or of the scratchpad. -/
def copyPlace (pages : List CopyPage) (scratch dst : Bool) (va : Nat) : Place :=
  if scratch then .scratch (va % 2 ^ 32)
  else match pages.find? fun p => p.dst == dst && p.va == va / 24576 * 24576 with
    | some p => .phys (p.pa + va % 24576) p.nc
    | none => .phys 0 false

/-- Stage 2 of R309 for one element of a point: its page is translated, and a fabric address routed (R425), or its scratchpad
bytes are checked. -/
def State.copySpot (s : State) (k : Issuer) (pages : List CopyPage) (t : TDesc) (dst : Bool) (half : Nat) :
    Except Trap (List CopyPage) × State :=
  let va := half / 2
  let n := max 1 (t.z2 / 2)
  let bad (c : Nat) : Trap := { cause := c, write := dst, page := some (BitVec.ofNat 64 va) }
  if t.scratch then
    let a := va % 2 ^ 32
    if !inWindow va ∨ !k.c.inScratch a n then (.error (bad 0x06), s)
    else if dst ∧ s.hitsLive k.c a n then (.error (bad 0x08), s)
    else (.ok pages, s)
  else
    let page := va / 24576 * 24576
    match pages.find? fun p => p.dst == dst && p.va == page with
    | some p => if s.routed (p.pa + va % 24576) then (.ok pages, s) else (.error (bad 0x06), s)
    | none => match s.translate k.ctx va (if dst then .write else .read) with
      | (.error c, s1) => (.error (bad c), s1)
      | (.ok x, s1) => (.ok (pages ++ [{ va := page, dst, pa := x.pa - va % 24576, nc := x.nc, ent := x.ent }]), s1)

/-- Stage 2 of R309 for every point: the source element, then the destination element. DESIGN CHOICE (log 109): of several points
or pages that fail, the first in box order is raised, a point's source before its destination. -/
def State.copySpots (s : State) (k : Issuer) (l : Layout) :
    List CPoint → List CopyPage → Except Trap (List CopyPage) × State
  | [], pages => (.ok pages, s)
  | p :: ps, pages =>
    match (match p.src with
      | some a => s.copySpot k pages l.src false a
      | none => (.ok pages, s)) with
    | (.error t, s1) => (.error t, s1)
    | (.ok pages1, s1) => match s1.copySpot k pages1 l.dst true p.dst with
      | (.error t, s2) => (.error t, s2)
      | (.ok pages2, s2) => s2.copySpots k l ps pages2

/-- The destination runs of a copy, one for each point, with their leaf entries. -/
def Layout.dstSegs (l : Layout) (pages : List CopyPage) (ps : List CPoint) : List (Seg × Nat) :=
  ps.map fun p =>
    let va := p.dst / 2
    let ent := ((pages.find? fun q => q.dst && q.va == va / 24576 * 24576).map (·.ent)).getD 0
    ({ va, place := copyPlace pages l.dst.scratch true va, len := max 1 (l.dst.z2 / 2), ent }, ent)

/-! ### Issue (R309, R318) -/

/-- The copy issues: it counts on its tag, and its operation lasts until it is accepted. -/
def State.startCopy (s : State) (k : Issuer) (i : Instr) (tag : Nat) (c : Copy) : Res :=
  if !s.flagRoom k.g.gid k.p then .wait s
  else
    let s1 := s.bindTag k tag
    let t := (s1.core k.g.core).tag tag
    let held := (s1.copies.filter fun x => x.cluster == k.cluster && x.accepted).length
    if 256 ≤ held ∨ t.cnt = 255 then .wait s
    else
      let (age, s2) := (s1.setTag k.g.core tag { t with cnt := t.cnt + 1, done := false }).newAge
        (dieOfCluster k.cluster) (.copy k.cluster)
      let id := s2.nextId
      let s3 : State := { s2 with copies := s2.copies ++ [{ c with id, op := id + 1, ageKey := age }], nextId := id + 1 }
      s3.launchOp k i (.copy id)

/-- Stages 1 to 4 of R309; `lane`: the leader (R318). TADDR names the record (Table 16-3). -/
def copyIssue (i : Instr) (tag : Nat) (va : DWord) (sc dc : Option (List Int)) (tb : Option Nat) (lane : Nat) (s : State)
    (k : Issuer) : Res :=
  let t (c : Nat) : Trap := { cause := c, lane, taddr := va }
  if va.toNat % 192 ≠ 0 then .trap s (t 0x04)
  else if inWindow va.toNat then .trap s (t 0x06)
  else match s.translate k.ctx va.toNat .read with
    | (.error c, s1) => .trap s1 (t c)
    | (.ok x, s1) =>
      if rangeOf x.pa ≠ .device then .trap s1 (t 0x06)
      else if s1.unitPoisoned k.c x.pa 192 then .trap s1 (t 0x07)
      else
        let record := BitVec.ofNat 1536 (ofBytes ((List.range 192).map fun j => s1.unitByte k.c (x.pa + j)))
        let l := Layout.ofRecord record sc dc
        let raw := s.slotRaw k.c l.slot
        match l.fault (FSlot.ofBits raw) with
        | some c => .trap s1 (t c)
        | none => match s1.copySpots k l l.points [] with
          | (.error e, s2) => .trap s2 { e with lane, taddr := va }
          | (.ok pages, s2) =>
            let dst := l.dstSegs pages l.points
            if !s2.dstRoom k.c dst then .trap s2 (t 0x17)
            else match s2.startCopy k i tag
                { id := 0, op := 0, gid := k.g.gid, cid := k.c.cid, ctx := k.ctx, cluster := k.cluster, core := k.g.core
                  tag, record, slot := BitVec.ofNat 64 raw, sc := l.sc, dc := l.dc, pages, tb
                  own := if k.c.versioned then dst.flatMap fun g => g.1.lines else [], hold := windowBytes (dst.map (·.1))
                  need := kLines k.c (dst.map (·.1)), held := [], accepted := false, ageKey := 0 } with
              | .done s3 => .done (s3.snapDst k.c dst)
              | r => r

/-- The barrier that a copy is charged to (R315, R317). -/
def State.copyBar (s : State) (k : Issuer) (o : OpE) (lane : Nat) (f : Option Nat → Res) : Res :=
  if o.bit 0 then
    match s.tbAt k (k.s64 o.c) fun key =>
      if s.tbLive k.cluster key then f (some key) else .trap s { cause := 0x09 } with
    | .trap s1 t => .trap s1 { t with lane }
    | r => r
  else f none

/-- The tag of a copy may be named (R311). -/
def withTag (s : State) (k : Issuer) (o : OpE) (r : Res) : Res := if s.tagFree k [o.d] then r else .trap s { cause := 0x06 }

def execCpy (o : OpE) (s : State) := issue (.cpy o) s fun k =>
  withTag s k o (s.copyBar k o 0xFF fun tb => copyIssue (.cpy o) o.d (k.s64 o.a) none none tb 0xFF s k)

/-- CPYL (R318): with no active lane it starts no copy, but the tag it names is bound (R311). -/
def execCpyl (o : OpE) (s : State) := issue (.cpyl o) s fun k =>
  withTag s k o (match k.lanes with
    | [] => if s.flagRoom k.g.gid k.p then (s.bindTag k o.d).launchOp k (.cpyl o) .done else .wait s
    | l :: _ =>
      let coords (r : Nat) : List Int := (List.range 4).map fun i => (k.g.rdV (r + i) l).toInt
      s.copyBar k o l fun tb =>
        copyIssue (.cpyl o) o.d (k.g.rdV64 o.a l) (some (coords o.b)) (if o.bit 1 then some (coords (o.b + 4)) else none)
          tb l s k)

/-! ### Acceptance and completion (R308 to R310, R356) -/

def State.copy? (s : State) (id : Nat) : Option Copy := s.copies.find? fun c => c.id == id

def Copy.layout (c : Copy) : Layout := Layout.ofRecord c.record (some c.sc) (some c.dc)

/-- The runs that a copy writes, one for each point. -/
def Copy.dstSegs (c : Copy) : List Seg := (c.layout.dstSegs c.pages c.layout.points).map (·.1)

/-- A crew claims a tile in its cluster's residency table (R356): once, and at most 256 tiles. -/
def State.claimTile (s : State) (cid tile : Nat) : State :=
  match s.crew? cid with
  | none => s
  | some c =>
    if tile ∈ c.claims ∨ 256 ≤ c.claims.length then s
    else match s.resClaim c.cluster c.ctx tile with
      | (s1, true) => s1.setCrew { c with claims := insertAsc tile c.claims }
      | (s1, false) => s1

/-- COPY_ACCEPT (R309): every destination line is in K; DIRTY is set in the destination's leaves (R35), the flag clears, and a
copy to the scratchpad claims its source tiles. -/
def execCopyAccept (cmd : Nat) (s : State) : Host.Outcome State Fault Refusal :=
  .next (match s.copy? cmd with
    | none => s
    | some c =>
      let busy := (s.copies.filter fun x => x.cluster == c.cluster && x.accepted).length
      if c.accepted ∨ !c.need.isEmpty ∨ 256 ≤ busy then s
      else
        let s0 := s.dirtyAll (dstEnts c.dstSegs)
        let s1 : State := { s0 with copies := updWhere (fun x => x.id == cmd) (fun x => { x with accepted := true }) s0.copies }
        let l := c.layout
        let tiles := if l.dst.scratch ∧ !l.points.isEmpty then (c.pages.filter fun p => !p.dst).map fun p => p.va / 24576
          else []
        let s2 := tiles.foldl (fun s t => s.claimTile c.cid t) s1
        match s2.op? c.op with
        | some o => s2.finishOp o
        | none => s2)

/-- One nibble of an element: its byte, and 0 for the low nibble, 1 for the high. -/
abbrev Nib := Place × Nat

/-- A number for a byte's place, distinct for distinct bytes. -/
def Place.key : Place → Nat
  | .phys pa _ => 2 * pa
  | .scratch a => 2 * a + 1

/-- The nibbles of an element at a half-byte address, lowest first. -/
def nibsOf (pages : List CopyPage) (t : TDesc) (dst : Bool) (half : Nat) : List Nib :=
  (List.range t.z2).map fun i => (copyPlace pages t.scratch dst ((half + i) / 2), (half + i) % 2)

/-- What a copy has written so far: nibbles by 2 × byte key + nibble. -/
abbrev CopyWrites := NMap (Option Nat)

/-- The byte at a place, as the copy's unit reads it. -/
def State.copyByte (s : State) (cr : Crew) (p : Place) : Byte := nth 0 (s.segBytes cr { va := 0, place := p, len := 1 }) 0

/-- A source nibble of element `id`: where the copy itself has written it, the element is read as it was before, or as written
(R57, R307, log 18). -/
def State.copyNib (s : State) (cr : Crew) (w : CopyWrites) (n : Nib) (id : Nat) : Nat :=
  let old := (s.copyByte cr n.1).toNat / 16 ^ n.2 % 16
  match NMap.get none w (2 * n.1.key + n.2) with
  | none => old
  | some new => if Config.copyRace s.tick (2 * id) % 2 = 0 then old else new

/-- The dither inputs of a point (R306). -/
def Layout.ditherAt (l : Layout) (c : List Nat) (phase : Nat) : Nat :=
  let x (k : Nat) : Nat := nth 0 c k
  let up (k : Nat) : Nat := (nth 0 l.box k + 7) / 8
  let n := x 0 / 8 + up 0 * (x 1 / 8 + up 1 * (x 2 + nth 0 l.box 2 * x 3))
  dither (8 * (x 1 % 8) + x 0 % 8) ((phase + n) % 64)

/-- The bits that a point is given (R306); `bits` those of the source element, none outside its extents. -/
def Layout.value (l : Layout) (f : FSlot) (c : List Nat) (src : Option Nat) : Nat :=
  let df := elemFmt l.dst.elem
  match src with
  | none => convert (if l.src.fill = 0 then .fin false 0 0 else .nan) df .rn false 0
  | some v =>
    if l.src.elem = l.dst.elem then v
    else
      let cv := f.conv
      convert ((elemFmt l.src.elem).decode v) df cv.mode cv.sat
        (if cv.mode = .sr then l.ditherAt c f.phase else 0)

/-- The nibbles written, the half-bytes counted (R310), and the bytes read. -/
structure CopyRun where
  w : CopyWrites
  halves : Nat
  reads : List Nat
  /-- Destination bytes that depend on a poisoned source sector. -/
  bad : List Nat

/-- One point of a copy. -/
def State.copyPoint (s : State) (cr : Crew) (c : Copy) (l : Layout) (a : CopyRun) (p : CPoint × Nat) : CopyRun :=
  let src := p.1.src.map fun h => nibsOf c.pages l.src false h
  let v := l.value (FSlot.ofBits c.slot.toNat) p.1.c (src.map fun ns =>
    (ns.zipIdx.map fun n => s.copyNib cr a.w n.1 p.2 * 16 ^ n.2).sum)
  let dst := nibsOf c.pages l.dst true p.1.dst
  let dead := dst.any fun n => match n.1 with
    | .scratch b => s.hitsLive cr b 1
    | .phys .. => false
  let poisoned := (src.getD []).any fun n => s.segPoisoned cr { va := 0, place := n.1, len := 1 }
  if dead then a
  else
    { w := dst.zipIdx.foldl (fun w n => NMap.set none w (2 * n.1.1.key + n.1.2) (some (v / 16 ^ n.2 % 16))) a.w
      halves := a.halves + l.dst.z2
      reads := a.reads ++ (src.getD []).map fun n => n.1.key
      bad := if poisoned then a.bad ++ dst.map fun n => n.1.key else a.bad }

/-- The virtual address of a destination byte. -/
def Copy.vaOf (c : Copy) (pa : Nat) : Nat :=
  ((c.pages.find? fun p => p.dst && decide (p.pa ≤ pa) && decide (pa < p.pa + 24576)).map fun p => p.va + (pa - p.pa)).getD 0

/-- The place that a byte key stands for, on a destination page. -/
def Copy.placeOf (c : Copy) (key : Nat) : Place :=
  if key % 2 = 1 then .scratch (key / 2)
  else .phys (key / 2) (c.pages.any fun p => p.dst && p.nc && decide (p.pa ≤ key / 2) && decide (key / 2 < p.pa + 24576))

/-- A byte that the copy has written: its nibbles over the old ones; where the byte is also a source byte it may keep its
old value (R307, log 18). -/
def State.copyStore (s0 : State) (cr : Crew) (c : Copy) (a : CopyRun) (s : State) (key : Nat) : State :=
  let place := c.placeOf key
  let old := (s0.copyByte cr place).toNat
  let nib (i : Nat) : Nat := (NMap.get none a.w (2 * key + i)).getD (old / 16 ^ i % 16)
  if a.reads.contains key ∧ Config.copyRace s0.tick (2 * key + 1) % 2 = 0 then s
  else s.segWrite cr { va := c.vaOf (key / 2), place, len := 1 } [BitVec.ofNat 8 (nib 0 + 16 * nib 1)]

/-- The poisoned units of a store of them (sectors, or words of a scratchpad) after a copy: `unit` gives a written byte's unit,
of `size` bytes; those of bytes that depend on a poisoned source are added, and those written whole and sound are not
poisoned any longer (R307). -/
def poisonAfter (unit : Nat → Option Nat) (size : Nat) (keys bad old : List Nat) : List Nat :=
  let worse := sortAsc (bad.filterMap unit)
  let hit := keys.filterMap unit
  let full := (sortAsc hit).filter fun x => (hit.filter fun y => y == x).length == size && !worse.contains x
  sortAsc (worse ++ old.filter fun x => !full.contains x)

/-- What a copy leaves poisoned (R307, R417): sectors of memory, a window's among them, in the version of a versioned unit,
and words of the scratchpad. -/
def State.copyPoison (s : State) (cr : Crew) (keys bad : List Nat) : State :=
  let sector (k : Nat) : Option Nat := if k % 2 = 0 then some (k / 2 / 48) else none
  let word (k : Nat) : Option Nat := if k % 2 = 1 then some (s.scratchAt cr (k / 2) / 8) else none
  let cl := s.cluster cr.cluster
  let s1 := s.setCluster cr.cluster { cl with badWords := poisonAfter word 8 keys bad cl.badWords }
  if cr.versioned then match s1.version? cr.cid with
    | some v => s1.setVersion { v with bad := poisonAfter sector 48 keys bad v.bad }
    | none => s1
  else { s1 with poison := poisonAfter sector 48 keys bad s1.poison }

/-- What a copy writes of the bytes that `pick` names, and the bytes it counts in all (R306, R307, R310). -/
def State.copyData (s : State) (cr : Crew) (c : Copy) (pick : Nat → Bool) : State × Nat :=
  let l := c.layout
  let a := l.points.zipIdx.foldl (s.copyPoint cr c l) { w := [], halves := 0, reads := [], bad := [] }
  let keys := (dedupe (a.w.map fun e => e.1 / 2)).filter pick
  ((keys.foldl (s.copyStore cr c a) s).copyPoison cr keys (a.bad.filter pick), a.halves / 2)

/-- A byte that a copy has still to write: one of a line that it has not given up (R47). -/
def Copy.toWrite (c : Copy) (cr : Crew) (key : Nat) : Bool := cr.versioned || match c.placeOf key with
  | .scratch _ => true
  | .phys pa nc => nc || rangeOf pa != .device || c.held.contains (lineOf pa)

/-- An accepted copy writes one of the lines that it holds, and gives it up by EndK (R47). -/
def State.copyLine (s : State) (c : Copy) (line : Nat) : State :=
  let s1 := match s.crew? c.cid with
    | some cr => (s.copyData cr c fun key => key % 2 == 0 && lineOf (key / 2) == line).1
    | none => s
  (s1.endK line c.id).setLines c.id c.need (c.held.filter fun l => l != line)

/-- The tag and the barrier of a copy are updated in one step (R310, R311, R314). -/
def State.copyCount (s : State) (c : Copy) (n : Nat) : State :=
  let t := (s.core c.core).tag c.tag
  let s1 := s.setTag c.core c.tag { t with cnt := t.cnt - 1, done := t.done || t.cnt == 1 }
  match c.tb with
  | none => s1
  | some key =>
    if s1.tbLive c.cluster key then
      let w := s1.tbWord c.cluster key
      s1.tbPut c.cluster key (tbMake (tbPhase w) (tbArrive w) (tbInit w) (tbTx w + (2 ^ 28 - n % 2 ^ 28)))
    else s1

/-- The engine can make the copy's writes now: DIRTY stands in its leaves (R35), and a versioned unit's lines can enter V
(R48) and are written by no earlier command of the unit (R59). -/
def State.copyReady (s : State) (c : Copy) : Bool :=
  c.accepted && s.dirtyDone c.dstSegs && match s.crew? c.cid with
    | some cr => s.versionReady cr c.dstSegs && s.dstFree cr c.id (.copy c.cluster) c.dstSegs
    | none => true

/-- A copy that cannot go on asks for the snoop-filter entries of its unit's version (R49). -/
def State.copyAsk (s : State) (c : Copy) : State := match s.crew? c.cid with
  | some cr => if c.accepted then s.askVersion cr c.dstSegs else s
  | none => s

/-- COPY_COMPLETE (R310): an accepted copy makes its last writes, releases its lines and counts. -/
def execCopyComplete (cmd : Nat) (s : State) : Host.Outcome State Fault Refusal :=
  .next (match s.copy? cmd with
    | none => s
    | some c =>
      if !s.copyReady c then s.copyAsk c
      else
        let (s1, n) := match s.crew? c.cid with
          | some cr => s.copyData cr c (c.toWrite cr)
          | none => (s, 0)
        let s2 := (s1.endLines c.id c.held).copyCount c n
        { s2 with copies := s2.copies.filter fun x => x.id != cmd })

end Sys2Proof.Machine
end

