-- ==== Sys2Proof/Machine/Reduce.lean ====
section
/-! DEFINITION. The stack-side reduce engines: command records and their checks (R326 to R328), acceptance (R329), the
reduction (R330, R331), the completion word (R327, R332), and SRSTAT (R334 to R336). -/

namespace Sys2Proof.Machine

/-! ### Records (R326, R328) -/

/-- A command record's fields (Table 14-1). -/
structure SRec where
  table : Nat
  index : Nat
  wgt : Nat
  out : Nat
  done : Nat
  token : Nat
  nrows : Nat
  pitch : Nat
  nidx : Nat
  len : Nat
  ifmt : Nat
  ofmt : Nat
  op : Nat
  dcnt : Bool
  rsv : Bool

def SRec.ofBits (n : Nat) : SRec :=
  { table := bits n 63 0, index := bits n 127 64, wgt := bits n 191 128, out := bits n 255 192, done := bits n 319 256
    token := bits n 351 320, nrows := bits n 383 352, pitch := bits n 415 384, nidx := bits n 431 416
    len := bits n 443 432 + 1, ifmt := bits n 451 448, ofmt := bits n 455 452, op := bits n 457 456
    dcnt := n.testBit 458, rsv := bits n 511 459 != 0 || bits n 447 444 != 0 }

/-- A code of IFMT or OFMT. -/
def sredFmt (c : Nat) : Bool := decide (1 ≤ c) && decide (c ≤ 3)
def SRec.z (r : SRec) : Nat := (elemFmt r.ifmt).width / 8
def SRec.y (r : SRec) : Nat := (elemFmt r.ofmt).width / 8

/-- Steps 4 to 6 of R328: the cause and the address that it names; `rec`: the record's own address. -/
def SRec.fault (r : SRec) (va : Nat) : Option (Nat × Nat) :=
  if r.rsv then some (0x02, va)
  else if r.op = 3 ∨ !sredFmt r.ifmt ∨ !sredFmt r.ofmt ∨ r.nrows = 0 then some (0x01, va)
  else if r.table % r.z ≠ 0 then some (0x04, r.table)
  else if r.pitch % r.z ≠ 0 then some (0x04, va)
  else if r.nidx ≠ 0 ∧ r.index % 4 ≠ 0 then some (0x04, r.index)
  else if r.nidx ≠ 0 ∧ r.wgt % 4 ≠ 0 then some (0x04, r.wgt)
  else if r.out % r.y ≠ 0 then some (0x04, r.out)
  else if r.done % 8 ≠ 0 then some (0x04, r.done)
  else none

/-- A command whose record has passed every check, with the leaf entries of its destinations. -/
structure SChecked where
  cmd : Sred
  dst : List (Seg × Nat)

/-- Step 7 of R328: every range is translated; none of a list is read where NIDX is 0 or the weights are absent. -/
def State.sredRanges (s : State) (c : Crew) (r : SRec) :
    Except Trap (List Seg × List Seg × List Seg × List (Seg × Nat) × List (Seg × Nat)) × State :=
  let run (s : State) (use : EngUse) (rule : EngRule) (va len : Nat) :=
    if len = 0 then (Except.ok [], s) else s.range c use rule false va len
  let nc : EngRule := { nc := true }
  match run s .src nc r.table 1 with
  | (.error t, s1) => (.error t, s1)
  | (.ok tab, s1) => match run s1 .src nc r.index (4 * r.nidx) with
    | (.error t, s2) => (.error t, s2)
    | (.ok idx, s2) => match run s2 .src nc r.wgt (if r.wgt = 0 then 0 else 4 * r.nidx) with
      | (.error t, s3) => (.error t, s3)
      | (.ok wgt, s3) => match run s3 .dst {} r.out (r.len * r.y) with
        | (.error t, s4) => (.error t, s4)
        | (.ok out, s4) => match run s4 .dst {} r.done 8 with
          | (.error t, s5) => (.error t, s5)
          | (.ok fin, s5) => (.ok (tab.map (·.1), idx.map (·.1), wgt.map (·.1), out, fin), s5)

/-- The physical address of a run in memory. -/
def Seg.pa (g : Seg) : Nat := match g.place with
  | .phys pa _ => pa
  | .scratch _ => 0

/-- The checks of one record (R328). The cluster reads it with RdU, for which the split stalls: no trap, where the line is not
to be read now. -/
def State.sredCheck (s : State) (k : Issuer) (va : Nat) : Except (Option Trap) SChecked × State :=
  let t (c a : Nat) : Option Trap := some { cause := c, taddr := BitVec.ofNat 64 a }
  if va % 64 ≠ 0 then (.error (t 0x04 va), s)
  else if inWindow va then (.error (t 0x06 va), s)
  else match s.translate k.ctx va .read with
    | (.error c, s1) => (.error (t c va), s1)
    | (.ok x, s1) =>
      if rangeOf x.pa ≠ .device then (.error (t 0x06 va), s1)
      else if !s1.rduFree x.pa then (.error none, s1)
      else if s1.unitPoisoned k.c x.pa 64 then (.error (t 0x07 va), s1)
      else
        let record := BitVec.ofNat 512 (ofBytes ((List.range 64).map fun j => s1.unitByte k.c (x.pa + j)))
        let r := SRec.ofBits record.toNat
        match r.fault va with
        | some (c, a) => (.error (t c a), s1)
        | none => match s1.sredRanges k.c r with
          | (.error e, s2) => (.error (some e), s2)
          | (.ok (tab, idx, wgt, out, fin), s2) =>
            let done := ((fin.map (·.1.pa)).head?).getD 0
            if (out.flatMap fun g => g.1.lines).contains (lineOf done) then (.error (t 0x01 va), s2)
            else if k.c.versioned then (.error (t 0x06 va), s2)
            else
              let cmd : Sred :=
                { id := 0, op := 0, cid := k.c.cid, ctx := k.ctx, stack := stackOfPa (((tab.map Seg.pa).head?).getD 0)
                  recAddr := BitVec.ofNat 64 va, record, idx, wgt, out := out.map (·.1), fin := done
                  finEnt := ((fin.map (·.2)).head?).getD 0, ended := none
                  need := sortAsc (out.flatMap fun g => g.1.lines), held := [], accepted := false, ageKey := 0 }
              (.ok { cmd, dst := out ++ fin }, s2)

/-- The records are checked one after another before any command starts (R335). -/
def State.sredChecks (s : State) (k : Issuer) : List Nat → Except (Option Trap × Nat) (List SChecked) × State
  | [] => (.ok [], s)
  | va :: l => match s.sredCheck k va with
    | (.error t, s1) => (.error (t, va), s1)
    | (.ok c, s1) => match s1.sredChecks k l with
      | (.error e, s2) => (.error e, s2)
      | (.ok cs, s2) => (.ok (c :: cs), s2)

/-- Commands that an engine holds. -/
def State.sredHeld (s : State) (stack : Nat) : Nat := (s.sreds.filter fun c => c.stack == stack).length

/-- There is room at each engine and in the crew's count (R328). -/
def State.sredRoom (s : State) (k : Issuer) (cs : List SChecked) : Bool :=
  (cs.all fun c => decide (s.sredHeld c.cmd.stack + (cs.filter fun d => d.cmd.stack == c.cmd.stack).length ≤ 256))
    && decide (k.c.outst + cs.length ≤ 1023)

/-- The commands start: each gets its age key, and the operation lasts until the last is accepted. -/
def State.sredStart (s : State) (k : Issuer) (op : Nat) : List SChecked → State
  | [] => s
  | c :: l =>
    let (age, s1) := s.newAge (dieOfCluster k.cluster) (.stack c.cmd.stack)
    State.sredStart { s1 with sreds := s1.sreds ++ [{ c.cmd with id := s1.nextId, op, ageKey := age }]
                              nextId := s1.nextId + 1 } k op l

/-- SRED and SREDB. -/
def sredIssue (i : Instr) (vas : List Nat) (batch : Bool) (s : State) (k : Issuer) : Res :=
  match s.sredChecks k vas with
  | (.error (none, _), s1) => .wait s1
  | (.error (some t, va), s1) =>
    .trap s1 (if batch then { t with taddr := BitVec.ofNat 64 va, page := some (t.page.getD t.taddr) } else t)
  | (.ok cs, s1) =>
    let dst := cs.flatMap (·.dst)
    if !s1.dstRoom k.c dst then .trap s1 { cause := 0x17, taddr := BitVec.ofNat 64 (vas.headD 0) }
    else if !s1.flagRoom k.g.gid k.p ∨ !s1.sredRoom k cs then .wait s1
    else
      let op := s1.nextId
      match (s1.snapDst k.c dst).launchOp k i (.sred ((List.range cs.length).map fun j => op + 1 + j)) with
      | .done s2 => .done ((s2.sredStart k op cs).setCrew { k.c with outst := k.c.outst + cs.length })
      | r => r

def execSred (o : OpE) (s : State) := issue (.sred o) s fun k => sredIssue (.sred o) [(k.s64 o.a).toNat] false s k

def execSredb (o : OpE) (s : State) := issue (.sredb o) s fun k =>
  let b := (k.s o.b).toNat
  if b = 0 ∨ 32 < b then .trap s { cause := 0x01 }
  else sredIssue (.sredb o) ((List.range b).map fun i => ((k.s64 o.a).toNat + 64 * i) % 2 ^ 64) true s k

/-! ### Acceptance (R329) -/

def State.sred? (s : State) (id : Nat) : Option Sred := s.sreds.find? fun c => c.id == id

/-- Every command of an operation has been accepted. -/
def State.sredAllIn (s : State) (op : Nat) : Bool := s.sreds.all fun c => c.op != op || c.accepted

/-- The leaf entries of a command's destinations. -/
def Sred.dstEnts (c : Sred) : List Nat := Machine.dstEnts c.out ++ [c.finEnt]

/-- SRED_ACCEPT: every output line is in K; DIRTY is set in the destinations' leaves (R35), and, with its last command accepted, the operation completes. -/
def execSredAccept (cmd : Nat) (s : State) : Host.Outcome State Fault Refusal :=
  .next (match s.sred? cmd with
    | none => s
    | some c =>
      if c.accepted ∨ !c.need.isEmpty then s
      else
        let s0 := s.dirtyAll c.dstEnts
        let s1 : State := { s0 with sreds := updWhere (fun x => x.id == cmd) (fun x => { x with accepted := true }) s0.sreds }
        if s1.sredAllIn c.op then match s1.op? c.op with
          | some o => s1.finishOp o
          | none => s1
        else s1)

/-! ### The reduction (R330) -/

/-- acc / n rounded to FP32. -/
def meanOf (acc : Word) (n : Nat) : Word := match f32 acc with
  | .fin neg m e => if m = 0 then acc
    else toF32 (withSticky neg (m * 2 ^ 64 / n) (m * 2 ^ 64 % n == 0) (e - 64)) .rn
  | _ => acc

/-- One output element from the exact products, in index-list order. -/
def reduceElem (op : Nat) (ps : List FVal) : Word :=
  let step (acc : Option Word) (p : FVal) : Option Word := some (match acc with
    | none => toF32 p .rn
    | some a => if op = 2 then pickNumber false a (toF32 p .rn) else toF32 ((f32 a).add p .rn) .rn)
  let acc := (ps.foldl step none).getD 0
  if op = 1 ∧ !ps.isEmpty then meanOf acc ps.length else acc

/-- The output bytes written so far, by physical address. -/
abbrev SWrites := NMap (Option Byte)

/-- A byte of table element `id`: where the command itself has written it, the element is read as it was, or as written (R330, log
18). -/
def State.sredByte (s : State) (w : SWrites) (pa id : Nat) : Byte :=
  match NMap.get none w pa with
  | none => s.rdB pa
  | some b => if Config.copyRace s.tick (2 * id) % 2 = 0 then s.rdB pa else b

/-- The physical addresses of the bytes of some runs, in order. -/
def segPas (l : List Seg) : List Nat := l.flatMap fun g => (List.range g.len).map fun i => g.pa + i

/-- One row of the bag: its weight, its list position and the addresses of its bytes. -/
structure SRow where
  weight : Option Word
  pas : List Nat

/-- Output element `j`: the bytes it is given after those already written. -/
def State.sredElem (s : State) (r : SRec) (rows : List SRow) (out : List Nat) (w : SWrites) (j : Nat) : SWrites :=
  let z := r.z
  let ps := rows.zipIdx.map fun e =>
    let v := ofBytes ((List.range z).map fun i =>
      s.sredByte w (nth 0 e.1.pas (j * z + i)) (r.len * e.2 + j))
    let x := (elemFmt r.ifmt).decode v
    match e.1.weight with
    | some g => (f32 g).mul x
    | none => x
  let y := convert (f32 (reduceElem r.op ps)) (elemFmt r.ofmt) .rn false 0
  (toBytes r.y y).zipIdx.foldl (fun w b => NMap.set none w (nth 0 out (j * r.y + b.2)) (some b.1)) w

/-- Where an output byte is also an input byte it may keep its value (R330, log 18). -/
def State.sredStore (s0 : State) (cr : Crew) (inputs : List Nat) (vaOf : Nat → Nat) (s : State) (e : Nat × Option Byte) :
    State :=
  match e.2 with
  | none => s
  | some b =>
    if inputs.contains e.1 ∧ Config.copyRace s0.tick (2 * e.1 + 1) % 2 = 0 then s
    else s.segWrite cr { va := vaOf e.1, place := .phys e.1 false, len := 1 } [b]

/-! ### Checks before any output (R331) -/

/-- What the list and the rows come to. -/
inductive SFound where
  | bad (status pos : Nat)
  | rows (l : List SRow)

/-- The lowest position at which `p` holds. -/
def firstAt (n : Nat) (p : Nat → Bool) : Option Nat := (List.range n).find? p

/-- Word `i` of a list. -/
def State.sredWord (s : State) (pas : List Nat) (i : Nat) : Word :=
  BitVec.ofNat 32 (ofBytes ((List.range 4).map fun b => s.rdB (nth 0 pas (4 * i + b))))

/-- Translation of every row of the bag: a row's runs, or none where it fails. -/
def State.sredRows (s : State) (c : Sred) (r : SRec) : List Nat → List (Option (List Seg)) × State
  | [] => ([], s)
  | i :: l =>
    let n := r.z * r.len
    let va := (r.table + i * r.pitch) % 2 ^ 64
    let (e, s1) := s.rangeAt c.ctx .src { nc := true } (n / 24576 + 2) va n
    let (rest, s2) := s1.sredRows c r l
    ((match e with
      | .ok g => some (g.map (·.1))
      | .error _ => none) :: rest, s2)

/-- The whole list is read and every row is translated and checked, in the precedence of R331. -/
def State.sredLook (s : State) (c : Sred) (r : SRec) : SFound × State :=
  let n := r.nidx
  let ip := segPas c.idx
  let wp := segPas c.wgt
  let sick (pas : List Nat) (i : Nat) : Bool := (List.range 4).any fun b => s.poisoned (nth 0 pas (4 * i + b)) 1
  match firstAt n fun i => sick ip i || (r.wgt != 0 && sick wp i) with
  | some i => (.bad 4 i, s)
  | none =>
    let is := (List.range n).map fun i => (s.sredWord ip i).toNat
    match firstAt n fun i => decide (r.nrows ≤ nth 0 is i) with
    | some i => (.bad 1 i, s)
    | none =>
      let (rows, s1) := s.sredRows c r is
      match firstAt n fun i => (nth none rows i).isNone with
      | some i => (.bad 2 i, s1)
      | none => match firstAt n fun i => ((nth none rows i).getD []).any fun g => stackOfPa g.pa != c.stack with
        | some i => (.bad 3 i, s1)
        | none => (.rows (rows.zipIdx.map fun e =>
            { weight := if r.wgt = 0 then none else some (s.sredWord wp e.2), pas := segPas (e.1.getD []) }), s1)

/-! ### Work and completion (R330 to R332) -/

/-- The virtual address of an output byte. -/
def Sred.vaOf (c : Sred) (pa : Nat) : Nat :=
  ((c.out.find? fun g => decide (g.pa ≤ pa) && decide (pa < g.pa + g.len)).map fun g => g.va + (pa - g.pa)).getD 0

/-- The output of a command that meets no error in its lists and rows: status 0, or 5 with the position of the first
poisoned row. -/
def State.sredOutput (s : State) (cr : Crew) (c : Sred) (r : SRec) (rows : List SRow) : State × Nat × Nat :=
  let out := segPas c.out
  let w := (List.range r.len).foldl (s.sredElem r rows out) []
  let inputs := rows.flatMap (fun x => x.pas) ++ segPas c.idx ++ segPas c.wgt
  let s1 := w.foldl (s.sredStore cr inputs c.vaOf) s
  let sickElem (x : SRow) (j : Nat) : Bool := (List.range r.z).any fun i => s.poisoned (nth 0 x.pas (j * r.z + i)) 1
  let bad := ((List.range r.len).filter fun j => rows.any fun x => sickElem x j).flatMap fun j =>
    (List.range r.y).map fun i => 2 * nth 0 out (j * r.y + i)
  let s2 := s1.copyPoison cr (out.map fun pa => 2 * pa) bad
  match firstAt rows.length fun i => match rows[i]? with
      | some x => (List.range r.len).any (sickElem x)
      | none => false with
  | some i => (s2, 5, i)
  | none => (s2, 0, 0)

/-- The output is made and the lines are given up; the command has its status. -/
def State.sredWork (s : State) (c : Sred) : State :=
  match s.crew? c.cid with
  | none => s
  | some cr =>
    let r := SRec.ofBits c.record.toNat
    let (s1, st, pos) := match s.sredLook c r with
      | (.bad st pos, s1) => (s1, st, pos)
      | (.rows rows, s1) => s1.sredOutput cr c r rows
    let s2 := s1.endLines c.id c.held
    { s2 with sreds := updWhere (fun x => x.id == c.id) (fun x => { x with held := [], ended := some (st, pos) }) s2.sreds }

/-- The bytes of the completion word (R332). -/
def State.sredWordOut (s : State) (c : Sred) (r : SRec) (st pos : Nat) : List Byte :=
  if r.dcnt then toBytes 8 (s.rdN c.fin 8 + (if st = 0 then 1 else 2 ^ 32))
  else toBytes 8 (2 ^ 63 + st * 2 ^ 48 + pos * 2 ^ 32 + r.token)

/-- The crew's error state after a command (Table 14-6). -/
def Crew.sredEnd (c : Crew) (recAddr : DWord) (st pos : Nat) : Crew :=
  let c1 := { c with outst := c.outst - 1 }
  if st = 0 then c1
  else { c1 with nerr := min 65535 (c.nerr + 1), lastRec := recAddr, lastSt := st, lastPos := pos }

/-- The completion word is written, once its home takes the write, and the command is over. DESIGN CHOICE (log 112): the
read-modify-write of count mode takes the bytes of a word in a poisoned sector as they stand, neither consuming nor reporting the
error. -/
def State.sredFinish (s : State) (c : Sred) (st pos : Nat) : State :=
  if !s.dirReady (lineOf c.fin) (.wr none none []) ∨ s.dirtyPending c.finEnt then s
  else
    let r := SRec.ofBits c.record.toNat
    let gone : State := { s with sreds := s.sreds.filter fun x => x.id != c.id }
    match gone.crew? c.cid with
    | none => gone
    | some cr =>
      let s1 := gone.homeStore cr c.fin r.done (s.sredWordOut c r st pos)
      s1.setCrew (cr.sredEnd c.recAddr st pos)

/-- SRED_COMPUTE: an accepted command makes its output and then its completion word. -/
def execSredCompute (cmd : Nat) (s : State) : Host.Outcome State Fault Refusal :=
  .next (match s.sred? cmd with
    | none => s
    | some c =>
      if !c.accepted then s
      else
        let s1 := if c.ended.isSome ∨ !s.dirtyDone c.out then s else s.sredWork c
        match s1.sred? cmd with
        | none => s1
        | some d => match d.ended with
          | some (st, pos) => s1.sredFinish d st pos
          | none => s1)

/-! ### SRSTAT (R336) -/

/-- A pair of scalar registers. -/
def pairRegs (s : State) (k : Issuer) (d : Nat) (lo hi : Word) : Res := .done (s.setGroup (k.g.wrSs k.p.num d [lo, hi]))

def execSrstatCnt (o : OpE) (s : State) := issue (.srstatCnt o) s fun k =>
  pairRegs s k o.d (BitVec.ofNat 32 k.c.outst) (BitVec.ofNat 32 k.c.nerr)

def execSrstatErr (o : OpE) (s : State) := issue (.srstatErr o) s fun k =>
  pairRegs s k o.d (lo32 k.c.lastRec) (hi32 k.c.lastRec)

def execSrstatCode (o : OpE) (s : State) := issue (.srstatCode o) s fun k =>
  pairRegs s k o.d (BitVec.ofNat 32 (k.c.lastPos * 2 ^ 8 + k.c.lastSt)) 0

def execSrstatClr (o : OpE) (s : State) := issue (.srstatClr o) s fun k =>
  .done (s.setCrew { k.c with nerr := 0, lastRec := 0, lastSt := 0, lastPos := 0 })

end Sys2Proof.Machine
end

