-- ==== Sys2Proof/Machine/Place.lean ====
section
/-! DEFINITION. Task and launch records (R342, R349), the placement score and the predicted current (R359, R362), starting a
unit on a cluster with its scratchpad and barriers (R16, R21, R22, R175, R190, R203), ready tables (R360), and
distribution (R354). -/

namespace Sys2Proof.Machine

/-! ### Records -/

def TaskRec.f (t : TaskRec) (hi lo : Nat) : Nat := Sys2Proof.Machine.bits t.bits.toNat hi lo
def TaskRec.tag (t : TaskRec) : Nat := t.f 463 448
def TaskRec.pin (t : TaskRec) : Bool := t.bits.toNat.testBit 471

/-- A reserved field of a task record or of one of its read ranges is not zero (Tables 15-4 and 15-5). -/
def TaskRec.reservedBad (t : TaskRec) : Bool :=
  t.f 511 488 != 0 || t.f 479 473 != 0 || t.f 447 440 != 0 || t.f 383 376 != 0

/-- A read range (Table 15-5). -/
structure ReadRange where
  first : Nat
  count : Nat
  weight : Nat
  deriving DecidableEq, Repr

def ReadRange.ofBits (n : Nat) : ReadRange := { first := bits n 39 0, count := bits n 47 40, weight := bits n 55 48 }

def TaskRec.ranges (t : TaskRec) : List ReadRange := [ReadRange.ofBits (t.f 383 320), ReadRange.ofBits (t.f 447 384)]

/-- The crews of a grid; the root tasks of a root set. -/
def Launch.units (l : Launch) : Nat :=
  if l.f 376 376 = 0 then l.f 143 128 * l.f 159 144 * l.f 175 160 else l.f 303 288

/-- Read range 0 of crew `c` (R342). -/
def Launch.crewRange (l : Launch) (c : Nat) : ReadRange :=
  let r := ReadRange.ofBits (l.f 255 192)
  { r with first := (r.first + c * l.f 287 256) % 2 ^ 40 }

/-- The order of launches on the device (R341). -/
def Launch.order (l : Launch) : List Nat := [l.index, l.ctx, l.queue]

/-- The launch that a slot of a context names: one that has started and not ended (R353, R366). -/
def State.launchAt (s : State) (ctx slot : Nat) : Option Launch :=
  s.launches.find? fun l => l.ctx == ctx && l.started && l.queue == slot / 32 && l.index % 32 == slot % 32

/-- The launch that a task record joins: with SLOT = 1 the one that LSLOT names, else that of the unit that makes it ready
(R349). -/
def State.launchFor (s : State) (ctx lid : Nat) (t : TaskRec) : Option Launch :=
  if t.bits.toNat.testBit 472 then s.launchAt ctx (t.f 487 480) else s.launch? lid

def State.addLive (s : State) (lid : Nat) (n : Int) : State :=
  match s.launch? lid with
  | some l => s.setLaunch { l with live := l.live + n }
  | none => s

/-! ### Units to start -/

/-- A crew or a task as it is to be started (R24, R342, R349). -/
structure UnitSpec where
  lid : Nat
  ctx : Nat
  size : Nat
  regs : Nat
  scratch : Nat
  nbar : Nat
  entry : DWord
  arg : DWord
  prio : Nat
  ecls : Nat
  task : Option TaskRec
  index : Nat
  ranges : List ReadRange
  deriving DecidableEq, Repr

/-- Crew `c` of a grid. -/
def Launch.crewSpec (l : Launch) (c : Nat) : UnitSpec :=
  { lid := l.lid, ctx := l.ctx, size := l.f 307 304 + 1, regs := l.f 335 320, scratch := l.f 367 336, nbar := l.f 319 312
    entry := BitVec.ofNat 64 (l.f 63 0), arg := BitVec.ofNat 64 (l.f 127 64), prio := l.f 383 380, ecls := l.f 370 368
    task := none, index := c, ranges := [l.crewRange c] }

/-- A task of a launch. Its first clause stands at ENTRY with bits [2:0] cleared (R349). -/
def Launch.taskSpec (l : Launch) (t : TaskRec) (prio : Nat) : UnitSpec :=
  { lid := l.lid, ctx := l.ctx, size := 1, regs := l.f 335 320, scratch := l.f 367 336, nbar := l.f 319 312
    entry := BitVec.ofNat 64 (t.f 63 0 / 8 * 8), arg := BitVec.ofNat 64 (t.f 127 64), prio, ecls := t.f 470 468
    task := some t, index := 0, ranges := t.ranges }

/-- A crew as its launch or task record would start it again (R387). -/
def State.specOf (s : State) (c : Crew) (prio : Nat) : Option UnitSpec :=
  (s.launch? c.lid).map fun l => match c.task with
    | some t => l.taskSpec t prio
    | none => { l.crewSpec c.index with prio }

/-! ### Scores and currents (R359, R362) -/

/-- Some handle that covers a tile is being evicted. -/
def Context.evictingAt (x : Context) (tile : Nat) : Bool := x.handles.any fun h => h.2.covers tile && h.2.evicting

/-- SCORE(k, u) of R359 for the read ranges of u. -/
def State.score (s : State) (k ctx : Nat) (rs : List ReadRange) : Nat :=
  (rs.map fun r => r.weight * ((List.range r.count).filter fun i =>
    let t := (r.first + i) % 2 ^ 40
    ((s.cluster k).resFind ctx t).isSome && !(s.ctx ctx).evictingAt t).length).sum

/-- The energy class of a unit (R362). -/
def State.unitEcls (s : State) (c : Crew) : Nat := match c.task with
  | some t => t.f 470 468
  | none => ((s.launch? c.lid).map fun l => l.f 370 368).getD 0

/-- The predicted current of a cluster. -/
def State.current' (s : State) (k : Nat) : Nat :=
  (s.groups.map fun g => if g.core / 4 = k ∧ !g.retired then
      match s.crew? g.cid with
      | some c => (s.ctx c.ctx).cost (s.unitEcls c)
      | none => 0
    else 0).sum

/-- The other cluster of a series pair (R2). -/
def partner (k : Nat) : Nat := if k % 2 = 0 then k + 1 else k - 1

/-- The predicted difference of a cluster's series pair after a current is added to it. -/
def State.pairDiff (s : State) (k cost : Nat) : Nat :=
  ((s.current' k + cost : Nat) - (s.current' (partner k) : Nat) : Int).natAbs

/-- The current that a unit adds. -/
def State.costOf (s : State) (u : UnitSpec) : Nat := u.size * (s.ctx u.ctx).cost u.ecls

/-- Lexicographic order of integer keys. -/
def keyLess : List Int → List Int → Bool
  | a :: as, b :: bs => decide (a < b) || (decide (a = b) && keyLess as bs)
  | _, _ => false

/-- The first element whose key is least. -/
def argMin {α : Type} (key : α → List Int) (l : List α) : Option α :=
  l.foldl (fun b x => match b with
    | none => some x
    | some y => if keyLess (key x) (key y) then some x else b) none

/-- The clusters of a die. -/
def clustersOf (die : Nat) : List Nat := (List.range 24).map fun i => 24 * die + i

/-- The best of some clusters for a unit (R360): the highest score, the smallest pair difference, the lowest number. -/
def State.bestCluster (s : State) (u : UnitSpec) (ks : List Nat) : Option Nat :=
  argMin (fun k => [-(s.score k u.ctx u.ranges : Int), (s.pairDiff k (s.costOf u) : Int), (k : Int)]) ks

/-! ### Room for a unit (R16, R21, R22, R175, R190) -/

/-- Groups resident on a core. -/
def State.coreGroups (s : State) (core : Nat) : Nat := (s.groups.filter fun g => g.core == core && !g.retired).length

/-- How many groups of a register count a core takes (R16). -/
def State.coreRoom (s : State) (core regs : Nat) : Nat :=
  min (16 - s.coreGroups core) (if regs = 0 then 0 else s.freeRows core / regs)

def coresOf (k : Nat) : List Nat := (List.range 4).map fun i => 4 * k + i

def State.groupRoom (s : State) (k n regs : Nat) : Bool := decide (n ≤ ((coresOf k).map fun c => s.coreRoom c regs).sum)

/-- Named barriers in use on a cluster (R203). -/
def State.barsUsed (s : State) (k : Nat) : Nat := (s.crews.map fun c => if c.cluster = k then c.bars.length else 0).sum

/-- Rows of `n` words that an allocation takes (R175). -/
def rowsFor (n size : Nat) : Nat := (size + 8 * n - 1) / (8 * n)

/-- The rows in use on a cluster, as (first, count). -/
def State.scratchUsed (s : State) (k n : Nat) : List (Nat × Nat) :=
  s.crews.filterMap fun c =>
    if c.cluster = k ∧ 0 < c.scratchSize then some (c.scratchBase / n, rowsFor n c.scratchSize) else none

/-- The row from which a new allocation starts. DESIGN CHOICE (log 105): the lowest from which it fits, where the spec asks
only for a whole row (R175). -/
def State.scratchRow (s : State) (k n size : Nat) : Option Nat :=
  let used := s.scratchUsed k n
  let need := rowsFor n size
  let ok (r : Nat) : Bool := decide (r + need ≤ 6144) && used.all fun e => decide (r + need ≤ e.1) || decide (e.1 + e.2 ≤ r)
  if n = 0 then none else ((sortAsc (0 :: used.map fun e => e.1 + e.2)).filter ok).head?

/-- Some crew holds an allocation on a cluster. -/
def State.scratchHeld (s : State) (k : Nat) : Bool := s.crews.any fun c => c.cluster == k && decide (0 < c.scratchSize)

/-- The banks of R190 that switch to SCRATCH and those that return to CACHE before a unit starts; none where its
allocation cannot fit. -/
def State.resizePlan (s : State) (k size : Nat) : Option (List Nat × List Nat) :=
  let cl := s.cluster k
  let n := (cl.banksIn .scratch).length
  if s.scratchHeld k then
    if size = 0 ∨ (s.scratchRow k n size).isSome then some ([], []) else none
  else
    let m := (size + 49151) / 49152
    let down := (cl.banksIn .cache).reverse
    let order := (down.filter fun i => (cl.bank i).auto) ++ down.filter fun i => !(cl.bank i).auto
    if m ≤ n then some ([], ((cl.banksIn .scratch).filter fun i => (cl.bank i).auto).take (n - m))
    else if m - n ≤ order.length then some (order.take (m - n), []) else none

/-- A unit can start whole on a cluster (R21, R361): its context is resident and in, and group places, register rows,
scratchpad and barriers suffice. -/
def State.canStart (s : State) (k : Nat) (u : UnitSpec) : Bool :=
  let x := s.ctx u.ctx
  x.registered && !x.out && (s.bankBusy k).isNone && (s.resizePlan k u.scratch).isSome && s.groupRoom k u.size u.regs
    && decide (s.barsUsed k + u.nbar ≤ 128)

/-- The resize can be made now: every dirty NC line that a bank leaving CACHE holds can be written back. -/
def State.resizeReady (s : State) (k size : Nat) : Bool :=
  match s.resizePlan k size with
  | some ([], _) => true
  | some _ => (s.cluster k).cache.all fun l => s.canWriteBack l
  | none => false

/-- SCRATCH_RESIZE (R190): a bank switched to SCRATCH is marked AUTO, and one returned to CACHE keeps its mark. -/
def State.resize (s : State) (k size ctx : Nat) : State :=
  match s.resizePlan k size with
  | some (up, back) => (s.switchBanks k up .scratch true ctx).switchBanks k back .cache true ctx
  | none => s

/-! ### Starting a unit -/

/-- A split as it starts (R18): every lane active, at a clause. -/
def Split.start (entry : DWord) : Split :=
  { num := 0, exec := allLanes, memb := allLanes, pc := entry, cl := none, widx := 0, entry := 0, rep := Rep.idle
    jpc := none, stack := [], trap := TrapRegs.zero, hmode := false, owed := [], tcap := none, watch := none
    hold := .none, yieldTo := [], passed := [], retained := none }

/-- A group as it is created; its registers read 0 (log 5). -/
def Group.start (gid cid gidx core : Nat) (u : UnitSpec) : Group :=
  { gid, cid, gidx, core, prio := u.prio, age := gid, count := u.regs, v := [], sr := [], soft0 := 0, hstat := 0
    claim := 0, splits := [Split.start u.entry], gbarScope := 0, lastExit := u.entry, retired := false, revived := false
    parked := none, endReq := false, stopReq := false, stopped := false, pinned := false }

/-- A core of a cluster with room for one more group, as `Config.place` picks it (log 19). -/
def State.pickCore (s : State) (k regs i : Nat) : Nat :=
  let cs := (coresOf k).filter fun c => decide (1 ≤ s.coreRoom c regs)
  nth (4 * k) cs (Config.place s.tick i % max 1 cs.length)

/-- Before a group of a context comes to a core: where none of that context is resident there, its tags have lapsed, and what
they name is reset (R238, R311). -/
def State.lapse (s : State) (core ctx : Nat) : State :=
  if s.bound core (some ctx) = some ctx then s
  else
    let s1 := (List.range 16).foldl (fun s n =>
      if ((s.core core).acc n).ctx = some ctx then s.setAcc' core n { (s.core core).acc n with ctx := none, val := [] } else s) s
    let s2 := (List.range 4).foldl (fun s n =>
      if ((s.core core).buf n).ctx = some ctx then s.setBuf core n Buf.reset else s) s1
    (List.range 64).foldl (fun s n =>
      if ((s.core core).tag n).ctx = some ctx ∧ ((s.core core).tag n).cnt = 0 then s.setTag core n Tag.reset else s) s2

/-- The groups of a crew are created, in order. -/
def State.addGroups (s : State) (cid k : Nat) (u : UnitSpec) : List Nat → State
  | [] => s
  | i :: l =>
    let g := Group.start s.nextId cid i (s.pickCore k u.regs i) u
    let s1 := s.lapse g.core u.ctx
    State.addGroups { s1 with groups := s1.groups ++ [g], nextId := s1.nextId + 1 } cid k u l

/-- A task record that R349 turns into a trap before the first clause: its cause. -/
def TaskRec.startFault (t : TaskRec) : Option Nat :=
  if t.f 63 0 % 8 ≠ 0 then some 0x04 else if t.reservedBad then some 0x02 else none

/-- The group of a faulty record takes its trap (R349). -/
def State.startTrap (s : State) (cid : Nat) (u : UnitSpec) : State :=
  match u.task with
  | none => s
  | some t => match t.startFault, s.groups.find? fun g => g.cid == cid with
    | some c, some g => s.trapEntry g.gid 0 { cause := c, taddr := t.addr } u.entry 0 false
    | _, _ => s

/-- A crew of a unit on a cluster. -/
def Crew.start (cid k base : Nat) (u : UnitSpec) (versioned : Bool) (role : Role) : Crew :=
  { cid, lid := u.lid, ctx := u.ctx, cluster := k, size := u.size, index := u.index, task := u.task, arg := u.arg
    bars := List.replicate u.nbar (Bar.reset u.size), scratchBase := base, scratchSize := u.scratch, claims := []
    outst := 0, nerr := 0, lastRec := 0, lastSt := 0, lastPos := 0, versioned, discarded := false, role, reruns := 0
    restart := false, slice := 0 }

/-- The first cluster word of a new allocation. -/
def State.scratchStart (s : State) (k size : Nat) : Nat :=
  let n := ((s.cluster k).banksIn .scratch).length
  if size = 0 then 0 else n * (s.scratchRow k n size).getD 0

/-- A cluster leaves retention as work is placed on it (R418). -/
def State.wakeCluster (s : State) (k : Nat) : State :=
  if (s.cluster k).retention then s.setCluster k { s.cluster k with retention := false } else s

/-- A crew starts on a cluster (R21, R22, R175, R203, R383, R418): its scratchpad, its barriers at their reset values, its
version, its groups. -/
def State.startCrew (s : State) (k cid : Nat) (u : UnitSpec) (versioned : Bool) (role : Role) : State :=
  let s1 := (s.wakeCluster k).resize k u.scratch u.ctx
  let c := Crew.start cid k (s1.scratchStart k u.scratch) u versioned role
  let s2 : State := { s1 with crews := s1.crews ++ [c]
                              versions := if versioned then s1.versions ++ [Version.empty cid (sliceOfCluster k)]
                                else s1.versions }
  (s2.addGroups cid k u (List.range u.size)).startTrap cid u

/-- The units of a launch are versioned (R383). -/
def Launch.isVersioned (l : Launch) : Bool := l.versionedFlag || l.redundant

/-- The cluster of the shadow of a unit whose primary goes to `k` (R407). -/
def State.shadowCluster (s : State) (k : Nat) (u : UnitSpec) : Option Nat :=
  argMin (fun j => [-(s.score j u.ctx u.ranges : Int), (j : Int)])
    ((clustersOf (dieOfCluster k)).filter fun j => j / 2 != k / 2)

/-- A unit can be started on a cluster now. -/
def State.able (s : State) (k : Nat) (u : UnitSpec) : Bool :=
  s.canStart k u && s.resizeReady k u.scratch

/-- The two copies of a redundant unit start, the primary as crew `p` on `k` (R407); none where one cannot. -/
def State.startCopies (s : State) (k p : Nat) (u : UnitSpec) : Option State := match s.shadowCluster k u with
  | some j =>
    if s.able k u ∧ s.able j u then
      let q := s.nextId
      let s1 := State.startCrew { s with nextId := q + 1 } k p u true (.primary q)
      some (s1.startCrew j q u true (.shadow p))
    else none
  | none => none

/-- A unit of a launch starts on `k`; of a REDUNDANT launch as two copies (R407). None where a copy cannot start. -/
def State.startUnit (s : State) (k : Nat) (l : Launch) (u : UnitSpec) : Option State :=
  if !l.redundant then
    if s.able k u then
      some (State.startCrew { s with nextId := s.nextId + 1 } k s.nextId u l.isVersioned .single) else none
  else State.startCopies { s with nextId := s.nextId + 1 } k s.nextId u

/-! ### Ready tables (R360) -/

/-- The entry of a table slot. -/
def Cluster.entry (cl : Cluster) (i : Nat) : Option Ready := NMap.get none cl.ready i

/-- The lowest free slot of a ready table of 64 entries. -/
def Cluster.freeSlot (cl : Cluster) : Option Nat := (List.range 64).find? fun i => (cl.entry i).isNone

/-- An entry that is work for its cluster: one that has not been given up to a thief. -/
def Ready.placed (e : Ready) : Bool := match e.st with
  | .transit _ => false
  | _ => true

/-- A table slot is written. A cluster on which work is placed leaves retention (R418). -/
def State.setReady (s : State) (k i : Nat) (e : Option Ready) : State :=
  let cl := s.cluster k
  s.setCluster k { cl with
    ready := NMap.set none cl.ready i e, retention := cl.retention && !e.any Ready.placed }

/-- The unit that an entry starts. -/
def State.readySpec (s : State) (e : Ready) : Option UnitSpec := (s.launch? e.lid).map fun l => l.taskSpec e.task e.prio

/-- The ready-table backing of a context takes an entry: one that is absent is full (R363, R375). -/
def State.backed (s : State) (ctx : Nat) : Bool := (s.ctx ctx).rtback != 0

/-- A task enters the table of its die with a free entry and the highest score (R360); none where no table has one, or its
backing takes none. -/
def State.insertNow (s : State) (die : Nat) (e : Ready) : Option State :=
  if !s.backed e.ctx then none
  else
  let free := (clustersOf die).filter fun k => (s.cluster k).freeSlot.isSome
  ((s.readySpec e).bind fun u => s.bestCluster u free).map fun k => s.setReady k ((s.cluster k).freeSlot.getD 0) (some e)

/-- TASK_INSERT (R360): into a table, or the insertion queue, behind the tasks that wait there. -/
def State.insertReady (s : State) (die : Nat) (e : Ready) : State :=
  match if (s.die die).insQ.isEmpty then s.insertNow die e else none with
  | some t => t
  | none => s.setDie die { s.die die with insQ := (s.die die).insQ ++ [e] }

/-- A ready task of a launch. -/
def Launch.ready (l : Launch) (t : TaskRec) (root : Bool) : Ready :=
  { lid := l.lid, ctx := l.ctx, task := t, st := .ready, cancel := false
    prio := if root ∧ t.f 467 464 = 0 then l.f 383 380 else t.f 467 464 }

/-! ### Distribution (R354) -/

/-- The die of a unit with read range 0 `r`: the home die of its first tile, else `alt` mod 4. -/
def State.dieOf (s : State) (ctx : Nat) (r : ReadRange) (alt : Nat) : Nat :=
  if r.count = 0 then alt % 4
  else match s.lookUp ctx (24576 * r.first) with
    | some pa => if rangeOf pa = .device then homeDie pa else alt % 4
    | none => alt % 4

/-- The die of a task (R354). -/
def State.dieOfTask (s : State) (ctx : Nat) (t : TaskRec) : Nat :=
  s.dieOf ctx (ReadRange.ofBits (t.f 383 320)) t.tag

/-- Root record `i` of a launch, read with RdU (R346); where its address does not translate, as `Config.unreadRoot` gives
it (log 20). -/
def State.readRoot (s : State) (l : Launch) (i : Nat) : TaskRec × State :=
  let va := (l.f 191 128 + 64 * i) % 2 ^ 64
  match s.translate l.ctx va .read with
  | (.ok x, s1) => ({ bits := BitVec.ofNat 512 (s1.rdN x.pa 64), addr := BitVec.ofNat 64 va }, s1)
  | (.error _, s1) => ({ bits := Config.unreadRoot va, addr := BitVec.ofNat 64 va }, s1)

/-- A die takes its root tasks. -/
def State.takeRoots (s : State) (l : Launch) (die : Nat) : List Nat → State × Nat
  | [] => (s, 0)
  | i :: rest =>
    let (t, s1) := s.readRoot l i
    if s1.dieOfTask l.ctx t = die then
      let (s2, n) := (s1.insertReady die (l.ready t true)).takeRoots l die rest
      (s2, n + 1)
    else s1.takeRoots l die rest

/-- The crews of a grid that a die takes. -/
def State.crewsOf (s : State) (l : Launch) (die : Nat) : List Nat :=
  (List.range l.units).filter fun c => s.dieOf l.ctx (l.crewRange c) c == die

/-- DISTRIBUTION (R354): a die takes its crews or root tasks and counts them. -/
def State.distribute (s : State) (lid die : Nat) : State :=
  match s.launch? lid with
  | none => s
  | some l =>
    let (s1, n) := if l.f 376 376 = 0 then
        let cs := s.crewsOf l die
        (s.setDie die { s.die die with crewQ := (s.die die).crewQ ++ cs.map fun c => (lid, c) }, cs.length)
      else s.takeRoots l die (List.range l.units)
    match s1.launch? lid with
    | none => s1
    | some m => s1.setLaunch { m with taken := putAt m.taken die (some n) }

/-- The root records can be read now: their homes may act on an RdU (R346, Table 02-5). -/
def State.rootsFree (s : State) (l : Launch) : Bool :=
  l.f 376 376 == 0 || (List.range l.units).all fun i => match s.lookUp l.ctx ((l.f 191 128 + 64 * i) % 2 ^ 64) with
    | some pa => rangeOf pa != .device || s.rduFree pa
    | none => true

/-- A die that has admitted a started launch starts its share, once, as soon as it can read the root records (R346). -/
def State.distributeDue (s : State) (lid die : Nat) : State :=
  match s.launch? lid with
  | none => s
  | some l =>
    if l.started ∧ nth false l.admitted die ∧ (nth none l.taken die).isNone ∧ s.rootsFree l then s.distribute lid die else s

/-- A launch starts (R346): each die that has admitted it distributes its share. -/
def State.startLaunch (s : State) (lid : Nat) : State :=
  match s.launch? lid with
  | none => s
  | some l => (List.range 4).foldl (fun s d => s.distributeDue lid d) (s.setLaunch { l with started := true })

/-- Insertion of a launch into a list in admission order. -/
def insertLaunch (l : Launch) : List Launch → List Launch
  | [] => [l]
  | m :: ms => if keyLt l.order m.order then l :: m :: ms else m :: insertLaunch l ms

/-- LAUNCH_START (R346): every registered launch of a context whose wait mask is wholly set starts, in admission order. -/
def State.startLaunches (s : State) (ctx : Nat) : State :=
  let ev := (s.ctx ctx).ev
  let due := s.launches.filter fun l =>
    l.ctx == ctx && l.registered && !l.started && BitVec.ofNat 256 (bits l.record.toNat 1279 1024) &&& ~~~ev == 0
  (due.foldr insertLaunch []).foldl (fun s l => s.startLaunch l.lid) s

end Sys2Proof.Machine
end

