-- ==== Sys2Proof/Machine/Tasks.lean ====
section
/-! DEFINITION. The event home (R345, R346, R368, R370), launches published from the device (R369), and the instructions of
block 0xE8 (R365 to R372). -/

namespace Sys2Proof.Machine

/-! ### Writes of the command processors and task engines at a line's home -/

/-- A device agent's write at a home. -/
def State.devWrite (s : State) (pa : Nat) (bs : List Byte) : State :=
  s.dirWhole (lineOf pa) (.wr none none (pairsAt pa bs))

/-- The home acts on a write of the line now. -/
def State.devFree (s : State) (pa : Nat) : Bool := s.dirReady (lineOf pa) (.wr none none [])

/-! ### Handles (R357, R370) -/

def Context.handle (x : Context) (h : Nat) : Handle := NMap.get Handle.free x.handles h
def Context.setHandle (x : Context) (h : Nat) (v : Handle) : Context :=
  { x with handles := NMap.set Handle.free x.handles h v }

/-- The lowest free handle. -/
def Context.freeHandle (x : Context) : Option Nat := (List.range 1024).find? fun h => !(x.handle h).live

/-- A cached line lies in a tile that a handle covers, under the context's translations. -/
def State.handleLine (s : State) (ctx : Nat) (h : Handle) (l : CLine) : Bool :=
  (List.range h.count).any fun i => s.lookUp ctx (24576 * (h.first + i)) == some (l.line / 128 * 24576)

/-- Every line of a handle's tiles leaves every cluster cache, dirty NC lines written back first (R53, R370). -/
def State.evictHandle (s : State) (ctx : Nat) (h : Handle) : State :=
  (List.range 96).foldl (fun s c =>
    let gone := (s.cluster c).cache.filter fun l => s.handleLine ctx h l
    (gone.foldl (fun s l => s.writeBack l) s).dropLines c fun l => gone.contains l) s

/-- The dirty NC lines of a handle's tiles can be written back now. -/
def State.evictReady (s : State) (ctx : Nat) (h : Handle) : Bool :=
  (List.range 96).all fun c => (s.cluster c).cache.all fun l => !s.handleLine ctx h l || s.canWriteBack l

/-- The lines of a handle's tiles become preferred victims (R370): a hint. -/
def State.demoteLines (s : State) (ctx : Nat) (h : Handle) : State :=
  (List.range 96).foldl (fun s c => s.setCluster c { s.cluster c with
    cache := updWhere (fun l => s.handleLine ctx h l) (fun l => { l with victim := true }) (s.cluster c).cache }) s

/-! ### Updates at the event home (R345, R368, R370) -/

/-- The event vector of a context takes a value, at the home and on every die. -/
def Context.setEv (x : Context) (ev : BitVec 256) : Context := { x with ev, evDie := List.replicate 4 ev }

/-- Word `n` of a mask of one word. -/
def evMask (n : Nat) (mask : DWord) : BitVec 256 := BitVec.ofNat 256 (mask.toNat * 2 ^ (64 * n))

/-- An update can be applied now. -/
def State.updateReady (s : State) (ctx : Nat) : Update → Bool
  | .resevict h _ => s.evictReady ctx ((s.ctx ctx).handle h)
  | _ => true

/-- An update is applied at the event home (R345, R370); the second part is what RESNEW writes to sD. An operation on a
handle that is not live has no effect. -/
def State.applyUpdate (s : State) (ctx : Nat) (u : Update) : State × Word :=
  let x := s.ctx ctx
  match u with
  | .evset n mask clr =>
    (s.setCtx ctx (x.setEv (if clr then x.ev &&& ~~~evMask n mask else x.ev ||| evMask n mask)), 0)
  | .resnew first count pri => match x.freeHandle with
    | none => (s, 0xFFFFFFFF)
    | some h => (s.setCtx ctx (x.setHandle h { live := true, evicting := false, pri, count, first }), BitVec.ofNat 32 h)
  | .respri h p =>
    (if (x.handle h).live then s.setCtx ctx (x.setHandle h { x.handle h with pri := p }) else s, 0)
  | .resdemote h =>
    (if (x.handle h).live then
      (s.setCtx ctx (x.setHandle h { x.handle h with pri := 0 })).demoteLines ctx (x.handle h) else s, 0)
  | .resevict h free =>
    (if (x.handle h).live then
      let s1 := s.evictHandle ctx (x.handle h)
      s1.setCtx ctx ((s1.ctx ctx).setHandle h (if free then Handle.free else { x.handle h with evicting := false }))
    else s, 0)
  | _ => (s, 0)

/-- The next update under way to a die's event homes, and those that remain. -/
def takeUpdate (die : Nat) : List (Nat × Option Nat × Update) →
    Option ((Nat × Option Nat × Update) × List (Nat × Option Nat × Update))
  | [] => none
  | u :: l =>
    if u.1 % 4 = die then some (u, l) else (takeUpdate die l).map fun r => (r.1, u :: r.2)

/-- The operation that awaits an update completes; RESNEW's writes its handle (R368, R370). -/
def State.updateOver (s : State) (op : Option Nat) (w : Word) : State :=
  match op.bind fun i => s.op? i with
  | none => s
  | some o => match o.kind with
    | .update (some d) => s.lateOp o.id [] [(d, w)]
    | _ => s.finishOp o

/-- A RESEVICT that the event home begins (R370): EVICTING is set on the live handle it names, until the lines are gone. -/
def State.evictBegins (s : State) (ctx : Nat) : Update → Option Nat
  | .resevict h _ => if ((s.ctx ctx).handle h).live ∧ !((s.ctx ctx).handle h).evicting then some h else none
  | _ => none

/-- EVENT_UPDATE (R345, R346): a die's event home applies its next update and sends it, with the launch starts it causes,
to every die. A RESEVICT is applied in two steps, and EVICTING stands between them (R370). -/
def execEventUpdate (die : Nat) (s : State) : Host.Outcome State Fault Refusal :=
  .next (match takeUpdate die s.updates with
    | none => s
    | some ((ctx, op, u), rest) => match s.evictBegins ctx u with
      | some h => s.setCtx ctx ((s.ctx ctx).setHandle h { (s.ctx ctx).handle h with evicting := true })
      | none => if s.updateReady ctx u then
        let (s1, w) := State.applyUpdate { s with updates := rest } ctx u
        (s1.startLaunches ctx).updateOver op w
      else s)

/-- LAUNCH_REGISTRATION (R346): the event home registers a launch that the header's home die has admitted. -/
def execLaunchRegistration (launch : Nat) (s : State) : Host.Outcome State Fault Refusal :=
  .next (match s.launch? launch with
    | none => s
    | some l =>
      if nth false l.admitted l.homeDie ∧ !l.registered then
        (s.setLaunch { l with registered := true }).startLaunches l.ctx
      else s)

/-! ### Publishing a launch (R369) -/

/-- The header of a queue; 0 when it is not registered. -/
def State.header (s : State) (ctx q : Nat) : Nat := nth 0 (s.ctx ctx).qhdr q

/-- RING and LOGSIZE of a header (Table 15-1), and the address of the slot of an index. -/
def State.slotPa (s : State) (hdr i : Nat) : Nat := s.rdN (hdr + 64) 8 + 192 * (i % 2 ^ (s.rdN (hdr + 72) 1 % 16))

/-- RESV is taken and advanced at the header's home, and the LAUNCH goes on as an operation of `gid` (0 flags where its
unit has ended); its record is read at `src`, or is `record` where that is empty. -/
def State.reserveLaunch (s : State) (ctx q gid sp opc : Nat) (charges : List (Nat × Nat)) (src : List Seg)
    (record : BitVec 1536) : State :=
  let hdr := s.header ctx q
  let i := s.rdN (hdr + 8) 8
  let s1 := s.devWrite (hdr + 8) (toBytes 8 (i + 1))
  if hdr = 0 then s else { s1 with
    ops := s1.ops ++ [{ id := s1.nextId, gid, split := sp, charges, opc, kind := .launch ctx q i false src record }]
    nextId := s1.nextId + 1 }

/-- The oldest index that some die has not admitted: the least DONEd. -/
def State.minDone (s : State) (hdr : Nat) : Nat :=
  (List.range 4).foldl (fun m d => min m (s.rdN (hdr + 16 + 8 * d) 8)) (2 ^ 64)

/-- The bytes of the record that a LAUNCH copies, as its engine reads them in the copy step, and the places of poisoned ones
among them (R307, R369). -/
def State.launchBytes (s : State) (o : Op) (src : List Seg) (record : BitVec 1536) : List Byte × List Nat :=
  match if src.isEmpty then none else (s.group? o.gid).bind fun g => s.crew? g.cid with
  | none => (toBytes 192 record.toNat, [])
  | some c => (s.segsBytes c src, (List.range 192).filter fun i => s.unitPoisoned c (nth 0 (segPas src) i) 1)

/-- LAUNCH_PUBLISH (R369): once the ring has room the record is copied into its slot, and once TAIL has reached its index
TAIL is advanced and the flag clears. -/
def execLaunchPublish (op : Nat) (s : State) : Host.Outcome State Fault Refusal :=
  .next (match s.op? op with
    | none => s
    | some o => match o.kind with
      | .launch ctx q i copied src record =>
        let hdr := s.header ctx q
        if hdr = 0 then s
        else if !copied then
          let pa := s.slotPa hdr i
          if i < s.minDone hdr + 2 ^ (s.rdN (hdr + 72) 1 % 16) ∧ s.devFree pa then
            let (bs, bad) := s.launchBytes o src record
            let s1 := s.devWrite pa bs
            State.setOp { s1 with poison := sortAsc (bad.map (fun i => (pa + i) / 48) ++ s1.poison) }
              { o with kind := .launch ctx q i true src record }
          else s
        else if s.rdN hdr 8 = i ∧ s.devFree hdr then (s.devWrite hdr (toBytes 8 (i + 1))).finishOp o
        else s
      | _ => s)

/-! ### Instructions that a version or a REPLAYABLE launch holds (R365, R385, R403) -/

/-- The launch holds the instruction until it ends (R403). -/
def Launch.holds (l : Launch) (u : Update) : Bool := l.replayable && match u with
  | .evset .. | .launch .. => true
  | .tspawn _ t => t.bits.toNat.testBit 472
  | _ => false

/-- An entry's tag matches a TCANCEL (R367). -/
def Ready.matches (e : Ready) (ctx tag mask : Nat) : Bool :=
  e.ctx == ctx && (e.task.tag ^^^ tag) &&& mask == 0

/-- A PENDING entry, at slot `j` of table `k`, whose TRANSIT twin still stands at its victim: its ACK is under way. -/
def State.twinStands (s : State) (k j : Nat) (e : Ready) : Bool := match e.st with
  | .pending v i => (s.die (dieOfCluster k)).steals.contains (.ack v i k j)
  | _ => false

/-- TCANCEL on one slot of a table (R367): a READY entry goes and its launch counts it out; one that is being handed over
is marked. Whether it counts. -/
def State.cancelSlot (s : State) (ctx tag mask k i : Nat) : State × Nat :=
  match (s.cluster k).entry i with
  | none => (s, 0)
  | some e =>
    if e.matches ctx tag mask ∧ !e.cancel then match e.st with
      | .ready => ((s.setReady k i none).addLive e.lid (-1), 1)
      | _ => (s.setReady k i (some { e with cancel := true }), if s.twinStands k i e then 0 else 1)
    else (s, 0)

/-- Several slots. -/
def State.cancelSlots (s : State) (ctx tag mask : Nat) : List (Nat × Nat) → State × Nat
  | [] => (s, 0)
  | (k, i) :: l =>
    let (s1, n) := s.cancelSlot ctx tag mask k i
    let (s2, m) := s1.cancelSlots ctx tag mask l
    (s2, n + m)

/-- TCANCEL on a die's insertion queue. -/
def State.cancelQueue (s : State) (ctx tag mask die : Nat) : State × Nat :=
  let gone := (s.die die).insQ.filter fun e => e.matches ctx tag mask
  (gone.foldl (fun s e => s.addLive e.lid (-1))
    (s.setDie die { s.die die with insQ := (s.die die).insQ.filter fun e => !e.matches ctx tag mask }), gone.length)

/-- TCANCEL on the device (R367): the entries removed or marked. -/
def State.cancelTasks (s : State) (ctx tag mask : Nat) : State × Nat :=
  let slots := s.clusters.flatMap fun c => c.2.ready.map fun e => (c.1, e.1)
  let (s1, n) := s.cancelSlots ctx tag mask slots
  (List.range 4).foldl (fun r d => let q := r.1.cancelQueue ctx tag mask d; (q.1, r.2 + q.2)) (s1, n)

/-- A task of a launch is made ready (R347, R354, R360): the live count first, then the insertion. -/
def State.spawn (s : State) (lid : Nat) (t : TaskRec) : State :=
  match s.launch? lid with
  | none => s
  | some l => (s.addLive lid 1).insertReady (s.dieOfTask l.ctx t) (l.ready t false)

/-- A recorded or held instruction takes its effect (R385, R403). -/
def State.perform (s : State) (ctx : Nat) (u : Update) : State := match u with
  | .tspawn lid t => s.spawn lid t
  | .tcancel tag mask => (s.cancelTasks ctx tag mask).1
  | .launch q _ record => s.reserveLaunch ctx q 0 0 0xEC [] [] record
  | _ => ((s.applyUpdate ctx u).1).startLaunches ctx

/-- A recorded instruction can take its effect now. -/
def State.performReady (s : State) (ctx : Nat) : Update → Bool
  | .launch q _ _ => s.devFree (s.header ctx q)
  | u => s.updateReady ctx u

/-- An instruction of a launch's unit takes its effect, or is held with the launch (R403). -/
def State.performOrHold (s : State) (lid ctx : Nat) (u : Update) : State :=
  match s.launch? lid with
  | some l => if l.holds u then s.setLaunch { l with heldUpd := l.heldUpd ++ [u] } else s.perform ctx u
  | none => s.perform ctx u

/-- An instruction of block 0xE8 with an effect: recorded with a versioned unit's version, held by a REPLAYABLE launch, or
made now by `now` (R365, R403). Where it is recorded, `d` takes a free word (log 21). -/
def record (s : State) (k : Issuer) (i : Instr) (d : Option Nat) (u : Update) (now : State → Res) : Res :=
  if !s.flagRoom k.g.gid k.p then .wait s
  else if k.c.versioned then
    let s1 := match s.version? k.c.cid with
      | some v => s.setVersion { v with recs := v.recs ++ [u] }
      | none => s
    s1.launchOp k i (match d with
      | some r => .sres [(r, Config.freeWord s.tick 0)]
      | none => .done)
  else match s.launch? k.c.lid with
    | some l =>
      if l.holds u then (s.setLaunch { l with heldUpd := l.heldUpd ++ [u] }).launchOp k i .done else now s
    | none => now s

/-- The update goes to the context's event home; the operation lasts until every die has applied it. -/
def sendUpdate (k : Issuer) (i : Instr) (d : Option Nat) (u : Update) (s : State) : Res :=
  State.launchOp { s with updates := s.updates ++ [(k.ctx, some s.nextId, u)] } k i (.update d)

/-! ### The instructions -/

/-- A read of some runs by a thread can be made now (R47, R59, Table 02-5). -/
def State.threadReads (s : State) (c : Crew) (l : List Seg) : Bool :=
  l.all fun g => match g.place with
    | .phys pa _ => rangeOf pa != .device || (s.rduFree pa && !s.unitOwns c (lineOf pa))
    | .scratch _ => true

/-- The `len` bytes of a record at an address that is a multiple of `align`, in device memory (R365); a record that the split
itself reads waits for its line (R371). -/
def recordAt (s : State) (k : Issuer) (va len align : Nat) (thread : Bool) (f : State → List Seg → Nat → Res) : Res :=
  let t (c : Nat) : Trap := { cause := c, taddr := BitVec.ofNat 64 va }
  if va % align ≠ 0 then .trap s (t 0x04)
  else match s.range k.c .src { nc := true } false va len with
    | (.error e, s1) => .trap s1 e
    | (.ok l, s1) =>
      let segs := l.map (·.1)
      if thread ∧ !s1.threadReads k.c segs then .wait s1
      else if segs.any fun g => s1.segPoisoned k.c g then .trap s1 (t 0x07) else f s1 segs (ofBytes (s1.segsBytes k.c segs))

/-- TSPAWN (R366). -/
def execTspawn (o : OpE) (s : State) := issue (.tspawn o) s fun k =>
  let va := k.s64 o.a
  recordAt s k va.toNat 64 64 true fun s1 _ n =>
    let t : TaskRec := { bits := BitVec.ofNat 512 n, addr := va }
    if t.reservedBad then .trap s1 { cause := 0x02, taddr := va }
    else
      let l := s1.launchFor k.ctx k.c.lid t
      if t.bits.toNat.testBit 472 ∧ l.isNone then .trap s1 { cause := 0x01, taddr := va }
      else
        let lid := (l.map (·.lid)).getD k.c.lid
        record s1 k (.tspawn o) none (.tspawn lid t) fun s2 => (s2.spawn lid t).launchOp k (.tspawn o) .done

/-- TCANCEL (R367). -/
def execTcancel (o : OpE) (s : State) := issue (.tcancel o) s fun k =>
  let w := (k.s o.a).toNat
  let tag := bits w 15 0
  let mask := bits w 31 16
  record s k (.tcancel o) (some o.d) (.tcancel tag mask) fun s1 =>
    let (s2, n) := s1.cancelTasks k.ctx tag mask
    s2.launchOp k (.tcancel o) (.sres [(o.d, BitVec.ofNat 32 n)])

/-- EVSET (R368). -/
def execEvset (o : OpE) (s : State) := issue (.evset o) s fun k =>
  let u : Update := .evset (o.bits 1 0) (k.s64 o.a) (o.bit 2)
  record s k (.evset o) none u (sendUpdate k (.evset o) none u)

/-- What an EVWAIT waits for: its mask as its split reads it now. -/
def Issuer.evwaitKind (k : Issuer) (o : OpE) : OpKind := .evwait o.d (o.bits 1 0) (k.s64 o.a)

/-- EVWAIT (R368). -/
def execEvwait (o : OpE) (s : State) := issue (.evwait o) s fun k => s.launchOp k (.evwait o) (k.evwaitKind o)

/-- Word `n` of the issuing die's copy of the event vector. -/
def State.evWord (s : State) (c : Crew) (n : Nat) : DWord :=
  BitVec.ofNat 64 ((nth 0 (s.ctx c.ctx).evDie (dieOfCluster c.cluster)).toNat / 2 ^ (64 * n))

/-- EVWAIT completes once every bit of its mask is set. -/
def State.evwaitDone (s : State) (o : Op) (c : Crew) (d n : Nat) (mask : DWord) : Option State :=
  let w := s.evWord c n
  if w &&& mask = mask then some (s.wrScalars o.gid o.split [(d, lo32 w), (d + 1, hi32 w)]) else none

/-- LAUNCH (R369): RESV is taken; the record is read in the copy step, or now where the instruction is recorded or held. -/
def execLaunch (o : OpE) (s : State) := issue (.launch o) s fun k =>
  let va := k.s64 o.a
  let q := o.bits 2 0
  if s.header k.ctx q = 0 then .trap s { cause := 0x01 }
  else recordAt s k va.toNat 192 192 false fun s1 src n =>
    let rec_ := BitVec.ofNat 1536 n
    record s1 k (.launch o) none (.launch q va rec_) fun s2 =>
      if s2.devFree (s2.header k.ctx q) then
        .done (s2.reserveLaunch k.ctx q k.g.gid k.p.num 0xEC k.p.charges src rec_)
      else .wait s2

/-- RESNEW (R370). -/
def execResnew (o : OpE) (s : State) := issue (.resnew o) s fun k =>
  let a := (k.s64 o.a).toNat
  let b := (k.s o.b).toNat
  if bits b 23 0 = 0 ∨ bits a 63 40 ≠ 0 ∨ bits b 31 28 ≠ 0 then .trap s { cause := 0x01 }
  else
    let u : Update := .resnew (bits a 39 0) (bits b 23 0) (bits b 27 24)
    record s k (.resnew o) (some o.d) u (sendUpdate k (.resnew o) (some o.d) u)

/-- An instruction on handle sA: a handle above 1,023 faults (R370). -/
def onHandle (s : State) (k : Issuer) (i : Instr) (o : OpE) (u : Nat → Update) : Res :=
  let h := (k.s o.a).toNat
  if 1023 < h then .trap s { cause := 0x01 } else record s k i none (u h) (sendUpdate k i none (u h))

def execRespri (o : OpE) (s : State) := issue (.respri o) s fun k =>
  onHandle s k (.respri o) o fun h => .respri h (o.bits 3 0)
def execResevict (o : OpE) (s : State) := issue (.resevict o) s fun k =>
  onHandle s k (.resevict o) o fun h => .resevict h (o.bit 0)
def execResdemote (o : OpE) (s : State) := issue (.resdemote o) s fun k =>
  onHandle s k (.resdemote o) o fun h => .resdemote h

/-- A residency entry as a 64-bit word (Table 15-6). -/
def ResEntry.word (r : ResEntry) : DWord :=
  BitVec.ofNat 64 (2 ^ 63 + r.ctx % 32 * 2 ^ 58 + r.lines % 256 * 2 ^ 50 + r.claims % 256 * 2 ^ 42 + r.tile % 2 ^ 40)

/-- RESQRY.tile (R371). -/
def execResqryTile (o : OpE) (s : State) := issue (.resqryTile o) s fun k =>
  let w := match (s.cluster k.cluster).resFind k.ctx ((k.s64 o.a).toNat % 2 ^ 40) with
    | some (_, r) => r.word
    | none => 0
  s.launchOp k (.resqryTile o) (.sres [(o.d, lo32 w), (o.d + 1, hi32 w)])

/-- The four words of RESQRY.hnd (R371). -/
def Handle.words (h : Handle) : List Word :=
  [BitVec.ofNat 32 h.first, BitVec.ofNat 32 (h.first / 2 ^ 32), BitVec.ofNat 32 h.count,
   BitVec.ofNat 32 (h.live.toNat * 2 ^ 31 + h.evicting.toNat * 2 ^ 30 + h.pri % 16)]

/-- RESQRY.hnd (R371). A handle above 1,023 has no fields: what is written is free (log 21). -/
def execResqryHnd (o : OpE) (s : State) := issue (.resqryHnd o) s fun k =>
  let h := (k.s o.a).toNat
  let ws := if h ≤ 1023 then ((s.ctx k.ctx).handle h).words
    else (List.range 4).map fun i => Config.freeWord s.tick i
  s.launchOp k (.resqryHnd o) (.sres (ws.mapIdx fun i w => (o.d + i, w)))

/-- RESQRY.score (R359, R371). -/
def execResqryScore (o : OpE) (s : State) := issue (.resqryScore o) s fun k =>
  let va := k.s64 o.a
  recordAt s k va.toNat 64 64 true fun s1 _ n =>
    let t : TaskRec := { bits := BitVec.ofNat 512 n, addr := va }
    s1.launchOp k (.resqryScore o) (.sres [(o.d, BitVec.ofNat 32 (s1.score k.cluster k.ctx t.ranges))])

/-- A crew gives up its claim on a tile. -/
def State.unclaimTile (s : State) (cid tile : Nat) : State :=
  match s.crew? cid with
  | none => s
  | some c =>
    if tile ∈ c.claims then
      (s.resUnclaim c.cluster c.ctx tile).setCrew { c with claims := c.claims.filter fun t => t != tile }
    else s

/-- RESDECL (R372). -/
def execResdecl (o : OpE) (s : State) := issue (.resdecl o) s fun k =>
  let a := (k.s64 o.a).toNat
  let n := (k.s o.b).toNat
  if n = 0 ∨ 255 < n ∨ bits a 63 40 ≠ 0 then .trap s { cause := 0x01 }
  else if !s.flagRoom k.g.gid k.p then .wait s
  else
    let tiles := (List.range n).map fun i => (a + i) % 2 ^ 40
    State.launchOp (tiles.foldl (fun s t => if o.bit 0 then s.unclaimTile k.c.cid t else s.claimTile k.c.cid t) s) k
      (.resdecl o) .done

end Sys2Proof.Machine
end

