-- ==== Sys2Proof/Machine/Commit.lean ====
section
/-! DEFINITION. The commit of a version (R185, R385), held writes (R55, R403), signatures (R408), the end of a group or of a
unit and what it releases (R23, R382, R386), and the replay of a launch (R404, R405). -/

namespace Sys2Proof.Machine

/-! ### Held writes -/

/-- A held write or RED is sent to its window (R385, R403). -/
def State.sendHeld (s : State) (h : HeldWrite) : State := match h.aop with
  | none => s.wrBytes h.pa h.bytes
  | some a =>
    let n := if a = 9 then h.bytes.length / 2 else h.bytes.length
    let d := ofBytes (if a = 9 then h.bytes.drop n else h.bytes)
    s.rmwRaw h.pa n fun m => atomNew a n 0 m d (ofBytes (h.bytes.take n))

/-- DIRTY stands in the leaves of the pages that held writes go to (R35). -/
def State.heldReady (s : State) (l : List HeldWrite) : Bool := l.all fun h => match h.ent with
  | some e => !s.dirtyPending e
  | none => true

/-- The held writes of a version at its commit: sent, or held on by its REPLAYABLE launch (R385, R403). -/
def State.releaseHeld (s : State) (c : Crew) (l : List HeldWrite) : State :=
  match s.replayLaunch c with
  | some m => s.setLaunch { m with held := m.held ++ l }
  | none => l.foldl (fun s h => s.sendHeld h) s

/-! ### Commit (R48, R385) -/

/-- The core of a unit's first group (log 61). -/
def State.unitCore (s : State) (c : Crew) : Nat := ((s.groups.find? fun g => g.cid == c.cid).map (·.core)).getD 0

/-- An error at a physical address that a unit's commands or its completion consume (R404, R412): a replay, or fatal. -/
def State.unitError (s : State) (c : Crew) (addr : Nat) : State :=
  let loc := locOf c.cluster (s.unitCore c)
  match s.replayLaunch c with
  | some l => { s with agenda := .replay ⟨l.lid, loc, addr⟩ :: s.agenda }
  | none => s.fatal (dieOfCluster c.cluster) 0x20 { addr, loc, ctx := some c.ctx, cause := 0x07 }

/-- A RED record is performed as the unit's write (R179, R180, R385). -/
def State.redCommit (s : State) (c : Crew) (r : RedRec) : State :=
  let n := wtBytes r.wt
  match s.accPoisoned { c with versioned := false } n r.acc with
  | some a => s.unitError c ((a.place.pa?).getD 0)
  | none => (s.atomLanes { c with versioned := false } n r.aop r.prime r.acc).2

/-- The commit of a version can be made now; held writes that its REPLAYABLE launch goes on holding wait there for DIRTY. -/
def State.commitReady (s : State) (c : Crew) : Bool := match s.version? c.cid with
  | none => true
  | some v =>
    v.lines.all (fun l => s.dirReady l (.cmt c.cid))
      && v.reds.all (fun r => s.accReady c r.acc true true) && ((s.replayLaunch c).isSome || s.heldReady v.held)
      && v.recs.all fun u => s.performReady c.ctx u

/-- Sectors of the windows that the unit's copies wrote poisoned are so from its commit on (R307, log 54). -/
def State.windowPoison (s : State) (v : Version) : State :=
  { s with poison := sortAsc ((v.bad.filter fun x => rangeOf (48 * x) != .device) ++ s.poison) }

/-- VERSION_COMMIT (R385): Cmt to every line, the RED records, the held writes, the recorded instructions, each in their
order; the version is then gone. -/
def State.commit (s : State) (c : Crew) : State := match s.version? c.cid with
  | none => s
  | some v =>
    let s1 := v.lines.foldl (fun s l => (s.markConflict c.lid (l / 128)).dirWhole l (.cmt c.cid)) s
    let s2 := v.reds.foldl (fun s r => s.redCommit c r) s1
    let s3 := (s2.releaseHeld c v.held).windowPoison v
    let s4 := v.recs.foldl (fun s u => s.performOrHold c.lid c.ctx u) s3
    { s4 with versions := s4.versions.filter fun w => w.cid != c.cid }

/-! ### Signatures (R408) -/

/-- What one byte adds to a signature. -/
def sigByte (va b : Nat) : Nat :=
  let x := (va * 256 + b) % 2 ^ 64 * 0x9E3779B97F4A7C15 % 2 ^ 64
  x ^^^ (x / 2 ^ 29)

/-- What consecutive bytes add. -/
def sigBytes (va : Nat) (bs : List Byte) : Nat := (bs.mapIdx fun i b => sigByte (va + i) b.toNat).sum

/-- What a recorded instruction adds: its record's bytes, where it has a record. -/
def Update.sig : Update → Nat
  | .tspawn _ t => sigBytes t.addr.toNat (toBytes 64 t.bits.toNat)
  | .launch _ a r => sigBytes a.toNat (toBytes 192 r.toNat)
  | _ => 0

/-- The operand bytes of a RED record as if they had been stored. -/
def RedRec.sig (r : RedRec) : Nat :=
  (r.acc.map fun a => sigBytes a.va (a.held (wtBytes r.wt) (some r.aop) 0).bytes).sum

/-- SIG of a version (R408). -/
def Version.sig (v : Version) : Nat :=
  let stored := (v.bytes.map fun e => match e.2, NMap.get none v.vas e.1 with
    | some b, some va => sigByte va b.toNat
    | _, _ => 0).sum
  (stored + (v.held.map fun h => sigBytes h.va h.bytes).sum + (v.reds.map RedRec.sig).sum + (v.recs.map Update.sig).sum)
    % 2 ^ 64

/-! ### The end of groups and units -/

/-- Operations that wait for a condition (R14). -/
def OpKind.waits : OpKind → Bool
  | .mwait | .nbarwait .. | .nbarsync .. | .tbwait .. | .tagwany .. | .tagwall _ | .evwait .. | .fpush .. | .fpop .. => true
  | _ => false

/-- A group ends (R382, R386, R404): its splits are gone, and with them the operations that waited for a condition; its
other operations complete. -/
def State.endGroup (s : State) (gid : Nat) : State :=
  { s with groups := updWhere (fun g => g.gid == gid) (fun g => { g with splits := [], parked := none }) s.groups
           ops := s.ops.filter fun o => o.gid != gid || !o.kind.waits }

/-- Every group of a crew ends. -/
def State.endGroups (s : State) (cid : Nat) : State :=
  (s.groups.filter fun g => g.cid == cid).foldl (fun s g => s.endGroup g.gid) s

/-- The engine commands of a crew have completed (R23, R337). -/
def State.commandsOver (s : State) (c : Crew) : Bool :=
  (s.copies.all fun x => x.cid != c.cid) && (s.sreds.all fun x => x.cid != c.cid) && c.outst == 0

/-- A launch is being replayed: its units end without retiring (R404). -/
def State.replaying (s : State) (lid : Nat) : Bool := match s.launch? lid with
  | some l => !l.replay.isEmpty
  | none => false

/-- The groups of a crew have retired and its commands have completed (R23, R337), and its launch is not being replayed. -/
def State.crewDone (s : State) (c : Crew) : Bool :=
  (s.groups.all fun g => g.cid != c.cid || g.retired) && s.commandsOver c && !s.replaying c.lid

/-- The keys of a crew's allocation in its cluster's scratchpad. -/
def State.scratchOwn (s : State) (c : Crew) : List Nat :=
  let n := ((s.cluster c.cluster).banksIn .scratch).length
  (List.range (8 * n * rowsFor n c.scratchSize)).map fun a => s.scratchAt c a

/-- The barrier words of a crew's allocation are live no longer, and its poisoned words are given up with it (log 54). -/
def State.dropLive (s : State) (c : Crew) : State :=
  if c.scratchSize = 0 then s
  else
    let ks := s.scratchOwn c
    let cl := s.cluster c.cluster
    s.setCluster c.cluster { cl with
      liveWords := cl.liveWords.filter fun k => !ks.contains k, badWords := cl.badWords.filter fun w => !ks.contains (8 * w) }

/-- What a crew holds on its cluster is released (R23, R356): claims, barriers, scratchpad; its groups are gone. -/
def State.releaseCrew (s : State) (c : Crew) : State :=
  let s1 := c.claims.foldl (fun s t => s.resUnclaim c.cluster c.ctx t) s
  let s2 := s1.dropLive c
  { s2 with crews := s2.crews.filter fun x => x.cid != c.cid, groups := s2.groups.filter fun g => g.cid != c.cid }

/-- A unit's version, where it has one, is discarded and gone. -/
def State.dropVersion (s : State) (cid : Nat) : State :=
  let s1 := s.discardVersion cid
  { s1 with versions := s1.versions.filter fun v => v.cid != cid }

/-- A unit is over (R23, R347): what is left of it is released, and its launch counts it out. -/
def State.unitOver (s : State) (c : Crew) : State := ((s.dropVersion c.cid).releaseCrew c).addLive c.lid (-1)

/-! ### Replay (R404, R405) -/

/-- The entries of a launch leave the ready tables, the queues and the hand-overs. -/
def State.dropEntries (s : State) (lid : Nat) : State :=
  let keep (e : Ready) : Bool := e.lid != lid
  { s with
    clusters := s.clusters.map fun c => (c.1, { c.2 with ready := c.2.ready.filter fun e => match e.2 with
      | some r => keep r
      | none => true })
    dies := s.dies.map fun d => { d with
      insQ := d.insQ.filter keep, crewQ := d.crewQ.filter fun e => e.1 != lid
      steals := d.steals.filter fun m => match m with
        | .copy _ _ _ e => keep e
        | .ack v i .. => match (s.cluster v).entry i with
          | some r => keep r
          | none => true
        | .confirm k i => match (s.cluster k).entry i with
          | some r => keep r
          | none => true } }

/-- A snapshotted page is written back (R404): its lines leave the caches that hold their bytes, and every watch on them is
triggered. -/
def State.restorePage (s : State) (p : Nat) (old : List (Nat × Byte)) : State :=
  let s1 : State := { s with mem := s.mem.filter fun e => e.1 / 24576 != p }
  let s2 := old.foldl (fun s e => s.wrB e.1 e.2) s1
  let s3 := (List.range 96).foldl (fun s c => s.dropLines c fun l => l.nc && l.line / 128 == p) s2
  (List.range 128).foldl (fun s i => s.trigger (fun _ => true) (128 * p + i)) s3

/-- The launch slot of a launch (R341). -/
def Launch.slot (l : Launch) : Nat := 32 * l.queue + l.index % 32

/-- DETAIL of a replay (Table 17-4): queue and index in [47:32], the replay count in [1:0]. DESIGN CHOICE (log 22): the
queue in [47:45] and the index, modulo 2^13, in [44:32]. -/
def Launch.detail (l : Launch) : Nat := (l.queue % 8 * 2 ^ 13 + l.index % 2 ^ 13) * 2 ^ 32 + l.replays % 4

/-- Every group of a launch ends without being saved (R404); what its groups have outstanding completes (R14), but for what
waits for a condition. Saved units are gone at once. -/
def State.endLaunchGroups (s : State) (lid : Nat) : State :=
  let s1 := (s.saved.filter fun x => x.crew.lid == lid).foldl (fun s x => s.dropVersion x.crew.cid) s
  let s2 : State := { s1 with saved := s1.saved.filter fun x => x.crew.lid != lid }
  (s2.crews.filter fun c => c.lid == lid).foldl (fun s c => s.endGroups c.cid) s2

/-- Nothing of a launch's units is outstanding any longer. -/
def State.launchQuiet (s : State) (lid : Nat) : Bool :=
  (s.crews.filter fun c => c.lid == lid).all fun c =>
    s.commandsOver c && s.groups.all fun g => g.cid != c.cid || (g.splits.isEmpty && !s.groupBusy g.gid)

/-- The units of a launch are gone, with their versions, tokens and what they hold on their clusters (R404). -/
def State.dropUnits (s : State) (lid : Nat) : State :=
  let cs := s.crews.filter fun c => c.lid == lid
  let s1 := (s.groups.filter fun g => cs.any fun c => c.cid == g.cid).foldl (fun s g => s.returnTokens g) s
  cs.foldl (fun s c => (s.dropVersion c.cid).releaseCrew c) s1

/-- What the record of an error says for which launch `l` is replayed (Table 17-3). -/
def ReplayErr.info (e : ReplayErr) (l : Launch) : ErrInfo := { loc := e.loc, addr := e.addr, ctx := some l.ctx, cause := 0x07 }

/-- A launch as a replay leaves it: it is admitted again from its queue entry (R404). -/
def Launch.replayed (l : Launch) : Launch :=
  { l with
    registered := false, started := false, taken := List.replicate 4 none, reported := List.replicate 4 false
    live := 0, replays := l.replays + 1, snaps := [], conflict := false, held := [], heldUpd := [], replay := [] }

/-- A replay in progress goes on (R404, R405; log 118): the launch's groups end and its entries are cancelled; once nothing of its
units is outstanding they are gone, its pages are written back, its held items are dropped, and it is admitted again. A snapshot
in conflict is fatal. -/
def State.replayGo (s : State) (l : Launch) : State := match l.replay with
  | [] => s
  | e :: es =>
    let s1 := (s.endLaunchGroups l.lid).dropEntries l.lid
    if !s1.launchQuiet l.lid then s1
    else if l.conflict then s.fatal e.die 0x23 { e.info l with detail := 1 }
    else
      let s2 := l.snaps.foldl (fun s x => s.restorePage x.1 x.2) (s1.dropUnits l.lid)
      let m := l.replayed
      (e :: es).foldl (fun s x => s.logError x.die 1 x.event { x.info l with detail := m.detail }) (s2.setLaunch m)

/-- An error of a REPLAYABLE launch (R404, R405): with a replay in progress it is recovered by that one; a fourth, or one with a
snapshot in conflict, is fatal; else the launch is replayed. -/
def State.replayOf (s : State) (l : Launch) (e : ReplayErr) : State :=
  if l.replay ≠ [] then s.setLaunch { l with replay := l.replay ++ [e] }
  else if l.conflict then s.fatal e.die 0x23 { e.info l with detail := 1 }
  else if 3 ≤ l.replays then s.fatal e.die 0x23 (e.info l)
  else
    let m := { l with replay := [e] }
    (s.setLaunch m).replayGo m

/-- REPLAY (R404) of a launch for an error at LOC and a physical address. -/
def execReplay (due : ReplayDue) (s : State) : Host.Outcome State Fault Refusal :=
  .next (match s.launch? due.launch with
    | some l =>
      if l.replayable then s.replayOf l { die := due.loc / 2 ^ 15, event := 0x10, loc := due.loc, addr := due.addr } else s
    | none => s)

/-- A replay that waits for what its launch's units have outstanding goes on. -/
def State.replayOn (s : State) (lid : Nat) : State := match s.launch? lid with
  | some l => s.replayGo l
  | none => s

end Sys2Proof.Machine
end

