-- ==== Sys2Proof/Machine/Retire.lean ====
section
/-! DEFINITION. Retirement of groups and units (R23, R379, R385, R387), task completion with successor counters (R351 to
R353), and the comparison of redundant copies (R407, R409). -/

namespace Sys2Proof.Machine

/-- GROUP_RETIRE (R23, R242): every split has ended and all flags are clear; tokens are returned. -/
def execGroupRetire (g : Nat) (s : State) : Host.Outcome State Fault Refusal :=
  .next (match s.group? g with
    | none => s
    | some x =>
      if x.splits.isEmpty ∧ !x.retired ∧ !s.groupBusy g then (s.setGroup { x with retired := true }).returnTokens x
      else s)

/-! ### Restart (R387, R409) -/

/-- The issue priority that a crew's groups have. -/
def State.crewPrio (s : State) (cid : Nat) : Nat := ((s.groups.find? fun g => g.cid == cid).map (·.prio)).getD 0

/-- A unit whose groups have been ended is created again on its cluster, once it can start there (R387, R409); a redundant
unit whose copies had already been compared runs as two copies again (R407). -/
def State.restartCrew (s : State) (c : Crew) : State :=
  match s.specOf c (s.crewPrio c.cid) with
  | none => s
  | some u =>
    let s1 := (s.dropVersion c.cid).releaseCrew c
    let again := ((s.launch? c.lid).map Launch.redundant).getD false && c.role == .single
    match if again then s1.startCopies c.cluster c.cid u
        else if s1.canStart c.cluster u ∧ s1.resizeReady c.cluster u.scratch then
          some (s1.startCrew c.cluster c.cid u c.versioned c.role)
        else none with
    | none => s
    | some s2 => match s2.crew? c.cid with
      | some d => s2.setCrew { d with reruns := c.reruns }
      | none => s2

/-- A unit is to be created again: its groups end, and its version is dropped. -/
def State.markRestart (s : State) (c : Crew) : State :=
  ((s.discardVersion c.cid).setCrew { c with restart := true }).endGroups c.cid

/-- The unit ends without completing (R379): its version was discarded, or its group was revived. -/
def State.abandoned (s : State) (c : Crew) : Bool :=
  c.discarded || s.groups.any fun g => g.cid == c.cid && g.revived

/-- CREW_RETIRE (R23, R385): a crew whose groups have retired and whose commands have completed commits and is counted out;
one to be restarted starts again. -/
def execCrewRetire (crew : Nat) (s : State) : Host.Outcome State Fault Refusal :=
  .next (match s.crew? crew with
    | none => s
    | some c =>
      if !s.crewDone c then s
      else if c.restart then s.restartCrew c
      else if c.task.isSome ∨ c.role ≠ .single then s
      else if s.abandoned c then s.unitOver c
      else if s.commitReady c then (s.commit c).unitOver c
      else s)

/-! ### Task completion (R351 to R353) -/

/-- The successor addresses of a task, ascending, those that are 0 left out. -/
def TaskRec.succs (t : TaskRec) : List Nat :=
  let a := t.f 191 128
  let b := t.f 255 192
  (if a ≤ b then [a, b] else [b, a]).filter fun x => x != 0

/-- A counter that passes its checks: its physical address and leaf entry, its decrements, and the task it releases with that
task's launch. -/
structure Counter where
  va : Nat
  pa : Nat
  ent : Nat
  n : Nat
  free : Option (Nat × TaskRec)
  deriving DecidableEq, Repr

/-- One counter's checks (R353): its address, its value, the record it would release. Bytes are read in `after`, as the commit
of the task's version will leave them (R351). -/
def State.counterAt (s after : State) (c : Crew) (va n : Nat) : Except Nat Counter × State :=
  if va % 192 ≠ 64 then (.error 0x04, s)
  else match s.translate c.ctx va .write with
    | (.error e, s1) => (.error e, s1)
    | (.ok x, s1) =>
      if rangeOf x.pa ≠ .device ∨ x.nc then (.error 0x06, s1)
      else
        let v := after.rdN x.pa 4
        let rec_ : TaskRec :=
          { bits := BitVec.ofNat 512 (after.rdN (x.pa - 64) 64)
            addr := BitVec.ofNat 64 (va - 64) }
        if v < n then (.error 0x0D, s1)
        else if v ≠ n then (.ok { va, pa := x.pa, ent := x.ent, n, free := none }, s1)
        else match s1.launchFor c.ctx c.lid rec_ with
          | none => (.error 0x01, s1)
          | some l => (.ok { va, pa := x.pa, ent := x.ent, n, free := some (l.lid, rec_) }, s1)

/-- Every counter, each wholly before the next; the first failure with its address. -/
def State.counters (s after : State) (c : Crew) : List (Nat × Nat) → Except (Nat × Nat) (List Counter) × State
  | [] => (.ok [], s)
  | (va, n) :: l => match s.counterAt after c va n with
    | (.error e, s1) => (.error (e, va), s1)
    | (.ok k, s1) => match s1.counters after c l with
      | (.error e, s2) => (.error e, s2)
      | (.ok ks, s2) => (.ok (k :: ks), s2)

/-- The addresses with the decrements that each takes. -/
def succCounts (l : List Nat) : List (Nat × Nat) := (dedupe l).map fun a => (a, (l.filter fun b => b == a).length)

/-- The group is revived in the trap of a failed completion (R353, R377), once its core has room for it; a cluster in retention
leaves it for that (R418). -/
def State.revive (s : State) (g : Group) (t : Trap) : State :=
  if s.coreGroups g.core < 16 ∧ g.count ≤ s.freeRows g.core then
    let x := { g with retired := false, revived := true, splits := [Split.start g.lastExit] }
    (((s.wakeCluster (g.core / 4)).lapse g.core (s.ctxOf g)).setGroup x).trapEntry g.gid 0 t g.lastExit 0 true
  else s

/-- A counter is decremented by the task engine, on the committed value (R351), and the page it lies in joins the snapshot of a
REPLAYABLE launch. -/
def State.decrement (s : State) (c : Crew) (k : Counter) : State :=
  let s1 := s.markConflict c.lid (tileOf k.pa)
  let s2 := if s1.snapFits c [k.pa] then s1.snapshot c [k.pa] else s1
  s2.devWrite k.pa (toBytes 4 (s2.rdN k.pa 4 + 2 ^ 32 - k.n))

/-- A released task joins its launch's ready tasks on the die that homes its line (R351). -/
def State.release (s : State) (k : Counter) : State := match k.free with
  | none => s
  | some (lid, t) => match s.launch? lid with
    | some l => s.insertReady (homeDie k.pa) (l.ready t false)
    | none => s

/-- Steps 3 and 4 of R351: the live counts, the commit, the decrements, the releases. -/
def State.completeTask (s : State) (c : Crew) (ks : List Counter) : State :=
  let s1 := ks.foldl (fun s k => match k.free with
    | some (lid, _) => s.addLive lid 1
    | none => s) s
  let s2 := ks.foldl (fun s k => s.decrement c k) (s1.commit c)
  (ks.foldl (fun s k => s.release k) s2).unitOver c

/-- Step 1 of R351: the homes of a task's successor lines can give them to the completion now, and the commit can be made. -/
def State.succsFree (s : State) (c : Crew) (t : TaskRec) : Bool :=
  s.commitReady c && t.succs.all fun va => match s.lookUp c.ctx va with
    | some pa => rangeOf pa != .device || s.devFree pa
    | none => true

/-- The completion of a task (R351): the lines are taken before anything is judged, and DIRTY stands before the decrements
(R35). -/
def State.taskDone (s : State) (c : Crew) (t : TaskRec) (g : Group) : State :=
  if !s.succsFree c t then s
  else match s.counters (s.commit c) c (succCounts t.succs) with
    | (.error (e, va), s1) => s1.revive g { cause := e, taddr := BitVec.ofNat 64 va }
    | (.ok ks, s1) =>
      match ks.find? fun k => s1.unitPoisoned c (k.pa - 64) 68 with
      | some k => s1.unitError c k.pa
      | none =>
        let s2 := s1.dirtyAll (ks.map (·.ent))
        if ks.all (fun k => s2.devFree k.pa && !s2.dirtyPending k.ent) ∧ s2.commitReady c then s2.completeTask c ks else s2

/-- TASK_COMPLETION (R351): the task of a group that has retired, its commands ended. -/
def execTaskCompletion (crew : Nat) (s : State) : Host.Outcome State Fault Refusal :=
  .next (match s.crew? crew with
    | none => s
    | some c => match c.task, s.groups.find? fun g => g.cid == crew with
      | some t, some g =>
        if !s.crewDone c ∨ c.restart ∨ c.role ≠ .single then s
        else if s.abandoned c then s.unitOver c
        else s.taskDone c t g
      | _, _ => s)

/-! ### Redundant units (R407, R409) -/

/-- A crew's signature. -/
def State.sigOf (s : State) (cid : Nat) : Nat := ((s.version? cid).map Version.sig).getD 0

/-- REDUNDANT_COMPARE (R409): when both copies have ended, equal signatures leave the primary to commit and drop the shadow;
a first difference runs both again; a second is fatal. -/
def execRedundantCompare (crew : Nat) (s : State) : Host.Outcome State Fault Refusal :=
  .next (match s.crew? crew with
    | none => s
    | some p => match p.role with
      | .primary q => match s.crew? q with
        | none => s
        | some d =>
          if !s.crewDone p ∨ !s.crewDone d ∨ p.restart ∨ d.restart then s
          else
            let die := dieOfCluster p.cluster
            let info : ErrInfo := { detail := p.utag, loc := locOf p.cluster 0, ctx := some p.ctx, cause := 0x13 }
            if s.sigOf p.cid = s.sigOf d.cid then
              let s1 := ((s.dropVersion d.cid).releaseCrew d).setCrew { p with role := .single }
              if p.reruns = 0 then s1 else s1.logError die 0 0x05 { info with cause := 0 }
            else if p.reruns = 0 then
              (s.markRestart { p with reruns := 1 }).markRestart { d with reruns := 1 }
            else s.fatal die 0x22 info
      | _ => s)

end Sys2Proof.Machine
end

