-- ==== Sys2Proof/Machine/Launch.lean ====
section
/-! DEFINITION. Launch queues and launches (R341, R343, R346, R347), crew starts and task dispatch (R360 to R362), and
stealing (R363, R364). -/

namespace Sys2Proof.Machine

/-! ### Queues (R341) -/

/-- The home die of a registered header. -/
def State.headerDie (s : State) (ctx q : Nat) : Nat := homeDie (s.header ctx q)

/-- QUEUE_TAIL_READ (R341): a record that TAIL shows and that has not been read is read, once, and sent to the other dies. -/
def execQueueTailRead (ctx q : Nat) (s : State) : Host.Outcome State Fault Refusal :=
  .next (
    let hdr := s.header ctx q
    let i := nth 0 (s.ctx ctx).readIdx q
    let slot := s.slotPa hdr i
    if hdr = 0 ∨ !(s.ctx ctx).registered ∨ s.rdN hdr 8 ≤ i ∨ !s.rduFree hdr ∨ !s.rduFree slot then s
    else
      let msg := (ctx, q, i, BitVec.ofNat 1536 (s.rdN slot 192))
      let s1 := s.setCtx ctx { s.ctx ctx with readIdx := putAt (s.ctx ctx).readIdx q (i + 1) }
      let home := homeDie hdr
      let s2 : State := { s1 with dies := s1.dies.mapIdx fun d x =>
        if d = home then { x with got := x.got ++ [msg] } else { x with fwd := x.fwd ++ [msg] } }
      if s.poisoned hdr 192 ∨ s.poisoned slot 192 then
        s1.fatal home 0x20 { addr := slot, ctx := some ctx, cause := 0x07 }
      else s2)

/-- LAUNCH_RECORD_FORWARD (R341): a die receives the next record sent to it. -/
def execLaunchRecordForward (die : Nat) (s : State) : Host.Outcome State Fault Refusal :=
  .next (match (s.die die).fwd with
    | [] => s
    | m :: l => s.setDie die { s.die die with fwd := l, got := (s.die die).got ++ [m] })

/-- The cause for which a record is refused (R343): 0x02, then 0x01, then 0x04. -/
def refusal (record : BitVec 1536) : Option Nat :=
  let f (hi lo : Nat) : Nat := bits record.toNat hi lo
  let grid : Bool := f 376 376 = 0
  if f 447 393 ≠ 0 ∨ f 391 390 ≠ 0 ∨ f 375 371 ≠ 0 ∨ f 311 308 ≠ 0 ∨ (grid ∧ f 255 248 ≠ 0)
      ∨ (grid ∧ (f 303 288 ≠ 0 ∨ f 191 176 ≠ 0)) ∨ (!grid ∧ (f 307 304 ≠ 0 ∨ f 287 256 ≠ 0 ∨ f 255 192 ≠ 0)) then some 0x02
  else if f 335 320 % 16 ≠ 0 ∨ f 335 320 < 16 ∨ 512 < f 335 320 ∨ f 367 336 % 8 ≠ 0 ∨ 1572864 < f 367 336 ∨ 32 < f 319 312
      ∨ (grid ∧ (f 143 128 = 0 ∨ f 159 144 = 0 ∨ f 175 160 = 0)) ∨ (!grid ∧ f 303 288 = 0)
      ∨ (f 392 392 = 1 ∧ f 389 384 < 4) then some 0x01
  else if (grid ∧ f 63 0 % 8 ≠ 0) ∨ (!grid ∧ f 191 128 % 64 ≠ 0) ∨ f 511 448 % 8 ≠ 0 then some 0x04
  else none

/-- ERRV, ERRW, ERRCAUSE and ERRIDX of a header (Table 15-1), as its bytes 48 to 55. -/
def errWord (unwritten : Bool) (cause index : Nat) : List Byte :=
  toBytes 8 (2 ^ 63 + unwritten.toNat * 2 ^ 62 + cause % 256 * 2 ^ 48 + index % 2 ^ 48)

/-- A launch as it is first admitted. -/
def Launch.fresh (lid ctx q i : Nat) (record : BitVec 1536) (homeDie : Nat) : Launch :=
  { lid, ctx, queue := q, index := i, record, homeDie, admitted := List.replicate 4 false, registered := false
    started := false, taken := List.replicate 4 none, reported := List.replicate 4 false, live := 0, replays := 0
    snaps := [], conflict := false, held := [], heldUpd := [] }

/-- The launch of an index of a queue, made where no die has admitted it before. -/
def State.launchOf (s : State) (ctx q i : Nat) (record : BitVec 1536) : State × Launch :=
  match s.launches.find? fun l => l.ctx == ctx && l.queue == q && l.index == i with
  | some l => (s, l)
  | none =>
    let l := Launch.fresh s.nextId ctx q i record (s.headerDie ctx q)
    ({ s with launches := s.launches ++ [l], nextId := s.nextId + 1 }, l)

/-- LAUNCH_ADMIT (R341, R343): a die admits the next index of a queue in order, or refuses its record; DONEd advances. -/
def execLaunchAdmit (die ctx q : Nat) (s : State) : Host.Outcome State Fault Refusal :=
  .next (
    let x := s.ctx ctx
    let hdr := s.header ctx q
    let i := NMap.get 0 x.admitIdx (8 * die + q)
    match (s.die die).got.find? fun m => m.1 == ctx && m.2.1 == q && m.2.2.1 == i with
    | none => s
    | some m =>
      let before := s.launches.any fun l => l.ctx == ctx && l.queue == q && l.index + 32 == i
      if hdr = 0 ∨ before ∨ !s.devFree hdr then s
      else
        let s1 := s.setDie die { s.die die with got := (s.die die).got.filter fun n => n != m }
        let s2 := s1.setCtx ctx { x with admitIdx := NMap.set 0 x.admitIdx (8 * die + q) (i + 1) }
        match refusal m.2.2.2 with
        | some c =>
          let s3 := (s2.devWrite (hdr + 48) (errWord false c i)).devWrite (hdr + 16 + 8 * die) (toBytes 8 (i + 1))
          if die = homeDie hdr then { s3 with msix := s3.msix ++ [2] } else s3
        | none =>
          let (s3, l) := s2.launchOf ctx q i m.2.2.2
          let s4 := s3.setLaunch { l with admitted := putAt l.admitted die true }
          (s4.devWrite (hdr + 16 + 8 * die) (toBytes 8 (i + 1))).distributeDue l.lid die)

/-! ### The live count and the end (R347) -/

/-- DISTRIBUTION_REPORT (R347): a die's count of the units it took reaches the registering die. A die that could not yet read
the root records of a started launch tries again (R346). -/
def execDistributionReport (launch die : Nat) (s : State) : Host.Outcome State Fault Refusal :=
  .next (match s.launch? launch with
    | none => s
    | some l => match nth none l.taken die with
      | some n =>
        if nth false l.reported die then s
        else s.setLaunch { l with reported := putAt l.reported die true, live := l.live + n }
      | none => s.distributeDue launch die)

/-- The failure of a launch's completion word, recorded in its queue's header (R347). -/
def State.doneFailed (s : State) (l : Launch) (cause : Nat) : State :=
  let s1 := s.devWrite (s.header l.ctx l.queue + 48) (errWord true cause l.index)
  { s1 with msix := s1.msix ++ [2] }

/-- Where the completion word is to be written; none when there is none or it cannot be written, with the cause (R347). -/
def State.donePlace (s : State) (l : Launch) : Except Nat (Option Xlate) × State :=
  let va := l.f 511 448
  if va = 0 then (.ok none, s)
  else if inWindow va then (.error 0x06, s)
  else match s.translate l.ctx va .write with
    | (.error c, s1) => (.error c, s1)
    | (.ok x, s1) => (.ok (some x), s1)

/-- The completion word is written (R347). -/
def State.writeDone (s : State) (l : Launch) (x : Xlate) : State :=
  if rangeOf x.pa = .device then (s.markConflict l.lid (tileOf x.pa)).devWrite x.pa (toBytes 8 1)
  else s.wrBytes x.pa (toBytes 8 1)

/-- Steps 2 to 4 of R347: the completion word, MSI-X, the set mask with the launches it starts, the slot freed. -/
def State.closeLaunch (s : State) (l : Launch) : State :=
  let s1 := match s.donePlace l with
    | (.error c, s1) => s1.doneFailed l c
    | (.ok none, s1) => s1
    | (.ok (some x), s1) => s1.writeDone l x
  let s2 : State := if l.f 392 392 = 1 then { s1 with msix := s1.msix ++ [l.f 389 384] } else s1
  let x := s2.ctx l.ctx
  let s3 := s2.setCtx l.ctx (x.setEv (x.ev ||| BitVec.ofNat 256 (bits l.record.toNat 1535 1280)))
  State.startLaunches { s3 with launches := s3.launches.filter fun m => m.lid != l.lid } l.ctx

/-- The homes that a launch's end writes act on it now, and DIRTY stands for its held writes (R35). -/
def State.endReady (s : State) (l : Launch) : Bool :=
  s.devFree (s.header l.ctx l.queue) && s.heldReady l.held && (l.heldUpd.all fun u => s.performReady l.ctx u)
    && match (s.donePlace l).1 with
      | .ok (some x) => rangeOf x.pa != .device || s.devFree x.pa
      | _ => true

/-- DIRTY is set in the leaf of the completion word's page (R35); the second part tells that this has still to be done. -/
def State.doneDirty (s : State) (l : Launch) : State × Bool := match s.donePlace l with
  | (.ok (some x), s1) => let s2 := s1.setDirty x.ent; (s2, s2.dirtyPending x.ent)
  | _ => (s, false)

/-- LAUNCH_END (R347, R403): every die has reported, the live count is 0 and no version is left. Held writes and held
instructions are released first. -/
def execLaunchEnd (launch : Nat) (s : State) : Host.Outcome State Fault Refusal :=
  .next (match s.launch? launch with
    | none => s
    | some l =>
      if !l.reported.all id ∨ l.live ≠ 0 ∨ (s.crews.any fun c => c.lid == launch) ∨ !s.endReady l then s
      else
        let (s0, wait) := s.doneDirty l
        if wait then s0 else
        let s1 := s0.setLaunch { l with held := [], heldUpd := [] }
        let s2 := l.held.foldl (fun s h => s.sendHeld h) s1
        (l.heldUpd.foldl (fun s u => s.perform l.ctx u) s2).closeLaunch l)

/-! ### Starting crews and tasks (R360 to R362) -/

/-- INSERTION_QUEUE_DRAIN (R360): the first waiting task goes to a table with a free entry. -/
def execInsertionQueueDrain (die : Nat) (s : State) : Host.Outcome State Fault Refusal :=
  .next (match (s.die die).insQ with
    | [] => s
    | e :: l =>
      (State.insertNow (s.setDie die { s.die die with insQ := l }) die e).getD s)

/-- CREW_START (R360): the next crew of a die starts on the best cluster where it can start whole. -/
def execCrewStart (die : Nat) (s : State) : Host.Outcome State Fault Refusal :=
  .next (match (s.die die).crewQ with
    | [] => s
    | (lid, c) :: rest => match s.launch? lid with
      | none => s.setDie die { s.die die with crewQ := rest }
      | some l =>
        let u := l.crewSpec c
        match s.bestCluster u ((clustersOf die).filter fun k => s.canStart k u) with
        | none => s
        | some k => ((s.setDie die { s.die die with crewQ := rest }).startUnit k l u).getD s)

/-- The READY entries of a table whose contexts are resident, with their slots (R361). -/
def State.readyEntries (s : State) (k : Nat) : List (Nat × Ready) :=
  (s.cluster k).ready.filterMap fun e => match e.2 with
    | some r => if r.st = .ready ∧ (s.ctx r.ctx).registered ∧ !(s.ctx r.ctx).out then some (e.1, r) else none
    | none => none

/-- The order of R361 among entries, by the scores and the pair of cluster `k`. -/
def State.dispatchKey (s : State) (k : Nat) (e : Nat × Ready) : List Int :=
  [-(e.2.prio : Int), -(s.score k e.2.ctx e.2.task.ranges : Int),
   (s.pairDiff k ((s.ctx e.2.ctx).cost (e.2.task.f 470 468)) : Int), (e.1 : Int)]

/-- The entry a cluster chooses among some (R361). -/
def State.chosen (s : State) (k : Nat) (l : List (Nat × Ready)) : Option (Nat × Ready) := argMin (s.dispatchKey k) l

/-- An entry's task could be started on a cluster now. -/
def State.startable (s : State) (k : Nat) (e : Ready) : Bool :=
  match s.readySpec e with
  | some u => s.canStart k u
  | none => false

/-- Cluster `k` would defer the dispatch of a task (R362): the pair's difference would pass a tenth of its sum and grow,
while the partner holds a READY entry that it could start now. -/
def State.wouldDefer (s : State) (k : Nat) (e : Ready) : Bool :=
  let a := s.current' k
  let b := s.current' (partner k)
  let c := (s.ctx e.ctx).cost (e.task.f 470 468)
  let after := ((a + c : Nat) - (b : Nat) : Int).natAbs
  decide (a + c + b < 10 * after) && decide (((a : Int) - b).natAbs < after)
    && (s.readyEntries (partner k)).any fun x => s.startable (partner k) x.2

/-- The dispatch is deferred; when both clusters of a pair would defer, the lower-numbered one dispatches (R362). -/
def State.defers (s : State) (k : Nat) (e : Ready) : Bool :=
  s.wouldDefer k e && !(k % 2 == 0 && match s.chosen (partner k) (s.readyEntries (partner k)) with
    | some x => s.startable (partner k) x.2 && s.wouldDefer (partner k) x.2
    | none => false)

/-- TASK_DISPATCH (R349, R361): a cluster starts the READY entry it chooses. -/
def execTaskDispatch (cluster : Nat) (s : State) : Host.Outcome State Fault Refusal :=
  .next (match s.chosen cluster (s.readyEntries cluster) with
    | none => s
    | some (i, e) => match s.launch? e.lid with
      | none => s
      | some l =>
        if !s.startable cluster e ∨ s.defers cluster e then s
        else ((s.setReady cluster i none).startUnit cluster l (l.taskSpec e.task e.prio)).getD s)

/-! ### Stealing (R363, R364) -/

/-- The entries of a victim that a thief could take. -/
def State.stealable (s : State) (victim thief : Nat) : List (Nat × Ready) :=
  (s.readyEntries victim).filter fun e => !e.2.task.pin && s.backed e.2.ctx && s.startable thief e.2

/-- STEAL (R363): a cluster with no READY entry and a free one chooses its victim, which marks the entry TRANSIT and sends a
copy. -/
def execSteal (thief : Nat) (s : State) : Host.Outcome State Fault Refusal :=
  .next (
    let die := dieOfCluster thief
    let busy := (s.cluster thief).ready.any fun e => match e.2 with
      | some r => r.st == .ready
      | none => false
    if busy ∨ (s.cluster thief).freeSlot.isNone then s
    else
      let victims := (clustersOf die).filter fun k => k != thief && !(s.stealable k thief).isEmpty
      match argMin (fun k => [-((s.stealable k thief).length : Int), (k : Int)]) victims with
      | none => s
      | some v => match s.chosen v (s.stealable v thief) with
        | none => s
        | some (i, e) =>
          let s1 := s.setReady v i (some { e with st := .transit thief })
          s1.setDie die { s1.die die with steals := (s1.die die).steals ++ [.copy v i thief e] })

/-- The first message of a hand-over that `f` accepts, and the messages that remain. -/
def takeSteal {α : Type} (f : StealMsg → Option α) : List StealMsg → Option (α × List StealMsg)
  | [] => none
  | m :: l => match f m with
    | some a => some (a, l)
    | none => (takeSteal f l).map fun r => (r.1, m :: r.2)

/-- STEAL_COPY (Table 15-8, step 2): the thief inserts the copy as PENDING and sends ACK; it waits for a free entry and for
room in the backing. -/
def execStealCopy (die : Nat) (s : State) : Host.Outcome State Fault Refusal :=
  .next (match takeSteal (fun m => match m with
      | .copy v i k _ => some (v, i, k)
      | _ => none) (s.die die).steals with
    | none => s
    | some ((v, i, k), rest) => match (s.cluster v).entry i, (s.cluster k).freeSlot with
      | some e, some j =>
        if !s.backed e.ctx then s
        else
          let s1 := s.setReady k j (some { e with st := .pending v i })
          s1.setDie die { s1.die die with steals := rest ++ [.ack v i k j] }
      | _, _ => s)

/-- STEAL_ACK (step 3): the victim removes the entry and sends CONFIRM. -/
def execStealAck (die : Nat) (s : State) : Host.Outcome State Fault Refusal :=
  .next (match takeSteal (fun m => match m with
      | .ack v i k j => some (v, i, k, j)
      | _ => none) (s.die die).steals with
    | none => s
    | some ((v, i, k, j), rest) =>
      let s1 := s.setReady v i none
      s1.setDie die { s1.die die with steals := rest ++ [.confirm k j] })

/-- The thief k has the confirmation of its entry j: the entry becomes READY; one that a TCANCEL has met meanwhile is
removed (R367). -/
def State.confirmed (s : State) (die k j : Nat) : State :=
  let s1 : State := s.setDie die { s.die die with steals := (s.die die).steals.filter fun n => n != .confirm k j }
  match (s1.cluster k).entry j with
  | some e =>
    if e.cancel then (s1.setReady k j none).addLive e.lid (-1) else s1.setReady k j (some { e with st := .ready })
  | none => s1

/-- STEAL_CONFIRM (step 4): the oldest confirmation of the die reaches its thief. -/
def execStealConfirm (die : Nat) (s : State) : Host.Outcome State Fault Refusal :=
  .next (match takeSteal (fun m => match m with
      | .confirm k j => some (k, j)
      | _ => none) (s.die die).steals with
    | none => s
    | some ((k, j), _) => s.confirmed die k j)

/-- A thief whose task's context is switched out before the victim accepts ACK drops its copy, and the entry returns to
READY; one that a TCANCEL has met is removed (R364, R367). -/
def State.stealBack (s : State) (die : Nat) (ctx : Nat) (m : StealMsg) : State :=
  let back (s : State) (v i : Nat) : State := match (s.cluster v).entry i with
    | some e =>
      let s1 : State := s.setDie die { s.die die with steals := (s.die die).steals.filter fun n => n != m }
      if e.ctx ≠ ctx then s
      else if e.cancel then (s1.setReady v i none).addLive e.lid (-1) else s1.setReady v i (some { e with st := .ready })
    | none => s
  match m with
  | .copy v i _ _ => back s v i
  | .ack v i k j => match (s.cluster k).entry j with
    | some e => if e.ctx = ctx then back (s.setReady k j none) v i else s
    | none => s
  | .confirm _ _ => s

/-- Every hand-over of a context's tasks that no victim has accepted is undone (R364). -/
def State.stealsBack (s : State) (ctx : Nat) : State :=
  (List.range 4).foldl (fun s d => (s.die d).steals.foldl (fun s m => s.stealBack d ctx m) s) s

end Sys2Proof.Machine
end

