-- ==== Sys2Proof/Machine/Waits.lean ====
section
/-! DEFINITION. Completion points of long-latency operations (R12, R88) and the results that stand before them (R13), the
conditions that operations wait for, sleeping splits (R121), and the denial of register growth (R30, R122). -/

namespace Sys2Proof.Machine

/-! ### Waiting operations -/

/-- The condition of a waiting operation holds; none for an operation that waits for no condition of R121. -/
def State.condition (s : State) (o : Op) (g : Group) (c : Crew) : Option Bool := match o.kind with
  | .mwait => some (s.watchMet o)
  | .nbarwait b ph => some ((c.bar b).phase != ph)
  | .nbarsync b (some ph) => some ((c.bar b).phase != ph)
  | .nbarsync _ none => some false
  | .tbwait _ _ _ _ invalid => some invalid
  | .evwait _ n mask => some (s.evWord c n &&& mask == mask)
  | .tagwany _ m _ => some ((s.core g.core).anyDone m)
  | .tagwall m => some ((s.core g.core).allDone m)
  | _ => none

/-- A split sleeps on an operation of its group (R121): the clause that it would start next, a pop of its own made first
(R119), waits on a flag whose count in the split includes the operation, and the operation waits for a condition that does
not hold. -/
def State.sleepsOn (s : State) (g : Group) (c : Crew) (p : Split) (o : Op) : Bool :=
  p.cl.isNone && p.owed.isEmpty && o.gid == g.gid && s.condition o g c == some false
    && match s.nextClause c.ctx p with
      | .error _ => false
      | .ok x => o.charges.any fun e => e.1 == p.num && (hdrWait x.hdr).testBit e.2

/-- A split is asleep (R121). -/
def State.asleep (s : State) (g : Group) (p : Split) : Bool :=
  match s.crew? g.cid with
  | none => false
  | some c => s.ops.any fun o => s.sleepsOn g c p o

/-- A split waits in a REGGROW. -/
def Split.growing (p : Split) : Bool := match p.hold with
  | .grow .. => true
  | _ => false

/-- A group is blocked in REGGROW (R121). -/
def State.growBlocked (s : State) (g : Group) : Bool :=
  g.live.any Split.growing && g.live.all fun p => p.growing || s.asleep g p

/-- The youngest of some groups (R31). -/
def State.youngestGroup (s : State) (l : List Group) : Option Group :=
  l.foldl (fun b g => match b with
    | none => some g
    | some x => if keyLt (s.ageKey x) (s.ageKey g) then some g else b) none

/-- REGGROW_DENY (R122): when every group resident on a core is blocked in REGGROW and no request can be granted, every
waiting request of the youngest group is denied. -/
def execReggrowDeny (core : Nat) (s : State) : Host.Outcome State Fault Refusal :=
  .next (
    let gs := s.groups.filter fun g => g.core == core && !g.retired
    let grantable : Bool := match oldest (s.growReqs core) with
      | some r => decide (r.n ≤ s.freeRows core)
      | none => false
    if gs.isEmpty ∨ grantable ∨ !gs.all fun g => s.growBlocked g then s
    else match s.youngestGroup gs with
      | none => s
      | some g => ((s.growReqs core).filter fun r => r.gid == g.gid).foldl (fun s r => s.answerGrow r false) s)

/-! ### Completion -/

/-- The addresses of runs, byte by byte, in memory. -/
def segAddrs (l : List Seg) : List (Nat × Nat × Bool) := l.flatMap fun g => (List.range g.len).map fun i => match g.place with
  | .phys pa nc => (pa + i, g.va + i, nc)
  | .scratch b => (b + i, g.va + i, false)

/-- CTXSAVE completes (R400): its image is stored byte by byte in one step, once DIRTY stands in its leaves (R35). -/
def State.ctxsaveDone (s : State) (c : Crew) (dst : List Seg) (image : List Byte) : Option State :=
  let as_ := segAddrs dst
  if s.dirtyDone dst ∧ as_.all fun a => s.lineReady c a.1 a.2.2 true then
    some ((as_.zip image).foldl (fun s e => s.unitStore c e.1.1 e.1.2.1 e.1.2.2 [e.2] true) s)
  else none

/-- The bytes that a group of a unit loads from runs. -/
def State.loadBytes (s : State) (c : Crew) (l : List Seg) : List Byte :=
  (segAddrs l).map fun a => BitVec.ofNat 8 (s.unitLoad c a.1 1 a.2.2)

/-- A word of a save image (Table 16-6). -/
def imageWord (im : List Byte) (off : Nat) : Word := BitVec.ofNat 32 (ofBytes ((im.drop off).take 4))

/-- The v-register blocks of an image, in ascending order. -/
def imageBlocks (im : List Byte) : List Nat :=
  let m := ofBytes ((im.drop 8).take 8)
  (List.range 64).filter fun k => m.testBit k

/-- CTXLOAD writes the named blocks below the register count, s0 to s123 and s127 (R400). -/
def Group.loadImage (g : Group) (im : List Byte) : Group :=
  let g1 := (imageBlocks im).zipIdx.foldl (fun g e => (List.range 8).foldl (fun g m =>
    if 8 * e.1 + m < g.count then
      g.wrLanes (8 * e.1 + m) (fun l => imageWord im (0xC40 + 3072 * e.2 + 384 * m + 4 * l)) (List.range 96)
    else g) g) g
  ((List.range 124) ++ [127]).foldl (fun g i =>
    { g with sr := NMap.set 0 g.sr i (imageWord im (0xA40 + 4 * i)) }) g1

/-- CTXLOAD completes. -/
def State.ctxloadDone (s : State) (o : Op) (c : Crew) (src : List Seg) : Option State :=
  if (segAddrs src).all fun a => s.lineReady c a.1 a.2.2 false then
    match s.group? o.gid with
    | some g => some (s.setGroup (g.loadImage (s.loadBytes c src)))
    | none => some s
  else none

/-- TLBINV completes (R399): the cached translations of the named pages, or all of the context, are dropped. -/
def State.tlbDrop (s : State) (ctx first n : Nat) (all : Bool) : State :=
  let x := s.ctx ctx
  s.setCtx ctx { x with tlb := x.tlb.filter fun t =>
    !(all || (decide (t.vpn < first + n) && decide (first < t.vpn + t.pages))) }

/-- What an operation does at its completion point; none while it must wait, or where an event of its own completes it. -/
def State.opDone (s : State) (o : Op) (g : Group) (c : Crew) : Option State := match o.kind with
  | .load d wt _ acc cp => s.loadDone o c d wt acc cp
  | .store wt acc cp => s.storeDone c wt acc cp
  | .atom ret d wt aop p acc => s.atomDone o c ret d wt aop p acc
  | .pair ret d aop half acc got => s.pairDone o c ret d aop half acc got
  | .pref acc cp => some (s.prefDone c acc cp)
  | .cwb inv acc => s.maintDone c inv acc
  | .bankcfg mask mode => s.bankcfgDone c mask mode
  | .fpush b i _ data => s.fpushDone o c.cluster b i data
  | .fpop b i _ d lanes => s.fpopDone o c.cluster b i d lanes
  | .mwait => if s.watchMet o then some (s.disarm o) else none
  | .nbarwait .. | .nbarsync _ (some _) | .tagwall _ => if s.condition o g c = some true then some s else none
  | .nbarsync _ none => none
  | .ticket d va place lanes ent => s.ticketDone o c d va place lanes ent
  | .hres d k _ res => some (s.wrCodes o.gid d k res)
  | .hdec d k _ flag res fail => some (s.hdecDone o d k flag res fail)
  | .regs ws => some (s.wrRegs o.gid ws)
  | .tagwany d m clr => if (s.core g.core).anyDone m then some (s.tagReport o g.core d m clr) else none
  | .tagfirst d m clr => some (s.tagReport o g.core d m clr)
  | .tbwait d _ _ trap invalid => s.tbwaitDone o d trap invalid
  | .done => some s
  | .evwait d n mask => s.evwaitDone o c d n mask
  | .sres ws => some (s.wrScalars o.gid o.split ws)
  | .late v sr hs .. => some (((s.wrRegs o.gid v).wrScalars o.gid o.split sr).updGroup o.gid fun g =>
      { g with hstat := hs.getD g.hstat })
  | .tlbinv first n all => some (s.tlbDrop c.ctx first n all)
  | .ctxsave dst image => s.ctxsaveDone c dst image
  | .ctxload src => s.ctxloadDone o c src
  | .matrix | .tile | .copy _ | .sred _ | .update _ | .launch .. => none

/-! ### Windows: the order of issue (R410, R426) -/

/-- The accesses that an operation still makes. -/
def OpKind.accs : OpKind → List LaneAcc
  | .load _ _ _ acc _ | .store _ acc _ | .atom _ _ _ _ _ acc | .pair _ _ _ _ acc _ => acc
  | _ => []

/-- An operation of stores. -/
def OpKind.isStore : OpKind → Bool
  | .store .. => true
  | _ => false

/-- A location in a range of Table 02-1: its line. -/
def LaneAcc.lineIn (r : Range) (a : LaneAcc) : Option Nat := match a.place with
  | .phys pa _ => if rangeOf pa = r then some (lineOf pa) else none
  | .scratch _ => none

/-- Two operations of one agent whose accesses are made in the order of issue: stores to the host window (R410), and accesses
to one line of the fabric window (R426). -/
def OpKind.ordered (a b : OpKind) : Bool :=
  let host (k : OpKind) : Bool := k.isStore && k.accs.any fun x => (x.lineIn .host).isSome
  let fabric (k : OpKind) : List Nat := k.accs.filterMap fun x => x.lineIn .fabric
  (host a && host b) || (fabric a).any fun l => (fabric b).contains l

/-- No earlier operation of its group has to be made first. -/
def State.windowTurn (s : State) (o : Op) : Bool :=
  s.ops.all fun p => !(p.gid == o.gid && decide (p.id < o.id) && p.kind.ordered o.kind)

/-! ### Results before their completion points (R13, R233) -/

/-- The words of `n` v-registers from `d` in some lanes, by (register, lane). -/
def wordsAt (d n : Nat) (lanes : List Nat) : List (Nat × Nat) := lanes.flatMap fun l => (List.range n).map fun j => (d + j, l)

/-- The registers that a CTXLOAD of an image writes in a group of `count` v-registers (R400). -/
def imageRegs (count : Nat) (im : List Byte) : List (Nat × Nat) × List Nat :=
  (((imageBlocks im).flatMap fun k => wordsAt (8 * k) 8 (List.range 96)).filter fun t => decide (t.1 < count),
   List.range 124 ++ [127])

/-- The words that an operation's result is written to: v-registers by lane, s-registers, and whether HSTAT is. `im`: the image
that a CTXLOAD reads. -/
def OpKind.results (count : Nat) (im : List Byte) : OpKind → List (Nat × Nat) × List Nat × Bool
  | .load d wt _ acc _ => (wordsAt d (wtRegs wt) (acc.map (·.lane)), [], false)
  | .atom true d wt _ _ acc => (wordsAt d (wtRegs wt) (acc.map (·.lane)), [], false)
  | .pair true d _ _ acc _ => (wordsAt d 1 (acc.map (·.lane)), [], false)
  | .fpop _ _ _ d lanes => (wordsAt d 1 (lanesOf lanes), [], false)
  | .ticket d _ _ lanes _ => (wordsAt d 2 (lanesOf lanes), [], false)
  | .hres d k _ res => (wordsAt d k (res.map (·.1)), [], false)
  | .hdec d k _ _ res fail => (wordsAt d k (res.map (·.1)), [], fail.isSome)
  | .regs ws => (ws.map fun w => (w.1, w.2.1), [], false)
  | .tagwany d _ _ | .tagfirst d _ _ | .tbwait d .. => ([], [d], false)
  | .evwait d _ _ => ([], [d, d + 1], false)
  | .sres ws => ([], ws.map (·.1), false)
  | .late v sr hs _ _ => (v.map fun w => (w.1, w.2.1), sr.map (·.1), hs.isSome)
  | .ctxload _ => ((imageRegs count im).1, (imageRegs count im).2, false)
  | _ => ([], [], false)

/-- The lowest scope of a FENCE that waits for an operation; 6 where none does. -/
def State.fenceOf (s : State) (core : Nat) (o : Op) : Nat :=
  ((List.range 6).find? fun f => s.fenceHolds core f o).getD 6

/-- The words of a result as they stand in the group that has taken it. -/
def OpKind.words (r : List (Nat × Nat) × List Nat × Bool) (h : Group) : List (Nat × Nat × Word) × List (Nat × Word) :=
  (r.1.map fun t => (t.1, t.2, NMap.get 0 h.v (96 * t.1 + t.2)), r.2.1.map fun i => (i, NMap.get 0 h.sr i))

/-- The result of an operation is split: its effects are made, the words that `Config.early` names stand in their registers,
and all of them are written at the completion point. An operation with another effect on its group, a trap among them, has no
such result. -/
def State.splitResult (s s1 : State) (o : Op) (g h : Group) (c : Crew) : State :=
  if { h with v := g.v, sr := g.sr, hstat := g.hstat } ≠ g ∨ (h.v = g.v ∧ h.sr = g.sr) then s
  else
    let now (i : Nat) : Bool := Config.early s.tick i % 2 == 0
    let im := match o.kind with
      | .ctxload src => s.loadBytes c src
      | _ => []
    let r := o.kind.results g.count im
    let (vs, ss) := OpKind.words r h
    let n := vs.length
    let v1 := (vs.zipIdx.filter fun e => now e.2).foldl (fun m e => NMap.set 0 m (96 * e.1.1 + e.1.2.1) e.1.2.2) g.v
    let s1r := (ss.zipIdx.filter fun e => now (n + e.2)).foldl (fun m e => NMap.set 0 m e.1.1 e.1.2) g.sr
    (s1.setGroup { g with v := v1, sr := s1r }).setOp { o with
      again := none
      kind := .late vs ss (if r.2.2 then some h.hstat else none) (s.fenceOf g.core o) o.canTrap }

/-- Some words of an operation's result are written before its completion point: a read of them that does not wait for the flag
finds each as it was or as it will be (R13, R233; log 95). -/
def State.early (s : State) (op : Nat) : State :=
  match s.op? op with
  | none => s
  | some o => match s.group? o.gid with
    | none => s
    | some g => match s.crew? g.cid with
      | none => s
      | some c => match if s.windowTurn o then s.opDone o g c else none with
        | none => s
        | some s1 => match s1.group? o.gid with
          | none => s
          | some h => s.splitResult s1 o g h c

/-! ### OPERATION_COMPLETE -/

/-- An ACCRD whose result has been written leaves its engine's queue (R240). -/
def State.matrixOver (s : State) (op : Nat) : State :=
  match s.cores.find? fun e => e.2.mq.any fun m => m.op == op with
  | some e => s.leaveMatrix e.1 op
  | none => s

/-- What an operation does when it goes on: a held arrival of an NBARSYNC is made when it can be (R208), a matrix command is
performed when its turn has come, a packed pair makes its first half (R181), and any other reaches its completion point;
none while it must wait. -/
def State.opGoes (s : State) (o : Op) (g : Group) (c : Crew) : Option State :=
  if !s.windowTurn o then none
  else match o.kind with
    | .nbarsync b none => s.nbarArrive o g c b
    | .matrix => some (s.goMatrix g.core o.id)
    | .atom ret d wt aop p acc =>
      if aop = 11 ∨ aop = 12 then s.pairFirst o c ret d aop acc else (s.atomDone o c ret d wt aop p acc).map fun t => t.finishOp o
    | .late .. => (s.opDone o g c).map fun t => (t.matrixOver o.id).finishOp o
    | _ => (s.opDone o g c).map fun t => t.finishOp o

/-- The accesses with which an operation may ask for a snoop-filter entry: their addresses and whether their pages are NC; and
whether they are writes. -/
def OpKind.asks : OpKind → Bool × List (Nat × Bool)
  | .load _ _ _ acc _ => (false, acc.filterMap fun a => a.place.inMemory)
  | .store _ acc _ => (true, acc.filterMap fun a => a.place.inMemory)
  | .ctxsave dst _ => (true, (segAddrs dst).map fun a => (a.1, a.2.2))
  | .ctxload src => (false, (segAddrs src).map fun a => (a.1, a.2.2))
  | _ => (false, [])

/-- An operation that cannot go on asks for the entries that its accesses need (R49). -/
def State.askOp (s : State) (o : Op) (c : Crew) : State :=
  if s.windowTurn o then o.kind.asks.2.foldl (fun s a => s.askEntry c a.1 a.2 o.kind.asks.1) s else s

/-- OPERATION_COMPLETE (R88): the operation reaches its completion point and its flags' counts fall. -/
def execOperationComplete (op : Nat) (s : State) : Host.Outcome State Fault Refusal :=
  .next (match s.op? op with
    | none => s
    | some o => match s.group? o.gid with
      | none => match o.kind with
        | .launch .. => s
        | .late .. => (s.matrixOver o.id).dropOp o.id
        | _ => s.dropOp o.id
      | some g => match s.crew? g.cid with
        | none => s
        | some c => (s.opGoes o g c).getD (s.askOp o c))

end Sys2Proof.Machine
end

