-- ==== Sys2Proof/Machine/Traps.lean ====
section
/-! DEFINITION. The instructions of block 0xF8 (R395 to R401), save images (R389, R400), and fault service: the fault ring
and the driver's replies (R381, R382). -/

namespace Sys2Proof.Machine

/-! ### TRAP, BKPT and RTT (R396, R397) -/

def execTrap (o : OpE) (s : State) := issue (.trap o) s fun _ =>
  .trap s { cause := 0x15, code := o.bits 7 0, next := true }

def execBkpt (o : OpE) (s : State) := issue (.bkpt o) s fun _ =>
  .trap s { cause := 0x14, code := o.bits 7 0, next := true }

/-- What RTT does for the trap that a split's trap registers hold (R387, R397): with VER the unit is restarted; with
REVIVED its task is completed again; else the split resumes. -/
def State.rtt (s : State) (gid sp : Nat) : State :=
  match s.group? gid with
  | none => s
  | some g => match s.crew? g.cid, g.split? sp with
    | some c, some p =>
      if p.trap.tcause.getLsbD 31 then s.markRestart c
      else if p.trap.tcause.getLsbD 30 then s.dropSplitOf { g with revived := false } sp
      else s.setGroup (g.setSplit p.trapReturn)
    | _, _ => s

def execRtt (o : OpE) (s : State) := issue (.rtt o) s fun k =>
  if !k.p.hmode then .trap s { cause := 0x01 }
  else .went ((s.rtt k.g.gid k.p.num).lastIssued k.g k.p)

/-! ### PHINT (R398) -/

/-- A range of PHINT lies within the crew's declared scratchpad, rounded up to 64 bytes. -/
def hintOk (c : Crew) (w : Word) : Bool :=
  let n := w.toNat
  bits n 31 16 == 0 || decide (bits n 15 0 + bits n 31 16 ≤ (c.scratchSize + 63) / 64)

def execPhint (o : OpE) (s : State) := issue (.phint o) s fun k =>
  let r0 := k.s o.b
  let r1 := k.s o.c
  if !hintOk k.c r0 ∨ !hintOk k.c r1 then .trap s { cause := 0x01 }
  else if k.g.stopReq then .went (s.setGroup (k.g.setSplit { k.p with hold := .phint (k.s64 o.a) r0 r1 }))
  else .done s

/-! ### TLBINV (R399) -/

def execTlbinv (o : OpE) (s : State) := issue (.tlbinv o) s fun k =>
  let n := (k.s o.b).toNat
  let va := (k.s64 o.a).toNat
  if n = 0 ∨ 2 ^ 24 ≤ n then .trap s { cause := 0x01 }
  else s.launchOp k (.tlbinv o) (.tlbinv (va / 24576) ((va + 24576 * n - 1) / 24576 - va / 24576 + 1) false)

def execTlbinvAll (o : OpE) (s : State) := issue (.tlbinvAll o) s fun k => s.launchOp k (.tlbinvAll o) (.tlbinv 0 0 true)

/-! ### Save images (Table 16-6) and CTXSAVE, CTXLOAD (R400) -/

/-- The 12 bytes of a lane mask. -/
def maskBytes (m : Mask) : List Byte := toBytes 12 m.toNat

/-- JPC in an image: the address with bit 0 set where it is valid, else 0, as JOINLO shows it (log 23). -/
def jpcWord (j : Option DWord) : Nat := match j with
  | some a => a.toNat / 8 * 8 + 1
  | none => 0

/-- An NBARSYNC that a split waits in, and the phase it has captured (R208). -/
def State.syncOf (s : State) (gid n : Nat) : Option Nat :=
  s.ops.findSome? fun o => match o.kind with
    | .nbarsync _ ph => if o.gid = gid ∧ o.split = n then some (ph.getD 0) else none
    | _ => none

/-- The 128 bytes of a split's state (Table 16-6). -/
def State.splitImage (s : State) (gid : Nat) (p : Split) : List Byte :=
  let sync := s.syncOf gid p.num
  toBytes 8 p.pc.toNat ++ toBytes 1 (if p.cl.isSome then p.widx else p.entry) ++ toBytes 1 p.hmode.toNat
    ++ toBytes 1 p.stack.length ++ toBytes 1 sync.isSome.toNat ++ maskBytes p.exec ++ maskBytes p.memb
    ++ toBytes 4 (s.fcnt gid p.num 0).toNat ++ toBytes 4 (s.fcnt gid p.num 1).toNat
    ++ toBytes 4 (s.fcnt gid p.num 2).toNat ++ toBytes 4 p.rep.word.toNat ++ toBytes 8 (jpcWord p.jpc)
    ++ toBytes 4 p.trap.tcause.toNat ++ toBytes 8 p.trap.tepc.toNat ++ toBytes 8 p.trap.taddr.toNat
    ++ toBytes 4 (p.trap.tinfo ||| (if p.hmode then 16 else 0)).toNat ++ maskBytes p.trap.texec
    ++ toBytes 4 p.trap.trep.toNat ++ toBytes 4 (sync.getD 0) ++ List.replicate 24 0

/-- The 32 bytes of a reconvergence stack entry (Table 05-4). -/
def RsEntry.image (e : RsEntry) : List Byte :=
  toBytes 8 e.pc.toNat ++ toBytes 8 e.join.toNat ++ maskBytes e.exec ++ List.replicate 4 0

/-- The 512 bytes of a split's reconvergence stack, its bottom entry first (log 23). -/
def stackImage (l : List RsEntry) : List Byte :=
  let es := l.reverse.flatMap RsEntry.image
  es ++ List.replicate (512 - es.length) 0

/-- The position of a group in the order of R31 among the groups on the device, the saved ones too; the oldest is 0 (log 23). -/
def State.agePos (s : State) (g : Group) : Nat :=
  ((s.groups ++ s.saved.flatMap (·.groups)).filter fun h => !h.retired && keyLt (s.ageKey h) (s.ageKey g)).length

/-- The first 0x40 bytes of an image. -/
def State.imageHead (s : State) (g : Group) (c : Crew) (bitmap : Nat) : List Byte :=
  let live := (g.live.map fun p => 2 ^ p.num).sum
  toBytes 8 (g.count % 2 ^ 10 + g.gidx % 16 * 2 ^ 10 + g.prio % 16 * 2 ^ 14 + live % 16 * 2 ^ 18
      + c.versioned.toNat * 2 ^ 22 + g.pinned.toNat * 2 ^ 23)
    ++ toBytes 8 bitmap ++ toBytes 8 (g.hstat.toNat + g.soft0.toNat * 2 ^ 32) ++ toBytes 8 (s.agePos g)
    ++ toBytes 32 c.utag

/-- The blocks below a register count. -/
def blocksBelow (count : Nat) : Nat := 2 ^ (count / 8) - 1

/-- The image of a group with every block below its register count (R400). -/
def State.image (s : State) (g : Group) (c : Crew) : List Byte :=
  let splits := List.range 4
  s.imageHead g c (blocksBelow g.count)
    ++ (splits.flatMap fun n => match g.split? n with
      | some p => s.splitImage g.gid p
      | none => List.replicate 128 0)
    ++ (splits.flatMap fun n => match g.split? n with
      | some p => stackImage p.stack
      | none => List.replicate 512 0)
    ++ ((List.range 128).flatMap fun i => toBytes 4 (if 124 ≤ i ∧ i ≤ 126 then 0 else (NMap.get 0 g.sr i).toNat))
    ++ ((List.range g.count).flatMap fun r => (List.range 96).flatMap fun l => toBytes 4 (g.rdV r l).toNat)

def execCtxsave (o : OpE) (s : State) := issue (.ctxsave o) s fun k =>
  let va := k.s64 o.a
  if !k.p.hmode then .trap s { cause := 0x01 }
  else if va.toNat % 192 ≠ 0 then .trap s { cause := 0x04, taddr := va }
  else
    let im := s.image k.g k.c
    match s.range k.c .dst {} false va.toNat im.length with
    | (.error t, s1) => .trap s1 t
    | (.ok dst, s1) =>
      if !s1.dstRoom k.c dst then .trap s1 { cause := 0x17, taddr := va }
      else if !s1.flagRoom k.g.gid k.p then .wait s1
      else (s1.markDst k.c dst).launchOp k (.ctxsave o) (.ctxsave (dst.map (·.1)) im)

/-- Bytes of an image with `n` blocks. -/
def imageLen (n : Nat) : Nat := 0xC40 + 3072 * n

/-- CTXLOAD (R400): its image is read by the thread, whose reads wait for the lines (R47). -/
def execCtxload (o : OpE) (s : State) := issue (.ctxload o) s fun k =>
  let va := k.s64 o.a
  if !k.p.hmode then .trap s { cause := 0x01 }
  else if va.toNat % 192 ≠ 0 then .trap s { cause := 0x04, taddr := va }
  else match s.range k.c .src {} false va.toNat (imageLen 0) with
    | (.error t, s1) => .trap s1 t
    | (.ok a, s1) =>
      if !s1.readsNow k.c (a.map (·.1)) then .wait (s1.askReads k.c (a.map (·.1)))
      else if a.any fun g => s1.segPoisoned k.c g.1 then .trap s1 { cause := 0x07, taddr := va }
      else
        let head := s1.loadBytes k.c (a.map (·.1))
        if ofBytes (head.take 8) % 2 ^ 10 ≠ k.g.count then .trap s1 { cause := 0x01 }
        else match s1.range k.c .src {} false va.toNat (imageLen (imageBlocks head).length) with
          | (.error t, s2) => .trap s2 t
          | (.ok b, s2) =>
            if !s2.readsNow k.c (b.map (·.1)) then .wait (s2.askReads k.c (b.map (·.1)))
            else if b.any fun g => s2.segPoisoned k.c g.1 then .trap s2 { cause := 0x07, taddr := va }
            else s2.launchOp k (.ctxload o) (.ctxload (b.map (·.1)))

/-! ### HALT (R401) -/

/-- A record of a context that no trap makes: KIND 3 or 4 (R381). -/
def State.addRecord (s : State) (ctx kind tag loc ngrp : Nat) (pc : DWord) : State :=
  let x := s.ctx ctx
  let r : FaultRec :=
    { id := x.nextFault, kind, cause := 0, ncause := 0, fetch := false, write := false, lane := 0xFF, tag, loc, pc, addr := 0
      ngrp, shown := 0, index := none }
  s.setCtx ctx { x with faults := x.faults ++ [r], nextFault := x.nextFault + 1 }

/-- The groups of a context that are resident. -/
def State.groupsOf (s : State) (ctx : Nat) : List Group :=
  s.groups.filter fun g => !g.retired && match s.crew? g.cid with
    | some c => c.ctx == ctx
    | none => false

/-- HALT: the issuing split stops at once, the rest of its clause unissued; the context is halted unless it is already. -/
def execHalt (o : OpE) (s : State) := issue (.halt o) s fun k =>
  let p := { k.p.goto k.p.nextClause with hold := .halted }
  let s0 := s.setGroup (k.g.setSplit p)
  let s1 := if k.p.nextWord.isNone then s0.lastIssued k.g k.p else s0.clauseIssued k.g.gid k.p.num
  let x := s1.ctx k.ctx
  if x.halt.isSome then .went s1
  else
    let s2 := s1.setCtx k.ctx { x with halt := some x.nextFault }
    .went (s2.addRecord k.ctx 3 k.c.utag (locOf k.cluster k.g.core + k.g.gidx % 16) (s.groupsOf k.ctx).length k.p.pc)

/-! ### The fault ring (R381, R382) -/

/-- A fault record as it is written, its REPLY pending (Table 16-5). -/
def FaultRec.bytes (r : FaultRec) : List Byte :=
  toBytes 8 r.addr.toNat ++ toBytes 8 r.pc.toNat ++ toBytes 4 r.ncause ++ toBytes 2 (r.tag % 2 ^ 16)
    ++ toBytes 1 (r.write.toNat + 2 * r.fetch.toNat) ++ toBytes 1 r.cause ++ toBytes 1 r.kind ++ toBytes 1 r.lane
    ++ toBytes 2 (r.ngrp % 2 ^ 16) ++ toBytes 4 r.loc ++ List.replicate 32 0

/-- Where record `i` of a context's fault ring lies. -/
def Context.faultPa (x : Context) (i : Nat) : Nat := x.fring + 64 + 64 * (i % 2 ^ x.frlog)

/-- A reply that the driver has written into the slot of record `i`, and on which the device has yet to act. -/
def State.replyPending (s : State) (x : Context) (i : Nat) : Bool :=
  let n := s.rdN (x.faultPa i + 32) 8
  decide (1 ≤ n ∧ n ≤ 4) && x.faults.any fun r => match r.index with
    | some j => j % 2 ^ x.frlog == i % 2 ^ x.frlog
    | none => false

/-- A record of a context replaced. -/
def Context.setFault (x : Context) (r : FaultRec) : Context :=
  { x with faults := updWhere (fun q => q.id == r.id) (fun _ => r) x.faults }

/-- FAULT_RECORD_WRITE (R381, R382): the first record that waits is written once the ring has room, PROD advances, and MSI-X
vector 1 is signalled; or NGRP of a written record is brought up to date. An absent ring is a full one (R375). A slot is
written again only once the device has acted on a reply that stands in it (log 25). -/
def execFaultRecordWrite (ctx : Nat) (s : State) : Host.Outcome State Fault Refusal :=
  .next (
    let x := s.ctx ctx
    let prod := s.rdN x.fring 8
    match x.faults.find? fun r => r.index.isSome && r.shown != r.ngrp with
    | some r =>
      let pa := x.faultPa (r.index.getD 0)
      if s.devFree pa then
        (s.devWrite (pa + 26) (toBytes 2 r.ngrp)).setCtx ctx (x.setFault { r with shown := r.ngrp })
      else s
    | none => match x.faults.find? fun r => r.index.isNone with
      | none => s
      | some r =>
        let pa := x.faultPa prod
        let cons := s.rdN (x.fring + 8) 8
        if x.fring = 0 ∨ 2 ^ x.frlog ≤ prod - cons ∨ s.replyPending x prod ∨ !s.devFree pa
            ∨ !s.devFree x.fring then s
        else
          let s1 := (s.devWrite pa r.bytes).devWrite x.fring (toBytes 8 (prod + 1))
          let s2 := s1.setCtx ctx (x.setFault { r with index := some prod, shown := r.ngrp })
          { s2 with msix := s2.msix ++ [1] })

/-- The written record of an id whose REPLY holds `n`; a reply waits while a group parked on the record is saved. -/
def State.replied (s : State) (ctx id n : Nat) : Option FaultRec :=
  let x := s.ctx ctx
  match x.faults.find? fun r => r.id == id with
  | none => none
  | some r => match r.index with
    | none => none
    | some i =>
      let away := s.saved.any fun v => v.crew.ctx == ctx && v.groups.any fun g => match g.parked with
        | some p => p.record == id
        | none => false
      if s.rdN (x.faultPa i + 32) 8 = n ∧ (!away ∨ 3 ≤ r.kind) then some r else none

/-- The handler of a parked split starts at TVEC, its trap registers as they stand (R382). -/
def State.restartHandler (s : State) (gid : Nat) (k : Parked) (kind : Nat) : State :=
  match s.group? gid with
  | none => s
  | some g => match s.crew? g.cid, g.split? k.split with
    | some c, some p =>
      let tvec := (s.ctx c.ctx).tvec
      if kind = 1 ∧ tvec = 0 then s.park gid k.split 1 k.trap else s.setGroup (g.setSplit (p.enterHandler tvec))
    | _, _ => s

/-- A parked group's trap of KIND 0 is delivered. -/
def State.deliver (s : State) (gid : Nat) (k : Parked) : State :=
  match (s.group? gid).bind fun g => g.split? k.split with
  | some p => let pt := p.returnPoint k.trap; s.trapEntry gid k.split k.trap pt.1 pt.2 false
  | none => s

/-- END for a parked group (R382): a task of a versioned unit ends as an EXIT in handler mode would end it, its version
discarded (R379). -/
def State.endParked (s : State) (g : Group) : State :=
  match s.crew? g.cid with
  | some c => (if c.task.isSome then s.loseVersion c g.gid else s).endGroup g.gid
  | none => s.endGroup g.gid

/-- What a reply does for one group parked on a record of KIND 0, 1 or 2. -/
def State.replyGroup (s : State) (kind n : Nat) (g : Group) (k : Parked) : State :=
  let s1 := s.setGroup { g with parked := none }
  if n = 1 then (if kind = 0 then s1 else s1.rtt g.gid k.split)
  else if n = 2 then (if kind = 0 then s1.deliver g.gid k else s1.restartHandler g.gid k kind)
  else s1.endParked g

/-- A halted context goes on: each split at its boundary (R401). -/
def State.unhalt (s : State) (ctx : Nat) : State :=
  let s1 := s.setCtx ctx { s.ctx ctx with halt := none }
  { s1 with groups := s1.groups.map fun g =>
      if s.ctxOf g = ctx then { g with splits := updWhere (fun p => p.hold == .halted) (fun p => { p with hold := .none }) g.splits }
      else g }

/-- A saved crew whose groups END ends: they are gone, and a versioned task's version with them. -/
def State.endSaved (s : State) (v : Saved) : State :=
  let lost := v.crew.task.isSome && v.crew.versioned
  let s1 := if lost then s.discardVersion v.crew.cid else s
  { s1 with saved := updWhere (fun w => w.crew.cid == v.crew.cid) (fun w => { w with
      crew := { w.crew with discarded := w.crew.discarded || lost }, ops := []
      groups := w.groups.map fun g => { g with splits := [], parked := none } }) s1.saved }

/-- Every group of a context ENDs, the saved ones too, each as a parked one does (R382). -/
def State.endContextGroups (s : State) (ctx : Nat) : State :=
  let s1 := (s.groupsOf ctx).foldl (fun s g => s.endParked g) s
  (s1.saved.filter fun v => v.crew.ctx == ctx).foldl (fun s v => s.endSaved v) s1

/-- The device acts on a reply (R382): on every group parked on the record, by its KIND, each as those before it have left it
(R386). -/
def State.reply (s : State) (ctx : Nat) (r : FaultRec) (n : Nat) : State :=
  let x := s.ctx ctx
  let s1 := s.setCtx ctx { x with faults := x.faults.filter fun q => q.id != r.id }
  if r.kind ≤ 2 then
    s1.groups.foldl (fun s h => match s.group? h.gid with
      | none => s
      | some g => match g.parked with
        | some k => if s.ctxOf g = ctx ∧ k.record = r.id then s.replyGroup r.kind n g k else s
        | none => s) s1
  else
    let s2 := if n = 3 then s1.endContextGroups ctx else s1
    if r.kind = 3 then s2.unhalt ctx
    else s2.setCtx ctx { s2.ctx ctx with out := false }

def replyEvent (ctx record n : Nat) (s : State) : Host.Outcome State Fault Refusal :=
  .next (match s.replied ctx record n with
    | some r => s.reply ctx r n
    | none => s)

/-- REPLY_RETRY, REPLY_DELIVER, REPLY_END, REPLY_RESUME (R382): the driver's replies 1 to 4. -/
def execReplyRetry (ctx record : Nat) (s : State) := replyEvent ctx record 1 s
def execReplyDeliver (ctx record : Nat) (s : State) := replyEvent ctx record 2 s
def execReplyEnd (ctx record : Nat) (s : State) := replyEvent ctx record 3 s
def execReplyResume (ctx record : Nat) (s : State) := replyEvent ctx record 4 s

end Sys2Proof.Machine
end

