-- ==== Sys2Proof/Machine/Preempt.lean ====
section
/-! DEFINITION. Pre-emption (R27, R28, R388 to R392): stopping a group, saving and resuming a crew, time slices, and the
parked-share switch (R394). -/

namespace Sys2Proof.Machine

/-! ### Stopping a group (R27, R388) -/

/-- A split stands at a PHINT (R398). -/
def Split.hinted (p : Split) : Bool := match p.hold with
  | .phint .. => true
  | _ => false

/-- A split stands at a pre-emption point (R27): at a PHINT, in a REGGROW, or asleep. -/
def State.atPoint (s : State) (g : Group) (p : Split) : Bool := p.hinted || p.growing || s.asleep g p

/-- Every operation of a group is at its completion point, but for those on which its splits are blocked; copies, crossbar
commands, stack-side reduce commands and FIFO operations have completed (R192, R280, R321, R337, R388). -/
def State.quiet (s : State) (g : Group) (c : Crew) : Bool :=
  (s.ops.all fun o => o.gid != g.gid || g.live.any fun p => s.sleepsOn g c p o)
    && (s.copies.all fun x => x.gid != g.gid) && c.outst == 0

/-- A group whose stop is pending can be stopped. A parked group of a context that is switched out counts as stopped at once
(R394), and no other stops while it is parked (R382). A halted context's groups stay resident (R401). -/
def State.canStop (s : State) (g : Group) (c : Crew) : Bool :=
  g.stopReq && !g.stopped && !g.retired && !g.splits.isEmpty && !c.restart && (s.ctx c.ctx).halt.isNone
    && if g.parked.isSome then (s.ctx c.ctx).out
      else s.quiet g c && g.splits.all (fun p => p.retained.isNone) && g.live.all fun p => s.atPoint g p

/-- GROUP_STOP (R388). -/
def execGroupStop (g : Nat) (s : State) : Host.Outcome State Fault Refusal :=
  .next (match s.group? g with
    | none => s
    | some x => match s.crew? x.cid with
      | none => s
      | some c => if s.canStop x c then s.setGroup { x with stopped := true } else s)

/-! ### Saving a crew (R389, R390) -/

/-- The crew's groups have all stopped or retired, at least one is left, what they have outstanding executes again on a
resume, and there is a save area (R27, R28, R375, R388). -/
def State.canSave (s : State) (c : Crew) : Bool :=
  let gs := s.groups.filter fun g => g.cid == c.cid
  (gs.all fun g => g.retired || (g.stopped && (g.parked.isNone || (s.ctx c.ctx).out)))
    && (s.ops.all fun o => o.again.isSome || gs.all fun g => g.gid != o.gid)
    && (gs.any fun g => !g.retired) && !c.restart && (s.ctx c.ctx).save != 0 && s.commandsOver c && !s.replaying c.lid

/-- A group stopped while one of its splits was blocked: all of it is saved. -/
def Group.wholeSaved (g : Group) : Bool := g.parked.isSome || g.live.any fun p => !p.hinted

/-- The BITMAP of a group's image (R389), below its register count. -/
def Group.bitmap (g : Group) : Nat :=
  if g.wholeSaved then blocksBelow g.count
  else g.live.foldl (fun m p => match p.hold with
    | .phint b _ _ => m ||| (b.toNat &&& blocksBelow g.count)
    | _ => m) 0

/-- A split as it is saved: it resumes at the word that blocked it, or after its PHINT; its watch and its time capture are
not saved (R141, R212, R389). -/
def Split.saved (p : Split) : Split :=
  let q := { p with watch := none, tcap := none, yieldTo := [], passed := [], hold := .none, cl := none, widx := 0 }
  if p.hinted then match p.nextWord with
    | some w => { q with entry := w }
    | none => { q with pc := p.nextClause, entry := 0 }
  else if p.cl.isSome then { q with entry := p.widx }
  else q

/-- A group as it is saved: its register blocks outside BITMAP read 0. -/
def Group.saved (g : Group) : Group :=
  let m := g.bitmap
  { g with v := g.v.filter fun e => m.testBit (e.1 / 96 / 8), splits := g.splits.map Split.saved
           stopReq := false, stopped := false }

/-- The crew-relative bytes of a range of PHINT. -/
def hintBytes (w : Word) : List Nat :=
  (List.range (64 * bits w.toNat 31 16)).map fun i => 64 * bits w.toNat 15 0 + i

/-- The scratchpad bytes that are saved with a crew: its declared bytes where a split was blocked, else the named ranges. -/
def State.savedBytes (s : State) (c : Crew) : List Nat :=
  let gs := s.groups.filter fun g => g.cid == c.cid && !g.retired
  let all := List.range ((s.scratchOwn c).length)
  if gs.any Group.wholeSaved then all
  else
    let named := gs.flatMap fun g => g.live.flatMap fun p => match p.hold with
      | .phint _ r0 r1 => hintBytes r0 ++ hintBytes r1
      | _ => []
    all.filter fun a => named.contains a

/-- The accumulators whose tokens a group holds, with their contents. -/
def State.heldAccs (s : State) (g : Group) : List (Nat × Nat × NMap Word) :=
  (s.core g.core).accs.filterMap fun e => if e.2.token = some g.gid then some (g.gid, e.1, e.2.val) else none

/-- The DONE bits of a core's tags that are bound to a context. -/
def State.doneMask (s : State) (core ctx : Nat) : DWord :=
  BitVec.ofNat 64 (((List.range 64).filter fun t => s.tagOwner core t == some ctx && ((s.core core).tag t).done).map
    fun t => 2 ^ t).sum

/-- A crew's image (R389, R390): its named barriers are words of Table 08-4 (R203). -/
def State.savedCrew (s : State) (c : Crew) : Saved :=
  let gs := s.groups.filter fun g => g.cid == c.cid
  let run := gs.filter fun g => !g.retired
  let own := s.scratchOwn c
  let bytes := s.savedBytes c
  { crew := { c with slice := 0, bars := [] }
    groups := gs.map fun g => if g.retired then g else g.saved
    accs := run.flatMap fun g => s.heldAccs g
    tags := (sortAsc (run.map (·.core))).map fun k => (k, s.doneMask k c.ctx)
    scratch := bytes.foldl (fun m a => NMap.set 0 m a (NMap.get 0 (s.cluster c.cluster).scratch (nth 0 own a))) []
    live := bytes.filter fun a => a % 8 == 0 && (s.cluster c.cluster).liveWords.contains (nth 0 own a)
    bad := (bytes.filter fun a => a % 8 == 0 && (s.cluster c.cluster).badWords.contains (nth 0 own a / 8)).map fun a => a / 8
    bars := c.bars.map Bar.word
    ops := s.ops.filter fun o => gs.any fun g => g.gid == o.gid }

/-- CREW_SAVE (R28, R390): the crew's image is written, its tokens, claims, barriers and scratchpad are released. -/
def execCrewSave (crew : Nat) (s : State) : Host.Outcome State Fault Refusal :=
  .next (match s.crew? crew with
    | none => s
    | some c =>
      if s.canSave c then
        let v := s.savedCrew c
        let gs := s.groups.filter fun g => g.cid == c.cid
        let s1 := gs.foldl (fun s g => s.returnTokens g) s
        let s2 := s1.releaseCrew c
        { s2 with ops := s2.ops.filter fun o => !gs.any fun g => g.gid == o.gid, saved := s2.saved ++ [v] }
      else s)

/-! ### Resuming a crew (R391) -/

/-- The accumulators that a saved group acquires again. -/
def Saved.accsOf (v : Saved) (gid : Nat) : List (Nat × NMap Word) :=
  v.accs.filterMap fun e => if e.1 = gid then some e.2 else none

/-- The tags that are restored where a group of old core `k` goes. -/
def Saved.doneTags (v : Saved) (k : Nat) : List Nat := match v.tags.find? fun e => e.1 == k with
  | some e => tagsOf e.2
  | none => []

/-- A core takes a saved group (R16, R242, R321): a place and rows are free, its accumulators' tokens are with the engine
and no command for them waits, and no other context holds them or its tags. -/
def State.coreTakes (s : State) (v : Saved) (g : Group) (core : Nat) : Bool :=
  let c := s.core core
  let mine (t : Option Nat) : Bool := match t with
    | some x => x == v.crew.ctx
    | none => true
  decide (s.coreGroups core < 16) && decide (g.count ≤ s.freeRows core) && (!g.pinned || g.core == core)
    && ((v.accsOf g.gid).all fun a => (c.acc a.1).token.isNone && mine (s.bound core (c.acc a.1).ctx)
        && c.mq.all fun m => !m.kind.names.1.contains a.1)
    && (v.doneTags g.core).all fun t => mine (s.tagOwner core t)

/-- A restored group stands on a core with its accumulators and tags. -/
def State.putGroup (s : State) (v : Saved) (g : Group) (core : Nat) : State :=
  let s0 := s.lapse core v.crew.ctx
  let s1 : State := { s0 with groups := s0.groups ++ [{ g with core }] }
  let s2 := (v.accsOf g.gid).foldl (fun s a =>
    s.setAcc' core a.1 { ctx := some v.crew.ctx, token := some g.gid, val := a.2 }) s1
  (v.doneTags g.core).foldl (fun s t =>
    let x := if s.tagOwner core t = some v.crew.ctx then (s.core core).tag t else Tag.reset
    s.setTag core t { x with ctx := some v.crew.ctx, done := true }) s2

/-- A list that starts at one of its places and goes round. -/
def rotate {α : Type} (l : List α) (n : Nat) : List α := let k := n % max 1 l.length; l.drop k ++ l.take k

/-- A crew's groups are placed on the cores of a cluster; none where there is no way to place all of them. The order in
which cores are tried is `Config.place`'s (log 19). -/
def State.putGroups (s : State) (v : Saved) (k : Nat) : List Group → Option State
  | [] => some s
  | g :: l =>
    if g.retired then State.putGroups { s with groups := s.groups ++ [g] } v k l
    else (rotate (coresOf k) (Config.place s.tick g.gidx)).findSome? fun core =>
      if s.coreTakes v g core then (s.putGroup v g core).putGroups v k l else none

/-- What an instruction that was blocked waits for as it executes again on the restored registers, or the trap that it now
takes (R27, R208, R311, R321): an MWAIT ends as a spurious wake, and an NBARSYNC keeps the value it has captured. -/
def State.againKind (s : State) (k : Issuer) (o : Op) : Except Trap OpKind :=
  let tags (a : Nat) (kind : OpKind) : Except Trap OpKind :=
    if s.tagFree k (tagsOf (k.s64 a)) then .ok kind else .error { cause := 0x06 }
  match o.again with
  | some (.mwait _) => .ok .done
  | some (.nbarwait e) => .ok (k.nbarwaitKind e)
  | some (.tagwany e) => tags e.a (k.tagwanyKind e)
  | some (.tagwall e) => tags e.a (k.tagwallKind e)
  | some (.tbwait e) => (s.tbKey k.c (k.s64 e.a)).map fun key => s.tbwaitKind k e key
  | some (.evwait e) => .ok (k.evwaitKind e)
  | _ => .ok o.kind

/-- The tags that it names are bound again (R311). -/
def State.againTags (s : State) (k : Issuer) (o : Op) : State := match o.again with
  | some (.tagwany e) | some (.tagwall e) => s.bindTags k (tagsOf (k.s64 e.a))
  | _ => s

/-- The split in whose place a saved operation executes again: its own, or one that has inherited its flag. -/
def Group.splitOf (g : Group) (o : Op) : Option Split :=
  match g.split? o.split with
  | some p => some p
  | none => g.splits.find? fun p => o.charges.any fun e => e.1 == p.num

/-- A saved operation is taken up again. -/
def State.executeAgain (s : State) (o : Op) : State :=
  match s.group? o.gid with
  | none => s
  | some g => match g.splitOf o, s.crew? g.cid with
    | some p, some c =>
      let k : Issuer := { g, p, c }
      match s.againKind k o with
      | .ok kind => { s.againTags k o with ops := (s.againTags k o).ops ++ [{ o with kind }] }
      | .error t => s.owe g.gid p.num { t with opc := o.opc }
    | _, _ => s

/-- The scratchpad of a resumed crew: all of its allocation reads 0 but for the saved bytes, and saved barrier words are
live again. -/
def State.putScratch (s : State) (v : Saved) (c : Crew) : State :=
  if c.scratchSize = 0 then s
  else
    let own := s.scratchOwn c
    let cl := s.cluster c.cluster
    let m0 := cl.scratch.filter fun e => !own.contains e.1
    let m1 := v.scratch.foldl (fun m e => NMap.set 0 m (nth 0 own e.1) e.2) m0
    s.setCluster c.cluster { cl with
      scratch := m1, liveWords := v.live.foldl (fun l a => insertAsc (nth 0 own a) l) cl.liveWords
      badWords := v.bad.foldl (fun l w => insertAsc (nth 0 own (8 * w) / 8) l) cl.badWords }

/-- A cluster to which a saved crew may go: its own where its context owns FIFO banks there or a group is pinned (R391). -/
def State.mayResume (s : State) (v : Saved) (k : Nat) : Bool :=
  let c := v.crew
  let owns := (s.cluster c.cluster).banks.any fun b => b.mode == .fifo && b.owner == some c.ctx
  !(owns || v.groups.any fun g => g.pinned && !g.retired) || k == c.cluster

/-- A saved crew is restored on a cluster; none where it cannot start whole there. -/
def State.resumeAt (s : State) (v : Saved) (k : Nat) : Option State :=
  let c := v.crew
  let x := s.ctx c.ctx
  if !x.registered ∨ x.out ∨ (s.bankBusy k).isSome ∨ (s.resizePlan k c.scratchSize).isNone
      ∨ !s.resizeReady k c.scratchSize ∨ 128 < s.barsUsed k + v.bars.length ∨ !s.mayResume v k then none
  else
    let s1 := (s.wakeCluster k).resize k c.scratchSize c.ctx
    let d := { c with cluster := k, scratchBase := s1.scratchStart k c.scratchSize, claims := [], bars := v.bars.map Bar.ofWord }
    let s2 : State := { s1 with crews := s1.crews ++ [d], saved := s1.saved.filter fun y => y.crew.cid != c.cid }
    ((s2.putScratch v d).putGroups v k v.groups).map fun s3 =>
      c.claims.foldl (fun s t => s.claimTile c.cid t) (v.ops.foldl (fun s o => s.executeAgain o) s3)

/-- The clusters in the order of R360 for a unit: the best first. -/
def State.resumeOrder (s : State) (u : UnitSpec) : List Nat → Nat → List Nat
  | _, 0 => []
  | ks, n + 1 => match s.bestCluster u ks with
    | none => []
    | some k => k :: s.resumeOrder u (ks.filter fun j => j != k) n

/-- CREW_RESUME (R391): a saved crew is restored on the best cluster where it can start whole. -/
def execCrewResume (crew : Nat) (s : State) : Host.Outcome State Fault Refusal :=
  .next (match s.saved.find? fun v => v.crew.cid == crew with
    | none => s
    | some v => match s.specOf v.crew 0 with
      | none => s
      | some u => ((s.resumeOrder u (List.range 96) 96).findSome? fun k => s.resumeAt v k).getD s)

/-! ### Time slices (R392) -/

/-- A stop of every group of a crew is requested (R28). -/
def State.stopCrew (s : State) (cid : Nat) : State :=
  { s with groups := updWhere (fun g => g.cid == cid) (fun g => { g with stopReq := true }) s.groups }

/-- Some crew or task waits for a place on a cluster (R392). -/
def State.placeWanted (s : State) (k : Nat) : Bool :=
  let lacks (u : UnitSpec) : Bool := !(s.ctx u.ctx).out && !s.canStart k u
  (s.die (dieOfCluster k)).crewQ.any (fun e => match s.launch? e.1 with
      | some l => lacks (l.crewSpec e.2)
      | none => false)
    || s.saved.any (fun v => s.mayResume v k && match s.specOf v.crew 0 with
      | some u => lacks u
      | none => false)
    || (s.readyEntries k).any fun e => match s.readySpec e.2 with
      | some u => lacks u
      | none => false

/-- TIME_SLICE_EXPIRY (R392): a slice of TSLICE × 10 µs, 1,000 periods each, is over: the crew's stop is requested if some
unit waits for the cluster, else the slice starts again. -/
def execTimeSliceExpiry (crew : Nat) (s : State) : Host.Outcome State Fault Refusal :=
  .next (match s.crew? crew with
    | none => s
    | some c =>
      let n := (s.ctx c.ctx).tslice
      if n = 0 ∨ c.slice < 1000 * n then s
      else if s.placeWanted c.cluster then s.stopCrew crew
      else s.setCrew { c with slice := 0 })

/-! ### Parked share (R394) -/

/-- PARKED_SHARE_SWITCH (R364, R394): the context is switched out with a record of KIND 4, the stop of its groups is
requested, and the hand-overs of its tasks are undone. -/
def execParkedShareSwitch (ctx : Nat) (s : State) : Host.Outcome State Fault Refusal :=
  .next (
    let x := s.ctx ctx
    let gs := s.groupsOf ctx
    let parked := (gs.filter fun g => g.parked.isSome).length
    if x.pshare = 0 ∨ x.out ∨ parked = 0 ∨ parked * 256 < x.pshare * gs.length then s
    else
      let f (i : Nat) : Nat := (Config.freeWord s.tick i).toNat
      let s1 := s.setCtx ctx { x with out := true }
      let s2 := s1.addRecord ctx 4 (f 0) (f 1) gs.length (BitVec.ofNat 64 (f 2 + 2 ^ 32 * f 3))
      let s3 : State := { s2 with groups := s2.groups.map fun g => if s2.ctxOf g = ctx then { g with stopReq := true } else g }
      s3.stealsBack ctx)

end Sys2Proof.Machine
end

