-- ==== Sys2Proof/Machine/Directory.lean ====
section
/-! DEFINITION. The directory as messages (R41 to R50): requests that reach a home, invalidations, forwards and answers, and
what slices and cluster caches do of themselves. -/

namespace Sys2Proof.Machine

/-- A transaction ends, and the requests that waited for it proceed. -/
def State.endTxn (s : State) (line : Nat) (r : DReq) : State :=
  let s1 := s.dirClose line r
  s1.dirDrain line (s1.dirAt line).queue.length

/-! ### Requests (Table 02-4) -/

/-- RDS: a slice's read for caching, sent on a miss. -/
def execRds (slice line : Nat) (s : State) : Host.Outcome State Fault Refusal :=
  .next (if 32 ≤ slice ∨ s.sliceHolds slice line then s else s.arrive line (.rds slice))

/-- RDU: a read that keeps no copy. -/
def execRdu (sender line : Nat) (engine : Bool) (s : State) : Host.Outcome State Fault Refusal :=
  .next (s.arrive line (.rdu sender engine))

/-- WR: a byte-masked write of one line. -/
def execWr (slice cluster : Option Nat) (pa : Nat) (bytes : List Byte) (s : State) : Host.Outcome State Fault Refusal :=
  .next (if pa % 192 + bytes.length ≤ 192 then s.arrive (lineOf pa) (.wr slice cluster (pairsAt pa bytes)) else s)

/-- DIRTY: the owner's notice of its first write; absorbed while a forward to it is outstanding (R44). -/
def execDirty (slice line : Nat) (s : State) : Host.Outcome State Fault Refusal :=
  .next (match (s.dirAt line).txn with
    | some t => if t.fwd then s else s.arrive line (.dirty slice)
    | none => s.arrive line (.dirty slice))

/-- VWR: a versioned unit's first write of a line, sent by the slice that holds its version. -/
def execVwr (unit line : Nat) (s : State) : Host.Outcome State Fault Refusal :=
  .next (match s.version? unit with
    | some v => if line ∈ v.lines then s else s.arrive line (.vwr unit v.holder)
    | none => s)

/-- CMT: the commit of a unit at one of its lines. The unit has ended, and its commit reaches all of its lines in one step, as
its completion or retirement makes it: no line of it is committed apart from the others (R48, R61, R385). -/
def execCmt (unit line : Nat) (s : State) : Host.Outcome State Fault Refusal :=
  match s.version? unit, s.crew? unit with
  | some v, some c =>
    if line ∉ v.lines then .next s else if c.task.isSome then execTaskCompletion unit s else execCrewRetire unit s
  | _, _ => .next s

/-- DIS: the discard, at one of its lines, of a unit that has been discarded (R386). -/
def execDis (unit line : Nat) (s : State) : Host.Outcome State Fault Refusal :=
  .next (match s.unitCrew? unit with
    | some c => if c.discarded then s.arrive line (.dis unit) else s
    | none => s)

/-- RECALL: the snoop filter frees an entry (R49). -/
def execRecall (line : Nat) (s : State) : Host.Outcome State Fault Refusal :=
  .next (if (s.dirAt line).st = .u then s else s.arrive line .recall)

/-- ENDK: an engine's last write to a line is done (R47). An accepted copy writes the line and gives it up; the other engines
write all of their lines in one step at the end of their commands, and a command not yet accepted gives a line up only in
R51. -/
def execEndk (cmd line : Nat) (s : State) : Host.Outcome State Fault Refusal :=
  .next (match s.kcmd? cmd with
    | none => s.endK line cmd
    | some _ => match s.copy? cmd with
      | some c => if s.copyReady c ∧ line ∈ c.held then s.copyLine c line else s
      | none => s)

/-- EVC: a slice drops a clean copy, and with it its clusters' copies (R39). -/
def execEvc (slice line : Nat) (s : State) : Host.Outcome State Fault Refusal :=
  .next (
    let e := s.dirAt line
    if e.st = .m ∨ !s.sliceHolds slice line then s else (s.invalidateSlice slice line).arrive line (.evc slice))

/-- WBE: the owner writes back and drops a copy held in M. -/
def execWbe (slice line : Nat) (s : State) : Host.Outcome State Fault Refusal :=
  .next (
    let e := s.dirAt line
    if e.st = .m ∧ e.owner = slice ∧ s.sliceHolds slice line then (s.invalidateSlice slice line).arrive line (.wbe slice) else s)

/-! ### What follows a request (R44) -/

/-- INVALIDATE: a slice that the home has asked invalidates its clusters' copies and sends its acknowledgement. -/
def execInvalidate (slice line : Nat) (s : State) : Host.Outcome State Fault Refusal :=
  .next (
    let e := s.dirAt line
    match e.txn with
    | none => s
    | some t =>
      if slice ∈ t.acks then
        (s.setDir line { e with txn := some { t with acks := t.acks.filter fun i => i != slice
                                                     acked := t.acked ++ [slice] } }).invalidateSlice slice line
      else s)

/-- INV_ACK: an acknowledgement reaches the home; the last one ends the transaction. -/
def execInvAck (slice line : Nat) (s : State) : Host.Outcome State Fault Refusal :=
  .next (
    let e := s.dirAt line
    match e.txn with
    | none => s
    | some t =>
      if slice ∉ t.acked then s
      else
        let t1 := { t with acked := t.acked.filter fun i => i != slice }
        let s1 := s.setDir line { e with txn := some t1 }
        if t1.acks = [] ∧ t1.acked = [] then (s1.dirAct line t.req).endTxn line t.req else s1)

/-- FWD: the owner acts on a forwarded request. -/
def execFwd (line : Nat) (s : State) : Host.Outcome State Fault Refusal :=
  .next (
    let e := s.dirAt line
    match e.txn with
    | none => s
    | some t =>
      if t.fwd ∧ !t.fwdDone then (s.setDir line { e with txn := some { t with fwdDone := true } }).dirAct line t.req else s)

/-- FWD_ANSWER: the owner's answer ends the transaction. -/
def execFwdAnswer (line : Nat) (s : State) : Host.Outcome State Fault Refusal :=
  .next (match (s.dirAt line).txn with
    | none => s
    | some t => if t.fwd ∧ t.fwdDone then s.endTxn line t.req else s)

/-- The home goes on with the queue of a line that is free (R45): a request that has waited for a snoop-filter entry is begun
once one is free, and until then asks for a victim (R49, R51). -/
def State.homeGo (s : State) (line : Nat) : State :=
  let e := s.dirAt line
  match e.queue with
  | [] => s
  | r :: _ =>
    if e.txn.isSome ∨ dirWaits e r then s
    else if s.dirRoom line r then s.dirDrain line e.queue.length
    else s.recallK line r

/-! ### Versions and cluster caches -/

/-- VERSION_SPILL (R384): the holder needs a way, and a held line goes to the log. -/
def execVersionSpill (unit line : Nat) (s : State) : Host.Outcome State Fault Refusal :=
  .next (match s.version? unit with
    | some v => if line ∈ v.lines ∧ line ∉ v.spilled then s.spillLine unit line else s
    | none => s)

/-- CACHE_FILL (R38, R52, R356): a line enters a cluster cache through the translation of a context's virtual tile: a
coherent line that the serving slice holds, or an NC line on its home die, for which the home is asked. -/
def execCacheFill (cluster line ctx tile : Nat) (s : State) : Host.Outcome State Fault Refusal :=
  .next (match (walk s (s.ctx ctx).root tile).res with
    | .error _ => s
    | .ok t =>
      let held := if t.nc then dieOfCluster cluster == homeDie (192 * line)
        else s.sliceHolds (sliceOfCluster cluster) line
      if deviceLine line ∧ (t.pa + (tile - t.vpn) * 24576) / 24576 = line / 128 ∧ held then
        if t.nc ∧ !s.dirReady line (.rdu 0 false) then s else s.fillLine cluster line ctx tile t.nc false 15
      else s)

/-- CACHE_EVICT (R52, R356): a line leaves a cluster cache; a dirty NC line is written back first. -/
def execCacheEvict (cluster line : Nat) (s : State) : Host.Outcome State Fault Refusal :=
  .next (
    let ls := (s.cluster cluster).cache.filter fun l => l.line == line
    if ls.all fun l => s.canWriteBack l then
      (ls.foldl (fun s l => s.writeBack l) s).dropLines cluster fun l => l.line == line
    else s)

end Sys2Proof.Machine
end

