-- ==== Sys2Proof/Machine/Sha.lean ====
section
/-! DEFINITION. SHA-384 of two measurements (R429). PRESUMED (log 16): the spec names the function, and its rounds and
constants are those of FIPS 180-4. -/

namespace Sys2Proof.Machine

/-- The initial hash value of SHA-384. -/
def shaInit : List DWord :=
  [0xCBBB9D5DC1059ED8, 0x629A292A367CD507, 0x9159015A3070DD17, 0x152FECD8F70E5939,
   0x67332667FFC00B31, 0x8EB44A8768581511, 0xDB0C2E0D64F98FA7, 0x47B5481DBEFA4FA4]

/-- Round constants 0 to 15. -/
def shaK0 : List DWord :=
  [0x428A2F98D728AE22, 0x7137449123EF65CD, 0xB5C0FBCFEC4D3B2F, 0xE9B5DBA58189DBBC,
   0x3956C25BF348B538, 0x59F111F1B605D019, 0x923F82A4AF194F9B, 0xAB1C5ED5DA6D8118,
   0xD807AA98A3030242, 0x12835B0145706FBE, 0x243185BE4EE4B28C, 0x550C7DC3D5FFB4E2,
   0x72BE5D74F27B896F, 0x80DEB1FE3B1696B1, 0x9BDC06A725C71235, 0xC19BF174CF692694]

/-- Round constants 16 to 31. -/
def shaK1 : List DWord :=
  [0xE49B69C19EF14AD2, 0xEFBE4786384F25E3, 0x0FC19DC68B8CD5B5, 0x240CA1CC77AC9C65,
   0x2DE92C6F592B0275, 0x4A7484AA6EA6E483, 0x5CB0A9DCBD41FBD4, 0x76F988DA831153B5,
   0x983E5152EE66DFAB, 0xA831C66D2DB43210, 0xB00327C898FB213F, 0xBF597FC7BEEF0EE4,
   0xC6E00BF33DA88FC2, 0xD5A79147930AA725, 0x06CA6351E003826F, 0x142929670A0E6E70]

/-- Round constants 32 to 47. -/
def shaK2 : List DWord :=
  [0x27B70A8546D22FFC, 0x2E1B21385C26C926, 0x4D2C6DFC5AC42AED, 0x53380D139D95B3DF,
   0x650A73548BAF63DE, 0x766A0ABB3C77B2A8, 0x81C2C92E47EDAEE6, 0x92722C851482353B,
   0xA2BFE8A14CF10364, 0xA81A664BBC423001, 0xC24B8B70D0F89791, 0xC76C51A30654BE30,
   0xD192E819D6EF5218, 0xD69906245565A910, 0xF40E35855771202A, 0x106AA07032BBD1B8]

/-- Round constants 48 to 63. -/
def shaK3 : List DWord :=
  [0x19A4C116B8D2D0C8, 0x1E376C085141AB53, 0x2748774CDF8EEB99, 0x34B0BCB5E19B48A8,
   0x391C0CB3C5C95A63, 0x4ED8AA4AE3418ACB, 0x5B9CCA4F7763E373, 0x682E6FF3D6B2B8A3,
   0x748F82EE5DEFB2FC, 0x78A5636F43172F60, 0x84C87814A1F0AB72, 0x8CC702081A6439EC,
   0x90BEFFFA23631E28, 0xA4506CEBDE82BDE9, 0xBEF9A3F7B2C67915, 0xC67178F2E372532B]

/-- Round constants 64 to 79. -/
def shaK4 : List DWord :=
  [0xCA273ECEEA26619C, 0xD186B8C721C0C207, 0xEADA7DD6CDE0EB1E, 0xF57D4F7FEE6ED178,
   0x06F067AA72176FBA, 0x0A637DC5A2C898A6, 0x113F9804BEF90DAE, 0x1B710B35131C471B,
   0x28DB77F523047D84, 0x32CAAB7B40C72493, 0x3C9EBE0A15C9BEBC, 0x431D67C49C100D4C,
   0x4CC5D4BECB3E42B6, 0x597F299CFC657E2A, 0x5FCB6FAB3AD6FAEC, 0x6C44198C4A475817]

/-- The round constants. -/
def shaK : List DWord := shaK0 ++ shaK1 ++ shaK2 ++ shaK3 ++ shaK4

/-- `n` words of the message schedule from a window of 16 words. -/
def shaSchedule : Nat → List DWord → List DWord
  | 0, _ => []
  | n + 1, w =>
    let a := nth 0 w 1
    let b := nth 0 w 14
    let s0 := a.rotateRight 1 ^^^ a.rotateRight 8 ^^^ a >>> 7
    let s1 := b.rotateRight 19 ^^^ b.rotateRight 61 ^^^ b >>> 6
    nth 0 w 0 :: shaSchedule n (w.drop 1 ++ [s1 + nth 0 w 9 + s0 + nth 0 w 0])

/-- One round on the eight working words; `kw` is the round constant plus the schedule's word. -/
def shaRound (h : List DWord) (kw : DWord) : List DWord :=
  let x (i : Nat) : DWord := nth 0 h i
  let s1 := (x 4).rotateRight 14 ^^^ (x 4).rotateRight 18 ^^^ (x 4).rotateRight 41
  let ch := (x 4 &&& x 5) ^^^ (~~~(x 4) &&& x 6)
  let t := x 7 + s1 + ch + kw
  let s0 := (x 0).rotateRight 28 ^^^ (x 0).rotateRight 34 ^^^ (x 0).rotateRight 39
  let maj := (x 0 &&& x 1) ^^^ (x 0 &&& x 2) ^^^ (x 1 &&& x 2)
  [t + s0 + maj, x 0, x 1, x 2, x 3 + t, x 4, x 5, x 6]

/-- The hash value after a block of 16 words. -/
def shaBlock (h block : List DWord) : List DWord :=
  List.zipWith (fun a b => a + b) h ((List.zipWith (fun a b => a + b) shaK (shaSchedule 80 block)).foldl shaRound h)

/-- The six words of a 384-bit value, the most significant first. -/
def shaWords (m : BitVec 384) : List DWord := (List.range 6).map fun i => BitVec.ofNat 64 (m.toNat / 2 ^ (64 * (5 - i)))

/-- SHA-384(M ‖ digest) (R429): the 96 bytes and their padding fill one block. -/
def extend (m digest : BitVec 384) : BitVec 384 :=
  let h := shaBlock shaInit (shaWords m ++ shaWords digest ++ [0x8000000000000000, 0, 0, 768])
  BitVec.ofNat 384 ((h.take 6).foldl (fun n w => n * 2 ^ 64 + w.toNat) 0)

end Sys2Proof.Machine
end

