-- ==== Sys2Proof/Machine/Device.lean ====
section
/-! DEFINITION. The device's outside (chapter 17, R375): contexts registered and torn down, the host's registers and
accesses, inbound fabric requests, errors and containment, resets, retention, power, and the firmware's identity. -/

namespace Sys2Proof.Machine

/-! ### What the device still answers (R415, R429) -/

/-- Some die stays in its boot state: the device is in its boot-failure state (R429). -/
def State.bootFailed (s : State) : Bool := s.dies.any fun d => d.stageRejected.isSome

/-- Every die has run its first-stage firmware, and none stays in its boot state (R429). -/
def State.booted (s : State) : Bool := s.dies.all fun d => !d.meas.isEmpty && d.stageRejected.isNone

/-- Only DEVIDENT, BBOXDATA and BBOXSEL are answered. -/
def State.closed (s : State) : Bool := s.contained.isSome || s.bootFailed

/-! ### Contexts (R375, R380) -/

/-- The fields of a context descriptor (Table 16-1). DESIGN CHOICE (log 102): what stands in its reserved bits is ignored, as in a
queue header (Table 15-1): R8 and the tables state no fate of a bit that is not 0. -/
def Context.describe (x : Context) (pa n : Nat) : Context :=
  { x with
    registered := true, descPa := pa, qhdr := (List.range 8).map fun q => bits n (64 * q + 1087) (64 * q + 1024)
    ecost := (List.range 8).map fun c => bits n (8 * c + 647) (8 * c + 640), tslice := bits n 639 624
    pshare := bits n 623 616, frlog := bits n 611 608, snapsz := bits n 607 576, holdsz := bits n 575 544
    vlogsz := bits n 543 512, rtback := bits n 511 448, save := bits n 447 384, snap := bits n 383 320
    hold := bits n 319 256, vlog := bits n 255 192, fring := bits n 191 128, tvec := BitVec.ofNat 64 (bits n 127 64)
    root := bits n 63 0, tlb := [] }

/-- A queue that is new to the context is read from where its header stands. -/
def State.startQueue (s : State) (x : Context) (q : Nat) : Context :=
  let hdr := nth 0 x.qhdr q
  { x with
    readIdx := putAt x.readIdx q (s.minDone hdr)
    admitIdx := (List.range 4).foldl (fun m d => NMap.set 0 m (8 * d + q) (s.rdN (hdr + 16 + 8 * d) 8)) x.admitIdx }

/-- A context as it is after its descriptor has been read: queues whose header has not moved go on. -/
def State.describe (s : State) (old : Context) : Context :=
  let pa := s.bar0.ctxdesc.toNat
  let x := old.describe pa (s.rdN pa 192)
  (List.range 8).foldl (fun x q => if nth 0 old.qhdr q = nth 0 x.qhdr q then x else s.startQueue x q) x

/-- CTXCMD names this operation on this context, and the device has not acted on it (Table 17-2). -/
def State.commanded (s : State) (ctx op : Nat) : Bool :=
  let w := s.bar0.ctxcmd.toNat
  w.testBit 31 && bits w 4 0 == ctx && bits w 9 8 == op

/-- CTXCMD.BUSY is cleared (R380, R411). -/
def State.acted (s : State) : State :=
  { s with bar0 := { s.bar0 with ctxcmd := s.bar0.ctxcmd &&& 0x7FFFFFFF } }

/-- The shares of a context at its first registration stand at their caps (Table 10-2). -/
def State.fillShares (s : State) (ctx : Nat) : State :=
  (List.range 96).foldl (fun s k =>
    s.setShare ctx k { s.share ctx k with level := 256 * (s.shareNow ctx k).capk }) s

/-- The descriptor is read, by a registration (`first`) or a re-registration, and the context's translations are dropped. -/
def State.register (s : State) (ctx : Nat) (first : Bool) : State :=
  let pa := s.bar0.ctxdesc.toNat
  if !s.rduFree pa then s
  else if s.poisoned pa 192 then s.fatal 0 0x20 { addr := pa, ctx := some ctx, cause := 0x07 }
  else
    let old := if first then Context.none else s.ctx ctx
    let s1 := s.setCtx ctx (s.describe old)
    (if first then s1.fillShares ctx else s1).acted

/-- REGISTER_CONTEXT (R375, R380), once the dies have booted (R429). A context that is registered already is registered again as by operation 2. -/
def execRegisterContext (ctx : Nat) (s : State) : Host.Outcome State Fault Refusal :=
  .next (if s.commanded ctx 1 ∧ !s.closed ∧ s.booted then s.register ctx (!(s.ctx ctx).registered) else s)

/-- RE_REGISTER_CONTEXT (R380); of a context that is not registered it changes nothing. -/
def execReRegisterContext (ctx : Nat) (s : State) : Host.Outcome State Fault Refusal :=
  .next (if s.commanded ctx 2 ∧ !s.closed then
      (if (s.ctx ctx).registered then s.register ctx false else s.acted)
    else s)

/-- Something of a context is left that a teardown ends at once: a live group, a saved crew, a launch. -/
def State.tearBusy (s : State) (ctx : Nat) : Bool :=
  (s.groups.any fun g => s.ctxOf g == ctx && !g.splits.isEmpty) || (s.saved.any fun v => v.crew.ctx == ctx)
    || s.launches.any fun l => l.ctx == ctx

/-- The first part of a teardown (R411): groups end without saving, nothing of the context starts, and versions, launches,
ready entries, saved crews and queued records are dropped. -/
def State.tearStart (s : State) (ctx : Nat) : State :=
  let ls := s.launches.filter fun l => l.ctx == ctx
  let cs := s.crews.filter fun c => c.ctx == ctx
  let s1 := ls.foldl (fun s l => s.dropEntries l.lid) (s.stealsBack ctx)
  let s2 := (s1.groups.filter fun g => s1.ctxOf g == ctx).foldl (fun s g => s.endGroup g.gid) s1
  let s3 := cs.foldl (fun s c => (s.discardVersion c.cid).setCrew { c with discarded := true, restart := false, role := .single }) s2
  let s4 := (s3.saved.filter fun v => v.crew.ctx == ctx).foldl (fun s v => s.dropVersion v.crew.cid) s3
  { s4.setCtx ctx { s4.ctx ctx with out := true, faults := [], halt := none } with
    launches := s4.launches.filter fun l => l.ctx != ctx
    saved := s4.saved.filter fun v => v.crew.ctx != ctx
    updates := s4.updates.filter fun u => u.1 != ctx
    ops := s4.ops.filter fun o => match o.kind with
      | .launch c .. => c != ctx
      | .update _ => match s4.group? o.gid with
        | some g => s4.ctxOf g != ctx
        | none => true
      | _ => true
    dies := s4.dies.map fun d => { d with fwd := d.fwd.filter fun m => m.1 != ctx, got := d.got.filter fun m => m.1 != ctx } }

/-- A tile released by the driver: OFF, its cells cleared (R259). DESIGN CHOICE (log 108): clearing them is a write phase on every
lifetime counter, as the reset of R260 is. -/
def Tile.release (t : Tile) : Tile := { t.wipe 0 with mode := .off, tag := none }

/-- The FIFO banks of a context return to CACHE (R189). -/
def State.releaseFifos (s : State) (ctx : Nat) : State :=
  s.clusters.foldl (fun s e =>
    s.switchBanks e.1 ((e.2.banksIn .fifo).filter fun i => (e.2.bank i).owner == some ctx) .cache false ctx) s

/-- The last part of a teardown (R411): its tiles and FIFO banks are released, and the context is gone. -/
def State.tearEnd (s : State) (ctx : Nat) : State :=
  let s1 := (s.tiles.filter fun e => e.2.tag == some ctx).foldl (fun s e => s.setTile e.1 e.2.release) s
  ((s1.releaseFifos ctx).setCtx ctx Context.none).acted

/-- A context's commands have ended and its crews are gone (R337). -/
def State.tornDown (s : State) (ctx : Nat) : Bool :=
  (s.crews.all fun c => c.ctx != ctx) && (s.copies.all fun c => c.ctx != ctx) && (s.sreds.all fun c => c.ctx != ctx)
    && (s.cores.all fun e => e.2.mq.all fun c => c.ctx != ctx) && s.tiles.all fun e => e.2.cmds.all fun c => c.ctx != ctx

/-- TEAR_DOWN_CONTEXT (R411): everything of the context ends; once its commands have ended, what it owns is released. -/
def execTearDownContext (ctx : Nat) (s : State) : Host.Outcome State Fault Refusal :=
  .next (if !s.commanded ctx 3 ∨ s.closed then s
    else if s.tearBusy ctx then s.tearStart ctx
    else if s.tornDown ctx then s.tearEnd ctx
    else s)

/-! ### The host port (R410, R411) -/

/-- BAR0_WRITE (Table 17-2): offset and value; FABROUTE is written an entry at a time. DESIGN CHOICE (log 115): a 64-bit register
is accessed whole at its own offset, and its upper half has no offset of its own: there a read gives 0 and a write is ignored. -/
def execBar0Write (off val : Nat) (s : State) : Host.Outcome State Fault Refusal :=
  let b := s.bar0
  .next (
    if off = 0x300 then { s with bar0 := { b with bboxsel := val % 4 } }
    else if s.closed then s
    else if off = 0x100 then { s with bar0 := { b with ctxdesc := BitVec.ofNat 64 val } }
    else if off = 0x108 then
      if b.ctxcmd.getLsbD 31 then s
      else { s with bar0 := { b with
        ctxcmd := BitVec.ofNat 32 (bits val 4 0 + bits val 9 8 * 2 ^ 8 + if bits val 9 8 = 0 then 0 else 2 ^ 31) } }
    else if off = 0x200 then { s with bar0 := { b with errbase := BitVec.ofNat 64 val } }
    else if off = 0x208 then { s with bar0 := { b with errctl := BitVec.ofNat 32 (val % 16 + bits val 31 31 * 2 ^ 31) } }
    else if off = 0x218 then { s with bar0 := { b with errcons := val } }
    else if 0x2000 ≤ off ∧ off < 0x2800 ∧ off % 2 = 0 then
      { s with bar0 := { b with fabroute := NMap.set 0 b.fabroute ((off - 0x2000) / 2) (BitVec.ofNat 16 val &&& 0x8FFF) } }
    else s)

/-- PWRSTAT (Table 17-6). -/
def Bar0.pwrstat (b : Bar0) : Nat :=
  b.failsafe.toNat * 2 ^ 31 + b.throttle.toNat * 2 ^ 30 + b.capw % 4096 * 2 ^ 16 + b.avgw % 65536

/-- DEVIDENT (Table 17-2): the silicon step shows 0 in boot failure (R429). -/
def State.devident (s : State) : Nat :=
  0x0D54 + 4 * 2 ^ 16 + (if s.bootFailed then 0 else Config.siliconStep.toNat) * 2 ^ 20

/-- A byte of the selected die's black-box ring, 0 past its end. -/
def State.bboxByte (s : State) (off : Nat) : Byte :=
  if off < 4096 then byteAt (NMap.get 0 (s.die s.bar0.bboxsel).bbox (off / 64)).toNat (off % 64) else 0

/-- The 8 bytes of the selected die's black-box ring at an offset (R419). -/
def State.bboxWord (s : State) (off : Nat) : Nat := ofBytes ((List.range 8).map fun i => s.bboxByte (off + i))

/-- What the host reads from the register at an offset of BAR0 (Table 17-2, R411), or none for Unsupported Request: in
containment and in boot failure only DEVIDENT, BBOXSEL and BBOXDATA are read (R415, R429). -/
def State.bar0Read (s : State) (off : Nat) : Option Nat :=
  let b := s.bar0
  if off = 0 then some s.devident
  else if off = 0x300 then some b.bboxsel
  else if 0x1000 ≤ off ∧ off < 0x2000 then some (s.bboxWord (off - 0x1000))
  else if s.closed then none
  else if off = 0x100 then some b.ctxdesc.toNat
  else if off = 0x108 then some b.ctxcmd.toNat
  else if off = 0x200 then some b.errbase.toNat
  else if off = 0x208 then some b.errctl.toNat
  else if off = 0x210 then some b.errprod
  else if off = 0x218 then some b.errcons
  else if 0x2000 ≤ off ∧ off < 0x2800 ∧ off % 2 = 0 then some (NMap.get 0 b.fabroute ((off - 0x2000) / 2)).toNat
  else if off = 0x3000 then some b.pwrstat
  else some 0

/-- The lines that a range of device memory touches. -/
def linesOf (pa n : Nat) : List Nat := if n = 0 then [] else (List.range ((pa + n - 1) / 192 + 1 - pa / 192)).map fun i => pa / 192 + i

/-- The bytes of a host write that fall into a line are written at its home, in their turn there (R45, R411). -/
def State.hostLine (s : State) (pa : Nat) (bytes : List Byte) (line : Nat) : State :=
  s.request line (.wr none none ((pairsAt pa bytes).filter fun e => e.1 / 192 == line))

/-- A byte that the host or a peer reads: all ones above device memory (Table 17-1). -/
def State.hostByte (s : State) (pa : Nat) : Byte := if pa < deviceEnd then s.rdB pa else 0xFF

/-- The home of every line of a range may read it for an agent that is no engine now. -/
def State.linesFree (s : State) (addr len : Nat) : Bool := (linesOf addr len).all fun l => s.dirReady l (.rdu 0 false)

/-- Bytes are written by the host or a peer, those above device memory dropped. -/
def State.hostStore (s : State) (addr : Nat) (bytes : List Byte) : State :=
  ((linesOf addr bytes.length).filter deviceLine).foldl (fun s l => s.hostLine addr bytes l) s

/-- Every device line of a range may be written now. -/
def State.hostFree (s : State) (addr len : Nat) : Bool :=
  ((linesOf addr len).filter deviceLine).all fun l => s.dirReady l (.wr none none [])

/-- A range of the given length holds a poisoned sector. -/
def State.rangeEp (s : State) (addr len : Nat) : Bool := decide (0 < len) && s.poisoned addr len

/-- The operation of the slice atomic unit for an inbound request: .add, .exch, .cas (R184, R427). -/
def inboundAop (kind : Nat) : Option Nat := match kind with
  | 2 => some 0
  | 3 => some 8
  | 4 => some 9
  | _ => none

/-- A request of a node is answered, or must wait (none): kind 0 reads `len` bytes, 1 writes `bytes`, 2 to 4 are .add, .exch
and .cas on 4 or 8 bytes, which return the old value. Outside the aperture that the driver sets for the node it completes
with an error (R427, log 64). -/
def State.peerTaken (s : State) (node addr kind len operand cmp : Nat) (bytes : List Byte) : Option State :=
  let answer (s : State) (l : List Byte) (ep bad : Bool) : Option State := some { s with fabricRead := { bytes := l, ep, ur := bad } }
  let n := if kind = 1 then bytes.length else len
  if Config.aperture s.tick node < addr + n ∨ deviceEnd < addr + n then answer s [] false true
  else if kind = 0 then
    if s.linesFree addr n then answer s (s.rdBytes addr n) (s.rangeEp addr n) false else none
  else if kind = 1 then answer (s.hostStore addr bytes) [] false false
  else match inboundAop kind with
    | none => answer s [] false true
    | some a =>
      if (n ≠ 4 ∧ n ≠ 8) ∨ addr % n ≠ 0 then answer s [] false true
      else if !s.hostFree addr n then none
      else if s.poisoned addr n then answer s [] true false
      else
        let m := s.rdN addr n
        answer (s.hostStore addr (toBytes n (atomNew a n 0 m operand cmp))) (toBytes n m) false false

/-- A request from outside is answered, or must wait (none). A host read is made at the lines' homes, and a poisoned sector
sets EP; a host write always completes: a line that is in K or in a transaction takes it in its turn (R45, R411). -/
def State.taken (s : State) (r : Inbound) : Option State := match r with
  | .read addr len =>
    if s.linesFree addr len then
      some { s with hostRead := { bytes := (List.range len).map fun i => s.hostByte (addr + i), ep := s.rangeEp addr len, ur := false } }
    else none
  | .write addr bytes => some (s.hostStore addr bytes)
  | .peer node addr kind len operand cmp bytes => s.peerTaken node addr kind len operand cmp bytes

/-- In containment and in boot failure a request gets Unsupported Request (R415, R429). -/
def State.refusedInbound (s : State) (r : Inbound) : State := match r with
  | .read .. => { s with hostRead := { bytes := [], ep := false, ur := true } }
  | .write .. => s
  | .peer .. => { s with fabricRead := { bytes := [], ep := false, ur := true } }

/-- A request from outside arrives: it is answered, or joins those that wait, which are answered in arrival order (log 87). -/
def State.inboundArrives (s : State) (r : Inbound) : State :=
  let wait : State := { s with inbound := s.inbound ++ [r] }
  if s.closed then s.refusedInbound r
  else if !s.inbound.isEmpty then wait
  else (s.taken r).getD wait

/-- The oldest request that waits is answered where it can be. -/
def State.inboundGo (s : State) : State := match s.inbound with
  | [] => s
  | r :: l =>
    let s1 : State := { s with inbound := l }
    if s.closed then s1.refusedInbound r else (s1.taken r).getD s

/-- HOST_READ (R411): a read through BAR2. -/
def execHostRead (addr len : Nat) (s : State) : Host.Outcome State Fault Refusal := .next (s.inboundArrives (.read addr len))

/-- HOST_WRITE (R411): a write through BAR2. -/
def execHostWrite (addr : Nat) (bytes : List Byte) (s : State) : Host.Outcome State Fault Refusal :=
  .next (s.inboundArrives (.write addr bytes))

/-! ### The fabric (R426, R427) -/

/-- INBOUND_FABRIC_REQUEST (R427) of a node, through a port. -/
def execInboundFabricRequest (peer : Peer) (addr kind len operand cmp : Nat) (bytes : List Byte) (s : State) :
    Host.Outcome State Fault Refusal :=
  .next (s.inboundArrives (.peer peer.node addr kind len operand cmp bytes))

/-- LOC of a die (Table 17-3). -/
def dieLoc (die : Nat) : Nat := die % 4 * 2 ^ 15

/-- FABRIC_WRITE_NOT_ACCEPTED (R426). -/
def execFabricWriteNotAccepted (die port node : Nat) (s : State) : Host.Outcome State Fault Refusal :=
  .next (s.fatal die 0x24 { loc := dieLoc die, detail := port % 16 * 2 ^ 32 + node % 1024 * 2 ^ 40 })

/-! ### Errors (R412 to R415) -/

/-- MEMORY_ERROR_CORRECTED. -/
def execMemoryErrorCorrected (die addr : Nat) (s : State) : Host.Outcome State Fault Refusal :=
  .next (s.logError die 0 0x01 { loc := dieLoc die, addr })

/-- HOST_LINK_REPLAY. -/
def execHostLinkReplay (die : Nat) (s : State) : Host.Outcome State Fault Refusal :=
  .next (s.logError die 0 0x02 { loc := dieLoc die })

/-- DIE_TO_DIE_FLIT_RETRY. -/
def execDieToDieFlitRetry (die pair : Nat) (s : State) : Host.Outcome State Fault Refusal :=
  .next (s.logError die 0 0x03 { loc := dieLoc die, detail := pair % 256 * 2 ^ 32 })

/-- FABRIC_FLIT_RETRY. -/
def execFabricFlitRetry (die port : Nat) (s : State) : Host.Outcome State Fault Refusal :=
  .next (s.logError die 0 0x04 { loc := dieLoc die, detail := port % 16 * 2 ^ 32 })

/-- The lowest-numbered live split of a crew. -/
def State.firstSplit (s : State) (cid : Nat) : Option (Nat × Nat) :=
  s.groups.findSome? fun g => if g.cid = cid ∧ !g.retired then (g.live.head?).map fun p => (g.gid, p.num) else none

/-- Something carries the poison of data that failed at a hand-over (R417, Table 17-5): on the way to a slice or to a cluster
its sector does, and data of a window is poisoned as its link delivers it. -/
def carriesPoison (handover addr : Nat) : Bool := rangeOf addr != .reserved && decide (handover ≤ 3 ∨ handover = 5)

/-- An error that a unit's command or completion consumes (Table 16-2), named by the unit's cluster and core (Table 17-3, log 61):
a replay, or a trap of cause 0x07 in a versioned unit, or fatal. -/
def State.unitConsumes (s : State) (die addr cid : Nat) : State :=
  match s.crew? cid with
  | none => s.fatal die 0x20 { loc := dieLoc die, addr }
  | some c =>
    let info : ErrInfo := { loc := locOf c.cluster (s.unitCore c), addr, ctx := some c.ctx, cause := 0x07 }
    match s.replayLaunch c, s.firstSplit cid with
    | some l, _ => s.replayOf l { die, event := 0x10, loc := info.loc, addr }
    | none, some (g, n) => if c.versioned then s.owe g n { cause := 0x07 } else s.fatal die 0x20 info
    | none, none => s.fatal die 0x20 info

/-- A register with wrong parity: the instruction that a split issues and that reads it raises cause 0x07 (R417). -/
def State.parityError (s : State) (g n : Nat) : State :=
  match (s.group? g).bind fun x => x.split? n with
  | some p => match p.cl with
    | some c => s.raise g n { cause := 0x07, opc := field (nth 0 c.words (p.widx - 1)) 63 56, inside := true }
    | none => s
  | none => s

/-- A read or an atomic over a link fails: cause 0x07 in its consumer, at its completion point (R426). -/
def State.linkFails (s : State) (op : Nat) : State :=
  match s.op? op with
  | none => s
  | some o => match o.kind, o.kind.accs.find? fun a => (a.lineIn .fabric).isSome || (a.lineIn .host).isSome with
    | .store .., _ => s
    | _, some a => (s.oweError o a).finishOp o
    | _, none => s

/-- UNCORRECTABLE_ERROR (R412, R417, R426, Table 16-2): data that failed at a hand-over of Table 17-5 and that nothing has
consumed yet stands as poison, or, where nothing can carry it, is event 0x26; consumed, it is recovered by a replay, or is
a trap of cause 0x07, or is fatal. -/
def execUncorrectableError (die : Nat) (site : ErrSite) (use : ErrUse) (s : State) : Host.Outcome State Fault Refusal :=
  .next (match use with
    | .none =>
      if carriesPoison site.handover site.addr then { s with poison := sortAsc (site.addr / 48 :: s.poison) }
      else s.fatal die 0x26 { loc := dieLoc die, addr := site.addr, detail := site.handover % 256 }
    | .unit cid => s.unitConsumes die site.addr cid
    | .split g n => s.parityError g n
    | .op i => s.linkFails i)

/-- The error ring takes a record now (R414). -/
def Bar0.ringRoom (b : Bar0) : Bool := b.errctl.getLsbD 31 && decide (b.errprod < b.errcons + 2 ^ (b.errctl.toNat % 16))

/-- A record is written to the error ring, ERRPROD advances and MSI-X vector 0 is signalled. -/
def State.ringWrite (s : State) (r : BitVec 512) : State :=
  let b := s.bar0
  let pa := 0x8000000000000 + b.errbase.toNat + 64 * (b.errprod % 2 ^ (b.errctl.toNat % 16))
  { s.wrBytes pa (toBytes 64 r.toNat) with bar0 := { b with errprod := b.errprod + 1 }, msix := s.msix ++ [0] }

/-- A record of class 0 that the ring has no room for is dropped and counted, with those that it would have told of (R414). -/
def Die.dropRecord (d : Die) (e : BitVec 512 × Nat) : Die :=
  let ev := bits e.1.toNat 135 128
  { d with suppressed := NMap.set 0 d.suppressed ev (NMap.get 0 d.suppressed ev + e.2 + 1) }

/-- ERROR_RECORD_WRITE (R414): a die's first record is written where the ring has room; while it is full, the records of class
0 that wait are dropped and counted, and those of class 1 go on waiting. -/
def execErrorRecordWrite (die : Nat) (s : State) : Host.Outcome State Fault Refusal :=
  .next (match (s.die die).errQ with
    | [] => s
    | r :: l =>
      let d := s.die die
      let light (x : BitVec 512 × Nat) : Bool := bits x.1.toNat 137 136 == 0
      if s.contained.isSome then s
      else if s.bar0.ringRoom then (s.setDie die { d with errQ := l }).ringWrite r.1
      else s.setDie die { ((r :: l).filter light).foldl Die.dropRecord d with errQ := (r :: l).filter fun x => !light x })

/-- The black-box record of a containment step on some dies (R419). -/
def State.stepRecord (s : State) (step : Nat) (dies : List Nat) : State :=
  dies.foldl (fun s d => (s.blackBox d 0 0x30 { loc := dieLoc d, detail := step }).1) s

/-- CONTAINMENT (R415): the detecting die writes its record, every die stops, black boxes are written, ERR_FATAL is sent,
and from then on the device answers little. -/
def execContainment (die : Nat) (s : State) : Host.Outcome State Fault Refusal :=
  .next (match s.contained with
    | none => s
    | some n =>
      if 5 ≤ n then s
      else
        let d := s.die die
        let s1 := match d.errQ.getLast? with
          | some r =>
            let s' := s.setDie die { d with errQ := d.errQ.dropLast }
            if s.bar0.ringRoom then s'.ringWrite r.1 else s'
          | none => s
        let s2 := s1.stepRecord 1 [die]
        let s3 := [2, 3, 4, 5].foldl (fun s k => s.stepRecord k (List.range 4)) s2
        { s3 with aer := { s3.aer with sent := s3.aer.sent ++ [2] }, contained := some 5 })

/-! ### Resets (R416) -/

/-- What a tile keeps across every reset: its cells and its lifetime counters (R258). -/
def Tile.kept (t : Tile) : Tile :=
  { Tile.reset with fill := t.fill, cells := t.cells, lifeBase := t.lifeBase, life0 := t.life0, life1 := t.life1 }

/-- The device after power-on, its crossbar cells and counters kept, with what lies outside it: the windows' bytes, the
signals it has sent, and the inputs still to come. -/
def State.powered (s : State) : State :=
  { State.reset with
    mem := s.mem.filter fun e => decide (deviceEnd ≤ e.1)
    tiles := s.tiles.foldl (fun m e => NMap.set Tile.reset m e.1 e.2.kept) []
    msix := s.msix, spdm := s.spdm, acks := s.acks, pwrRuns := s.pwrNext, pwrNext := s.pwrNext, aer := { Aer.reset with sent := s.aer.sent }
    agenda := s.agenda.filter fun i => !directed i, tick := s.tick, nextId := s.nextId }

/-- HOT_RESET (R416, R419): a hot or link-down reset keeps the black boxes besides, each of which takes record 0x31; the
dies' always-on counters go on. -/
def execHotReset (s : State) : Host.Outcome State Fault Refusal :=
  let s1 : State := { s.powered with
    dies := s.dies.map fun d => { Die.reset with bbox := d.bbox, seq := d.seq, stamp := d.stamp } }
  .next ((List.range 4).foldl (fun s d => (s.blackBox d 0 0x31 { loc := dieLoc d }).1) s1)

/-- POWER_ON (R416): the return of power. -/
def execPowerOn (s : State) : Host.Outcome State Fault Refusal := .next s.powered

/-! ### Retention (R418) -/

/-- The hand-overs of a die whose ACK no victim has accepted, and whose victim and thief `hit` names, are undone (R364). -/
def State.unsteal (s : State) (die : Nat) (hit : Nat → Nat → Bool) : State :=
  (s.die die).steals.foldl (fun s m => match m with
    | .copy v i t _ | .ack v i t _ => match (s.cluster v).entry i with
      | some e => if hit v t then s.stealBack die e.ctx m else s
      | none => s
    | .confirm .. => s) s

/-- A thief that is power-gated drops its copies, and the entries return to READY (R364). -/
def State.thiefGone (s : State) (k : Nat) : State := s.unsteal (dieOfCluster k) fun _ t => t == k

/-- A thief that is reset after its ACK has been accepted finds its PENDING entries as READY (R364): each CONFIRM under way to
it is taken. -/
def State.confirmAll (s : State) (k : Nat) : State :=
  let die := dieOfCluster k
  (s.die die).steals.foldl (fun s m => match m with
    | .confirm t j => if t = k then s.confirmed die t j else s
    | _ => s) s

/-- RETENTION_ENTER: an idle cluster writes back its dirty NC lines and enters retention. -/
def execRetentionEnter (cluster : Nat) (s : State) : Host.Outcome State Fault Refusal :=
  .next (
    let cl := s.cluster cluster
    let idle := (s.groups.all fun g => g.core / 4 != cluster || g.retired)
      && cl.ready.all fun e => match e.2 with
        | some r => r.st != .ready
        | none => true
    if 96 ≤ cluster ∨ cl.retention ∨ !idle ∨ !cl.cache.all (fun l => s.canWriteBack l) then s
    else
      let s1 := (cl.cache.foldl (fun s l => s.writeBack l) s).thiefGone cluster
      let x := s1.cluster cluster
      s1.setCluster cluster { x with retention := true, cache := x.cache.map fun l => { l with dirty := 0 } })

/-- A cluster's cold reset (R37, R141, R418): its banks, its caches, its time counter and its residency table; its cores with
their accumulators, buffers, tokens and tags (R237, R311); the tiles, which keep their cells and counters (R258, R285). Its
ready table comes back from its backing, with every hand-over settled (R364). -/
def State.coldReset (s : State) (k : Nat) : State :=
  let s0 := (s.unsteal (dieOfCluster k) fun v t => v == k || t == k).confirmAll k
  let s1 := s0.setCluster k { Cluster.reset with ready := (s0.cluster k).ready, stretched := (s0.cluster k).stretched
                                                 limited := (s0.cluster k).limited }
  let s2 := (coresOf k).foldl (fun s c => s.setCore c Core.reset) s1
  { s2 with tiles := s2.tiles.foldl (fun m e => NMap.set Tile.reset m e.1
      (if e.1 / 64 / 4 = k then e.2.kept else e.2)) [] }

/-- The contexts that a loss of a cluster's held state affects: owners of its FIFO banks, and those with a saved crew that
is pinned to it (R391). -/
def State.lossOwners (s : State) (k : Nat) : List Nat :=
  let banks := (s.cluster k).banks.filterMap fun b => if b.mode = .fifo then b.owner else none
  let pinned := s.saved.filterMap fun v =>
    if v.crew.cluster = k ∧ v.groups.any (fun g => g.pinned && !g.retired) then some v.crew.ctx else none
  sortAsc (banks ++ pinned)

/-- A launch affected by a retention loss: replayed, or the error is fatal. -/
def State.lossOf (s : State) (k : Nat) (l : Launch) : State :=
  if l.replayable then s.replayOf l { die := dieOfCluster k, event := 0x11, loc := locOf k 0, addr := 0 }
  else s.fatal (dieOfCluster k) 0x21 { loc := locOf k 0, ctx := some l.ctx }

/-- RETENTION_EXIT: the cluster leaves retention, cold-reset where parity shows that held state was lost. -/
def execRetentionExit (cluster : Nat) (lost : Bool) (s : State) : Host.Outcome State Fault Refusal :=
  .next (
    let cl := s.cluster cluster
    if !cl.retention then s
    else if !lost then s.setCluster cluster { cl with retention := false }
    else
      let owners := s.lossOwners cluster
      let ls := s.launches.filter fun l => l.started && owners.contains l.ctx
      ls.foldl (fun s l => s.lossOf cluster l) (s.coldReset cluster))

/-! ### Power (R420 to R424) -/

/-- A power event is signalled to the host (Table 17-1): MSI-X vector 3 (log 77). -/
def State.powerEvent (s : State) (b : Bool) : State := if b then { s with msix := s.msix ++ [3] } else s

/-- No share's LEVEL exceeds the cap in force (Table 10-2). -/
def State.clipShares (s : State) : State :=
  { s with shares := s.shares.map fun e =>
      (e.1, { e.2 with level := min (256 * if s.bar0.failsafe then 1 else e.2.capk) e.2.level }) }

/-- POWER_RATE_UPDATE (R420): the power controller sets a share's RATE and CAPK, and PWRSTAT shows whether a thermal limit lies
below the node cap and the package power it has measured. -/
def execPowerRateUpdate (ctx cluster : Nat) (cap : ShareCap) (power : PowerReading) (s : State) :
    Host.Outcome State Fault Refusal :=
  let s1 := s.setShare ctx cluster { s.share ctx cluster with rate := cap.rate % 2 ^ 16, capk := cap.capk % 2 ^ 16 }
  .next ((State.clipShares { s1 with bar0 := { s1.bar0 with throttle := power.throttle, avgw := power.avgw % 2 ^ 16 } }).powerEvent
    (power.throttle != s.bar0.throttle))

/-- NODE_CAP_MESSAGE (R422): the cap is clamped to 1,200 W to 3,000 W and acknowledged. -/
def execNodeCapMessage (watts : Nat) (s : State) : Host.Outcome State Fault Refusal :=
  let cap := min 3000 (max 1200 watts)
  .next (State.powerEvent { s with bar0 := { s.bar0 with capw := cap }, acks := s.acks ++ [cap] } (cap != s.bar0.capw))

/-- The watchdog acts (R424): RATE and CAPK are 1 in every share while FAILSAFE stands, and event 0x06 is recorded. -/
def State.failsafe (s : State) : State :=
  ((State.clipShares { s with bar0 := { s.bar0 with failsafe := true } }).powerEvent true).logError 0 0 0x06 {}

/-- WATCHDOG_EXPIRY: a missed service. -/
def execWatchdogExpiry (s : State) : Host.Outcome State Fault Refusal := .next s.failsafe

/-- FIRMWARE_UPDATE_START (R424, R430): the watchdog acts, and the update's firmware, of any digest, runs from the next reset
on. -/
def execFirmwareUpdateStart (s : State) : Host.Outcome State Fault Refusal :=
  .next { s.failsafe with pwrNext := Config.updateDigest s.tick }

/-- WATCHDOG_SERVICE (R424): at the firmware's first service after it restarts its values return and FAILSAFE clears. -/
def execWatchdogService (s : State) : Host.Outcome State Fault Refusal :=
  .next ((State.clipShares { s with bar0 := { s.bar0 with failsafe := false } }).powerEvent s.bar0.failsafe)

/-- DROOP_STRETCH (R421): the cluster's clock is stretched; nothing else changes. -/
def execDroopStretch (cluster : Nat) (s : State) : Host.Outcome State Fault Refusal :=
  .next (s.setCluster cluster { s.cluster cluster with stretched := true })

/-- DROOP_RELEASE (R421). -/
def execDroopRelease (cluster : Nat) (s : State) : Host.Outcome State Fault Refusal :=
  .next (s.setCluster cluster { s.cluster cluster with stretched := false })

/-- The stretch of the current limit on some clusters. -/
def State.limit (s : State) (ks : List Nat) (on : Bool) : State :=
  ks.foldl (fun s k => s.setCluster k { s.cluster k with limited := on }) s

/-- SERIES_PAIR_OVERCURRENT (R423): a pair above its rating stretches both of its clusters; an imbalance beyond the shunt
stretches the heavier one, as its measured current shows (log 24); a release ends both. -/
def execSeriesPairOvercurrent (die pair : Nat) (both released : Bool) (s : State) : Host.Outcome State Fault Refusal :=
  let k := 24 * die + 2 * pair
  .next (if released then s.limit [k, k + 1] false
    else if both then s.limit [k, k + 1] true
    else s.limit [k + Config.choice s.tick % 2] true)

/-- THERMAL_TRIP (R424): the clocks stop, and the event is fatal. -/
def execThermalTrip (die sensor : Nat) (s : State) : Host.Outcome State Fault Refusal :=
  .next { s.fatal die 0x25 { loc := dieLoc die, detail := sensor % 2 ^ 16 } with tripped := true }

/-! ### Firmware and identity (R429, R430) -/

/-- BOOT_STAGE_VERIFY (R429): a stage that is verified, its security version not below the counter, is measured by extension
and runs; another leaves the die in its boot state. -/
def execBootStageVerify (die stage : Nat) (digest : BitVec 384) (verified rollback : Bool) (s : State) :
    Host.Outcome State Fault Refusal :=
  .next (
    let d := s.die die
    if d.stageRejected.isSome then s
    else if verified ∧ !rollback then
      let m := d.meas ++ List.replicate (stage + 1 - d.meas.length) 0
      let s1 := s.setDie die { d with meas := putAt m stage (extend (nth 0 m stage) digest) }
      (s1.blackBox die 0 0x32 { loc := dieLoc die, detail := stage % 256 }).1
    else
      let s1 := s.setDie die { d with stageRejected := some stage }
      (s1.blackBox die 0 0x33 { loc := dieLoc die, detail := stage % 256 + if verified then 256 else 0 }).1)

/-- The first-stage measurements of the dies, on which the identity key depends (R430). -/
def State.firstStage (s : State) : List (BitVec 384) := s.dies.map fun d => d.meas.headD 0

/-- A signed SPDM response (R430), over DOE while the endpoint answers, or over MCTP. -/
def State.respond (s : State) (code : Nat) (mctp : Bool) (body : List (BitVec 384)) : State :=
  if s.contained.isSome ∧ !mctp then s
  else { s with spdm := s.spdm ++ [{ code, mctp, body, sig := Config.sign s.firstStage body }] }

/-- GET_VERSION, and the requests that follow, numbered in the order of R430; what their bodies hold beside the measurements
is not laid down (log 16). -/
def execGetVersion (mctp : Bool) (s : State) : Host.Outcome State Fault Refusal :=
  .next (s.respond 0 mctp (Config.spdmBody 0 0))
def execGetCapabilities (mctp : Bool) (s : State) : Host.Outcome State Fault Refusal :=
  .next (s.respond 1 mctp (Config.spdmBody 1 0))
def execNegotiateAlgorithms (mctp : Bool) (s : State) : Host.Outcome State Fault Refusal :=
  .next (s.respond 2 mctp (Config.spdmBody 2 0))
def execGetDigests (mctp : Bool) (s : State) : Host.Outcome State Fault Refusal :=
  .next (s.respond 3 mctp (Config.spdmBody 3 0))
def execGetCertificate (mctp : Bool) (s : State) : Host.Outcome State Fault Refusal :=
  .next (s.respond 4 mctp (Config.spdmBody 4 0))
def execChallenge (mctp : Bool) (nonce : BitVec 384) (s : State) : Host.Outcome State Fault Refusal :=
  .next (s.respond 5 mctp (Config.spdmBody 5 nonce))

/-- GET_MEASUREMENTS: one block for each stage of each die, and one for the power controller's firmware that runs. -/
def execGetMeasurements (mctp : Bool) (s : State) : Host.Outcome State Fault Refusal :=
  .next (s.respond 6 mctp ((s.dies.flatMap fun d => d.meas) ++ [extend 0 s.pwrRuns]))

end Sys2Proof.Machine
end

