-- ==== Sys2Proof/Machine/Dispatch.lean ====
section
/-! DEFINITION. Dispatch: one arm per constructor of `Instr`, each one call of its meaning. -/

namespace Sys2Proof.Machine

/-- The meaning of every instruction and event. -/
def exec (i : Instr) (s : State) : Host.Outcome State Fault Refusal :=
  match i with
  | .clauseStart g n => Sys2Proof.Machine.execClauseStart g n s
  | .operationComplete op => Sys2Proof.Machine.execOperationComplete op s
  | .iadd o => Sys2Proof.Machine.execIadd o s
  | .isub o => Sys2Proof.Machine.execIsub o s
  | .imul o => Sys2Proof.Machine.execImul o s
  | .imulh o => Sys2Proof.Machine.execImulh o s
  | .imad o => Sys2Proof.Machine.execImad o s
  | .imin o => Sys2Proof.Machine.execImin o s
  | .imax o => Sys2Proof.Machine.execImax o s
  | .iabs o => Sys2Proof.Machine.execIabs o s
  | .ineg o => Sys2Proof.Machine.execIneg o s
  | .iaddc o => Sys2Proof.Machine.execIaddc o s
  | .icmp o => Sys2Proof.Machine.execIcmp o s
  | .sel o => Sys2Proof.Machine.execSel o s
  | .shl o => Sys2Proof.Machine.execShl o s
  | .shr o => Sys2Proof.Machine.execShr o s
  | .sar o => Sys2Proof.Machine.execSar o s
  | .rol o => Sys2Proof.Machine.execRol o s
  | .and o => Sys2Proof.Machine.execAnd o s
  | .or o => Sys2Proof.Machine.execOr o s
  | .xor o => Sys2Proof.Machine.execXor o s
  | .not o => Sys2Proof.Machine.execNot o s
  | .andn o => Sys2Proof.Machine.execAndn o s
  | .bfx o => Sys2Proof.Machine.execBfx o s
  | .bfi o => Sys2Proof.Machine.execBfi o s
  | .popc o => Sys2Proof.Machine.execPopc o s
  | .clz o => Sys2Proof.Machine.execClz o s
  | .brev o => Sys2Proof.Machine.execBrev o s
  | .lea o => Sys2Proof.Machine.execLea o s
  | .add64 o => Sys2Proof.Machine.execAdd64 o s
  | .mov o => Sys2Proof.Machine.execMov o s
  | .movi o => Sys2Proof.Machine.execMovi o s
  | .movs o => Sys2Proof.Machine.execMovs o s
  | .lperm o => Sys2Proof.Machine.execLperm o s
  | .lpush o => Sys2Proof.Machine.execLpush o s
  | .lbcast o => Sys2Proof.Machine.execLbcast o s
  | .lshfl o => Sys2Proof.Machine.execLshfl o s
  | .lscan o => Sys2Proof.Machine.execLscan o s
  | .lred o => Sys2Proof.Machine.execLred o s
  | .lvote o => Sys2Proof.Machine.execLvote o s
  | .firstlane o => Sys2Proof.Machine.execFirstlane o s
  | .bra o => Sys2Proof.Machine.execBra o s
  | .brc o => Sys2Proof.Machine.execBrc o s
  | .call o => Sys2Proof.Machine.execCall o s
  | .ret o => Sys2Proof.Machine.execRet o s
  | .jmpi o => Sys2Proof.Machine.execJmpi o s
  | .splitsync o => Sys2Proof.Machine.execSplitsync o s
  | .exit o => Sys2Proof.Machine.execExit o s
  | .rep o => Sys2Proof.Machine.execRep o s
  | .nop o => Sys2Proof.Machine.execNop o s
  | .yield o => Sys2Proof.Machine.execYield o s
  | .reggrow o => Sys2Proof.Machine.execReggrow o s
  | .reggrowGrant core => Sys2Proof.Machine.execReggrowGrant core s
  | .reggrowDeny core => Sys2Proof.Machine.execReggrowDeny core s
  | .regshrink o => Sys2Proof.Machine.execRegshrink o s
  | .sread o => Sys2Proof.Machine.execSread o s
  | .swrite o => Sys2Proof.Machine.execSwrite o s
  | .fadd o => Sys2Proof.Machine.execFadd o s
  | .fsub o => Sys2Proof.Machine.execFsub o s
  | .fmul o => Sys2Proof.Machine.execFmul o s
  | .ffma o => Sys2Proof.Machine.execFfma o s
  | .fmin o => Sys2Proof.Machine.execFmin o s
  | .fmax o => Sys2Proof.Machine.execFmax o s
  | .fcmp o => Sys2Proof.Machine.execFcmp o s
  | .fclass o => Sys2Proof.Machine.execFclass o s
  | .frnd o => Sys2Proof.Machine.execFrnd o s
  | .ftoi o => Sys2Proof.Machine.execFtoi o s
  | .itof o => Sys2Proof.Machine.execItof o s
  | .rcpseed o => Sys2Proof.Machine.execRcpseed o s
  | .rsqseed o => Sys2Proof.Machine.execRsqseed o s
  | .lg2seed o => Sys2Proof.Machine.execLg2seed o s
  | .ex2seed o => Sys2Proof.Machine.execEx2seed o s
  | .rrpi o => Sys2Proof.Machine.execRrpi o s
  | .rrln2 o => Sys2Proof.Machine.execRrln2 o s
  | .fexp o => Sys2Proof.Machine.execFexp o s
  | .fmant o => Sys2Proof.Machine.execFmant o s
  | .ldexp o => Sys2Proof.Machine.execLdexp o s
  | .cvt o => Sys2Proof.Machine.execCvt o s
  | .pk o => Sys2Proof.Machine.execPk o s
  | .unpk o => Sys2Proof.Machine.execUnpk o s
  | .hadd2 o => Sys2Proof.Machine.execHadd2 o s
  | .hmul2 o => Sys2Proof.Machine.execHmul2 o s
  | .hfma2 o => Sys2Proof.Machine.execHfma2 o s
  | .dot4 o => Sys2Proof.Machine.execDot4 o s
  | .dot8 o => Sys2Proof.Machine.execDot8 o s
  | .dots o => Sys2Proof.Machine.execDots o s
  | .scale o => Sys2Proof.Machine.execScale o s
  | .amaxb o => Sys2Proof.Machine.execAmaxb o s
  | .qnt o => Sys2Proof.Machine.execQnt o s
  | .ld o => Sys2Proof.Machine.execLd o s
  | .st o => Sys2Proof.Machine.execSt o s
  | .lds o => Sys2Proof.Machine.execLds o s
  | .sts o => Sys2Proof.Machine.execSts o s
  | .atom o => Sys2Proof.Machine.execAtom o s
  | .red o => Sys2Proof.Machine.execRed o s
  | .pref o => Sys2Proof.Machine.execPref o s
  | .cwb o => Sys2Proof.Machine.execCwb o s
  | .cinv o => Sys2Proof.Machine.execCinv o s
  | .bankcfg o => Sys2Proof.Machine.execBankcfg o s
  | .fpush o => Sys2Proof.Machine.execFpush o s
  | .fpop o => Sys2Proof.Machine.execFpop o s
  | .fence o => Sys2Proof.Machine.execFence o s
  | .gbar o => Sys2Proof.Machine.execGbar o s
  | .nbarinit o => Sys2Proof.Machine.execNbarinit o s
  | .nbararr o => Sys2Proof.Machine.execNbararr o s
  | .nbarwait o => Sys2Proof.Machine.execNbarwait o s
  | .nbarsync o => Sys2Proof.Machine.execNbarsync o s
  | .mwatch o => Sys2Proof.Machine.execMwatch o s
  | .mwait o => Sys2Proof.Machine.execMwait o s
  | .watchTrigger slice line => Sys2Proof.Machine.execWatchTrigger slice line s
  | .ticket o => Sys2Proof.Machine.execTicket o s
  | .henc o => Sys2Proof.Machine.execHenc o s
  | .hdec o => Sys2Proof.Machine.execHdec o s
  | .hadd o => Sys2Proof.Machine.execHadd o s
  | .hsub o => Sys2Proof.Machine.execHsub o s
  | .hmul o => Sys2Proof.Machine.execHmul o s
  | .hneg o => Sys2Proof.Machine.execHneg o s
  | .hinv o => Sys2Proof.Machine.execHinv o s
  | .hdiv o => Sys2Proof.Machine.execHdiv o s
  | .heq o => Sys2Proof.Machine.execHeq o s
  | .hdig o => Sys2Proof.Machine.execHdig o s
  | .hnorm o => Sys2Proof.Machine.execHnorm o s
  | .mma o => Sys2Proof.Machine.execMma o s
  | .mmas o => Sys2Proof.Machine.execMmas o s
  | .mmaPerform core op => Sys2Proof.Machine.execMmaPerform core op s
  | .acq o => Sys2Proof.Machine.execAcq o s
  | .accTokenGrant core op => Sys2Proof.Machine.execAccTokenGrant core op s
  | .rel o => Sys2Proof.Machine.execRel o s
  | .accrd o => Sys2Proof.Machine.execAccrd o s
  | .accrdMem o => Sys2Proof.Machine.execAccrdMem o s
  | .accwr o => Sys2Proof.Machine.execAccwr o s
  | .accz o => Sys2Proof.Machine.execAccz o s
  | .cmpr o => Sys2Proof.Machine.execCmpr o s
  | .mopld o => Sys2Proof.Machine.execMopld o s
  | .ebudgetRefill cluster => Sys2Proof.Machine.execEbudgetRefill cluster s
  | .cbcfg o => Sys2Proof.Machine.execCbcfg o s
  | .cbgate o => Sys2Proof.Machine.execCbgate o s
  | .cbrun o => Sys2Proof.Machine.execCbrun o s
  | .tileCommandStart tile => Sys2Proof.Machine.execTileCommandStart tile s
  | .crossbarGate tile => Sys2Proof.Machine.execCrossbarGate tile s
  | .cbread o => Sys2Proof.Machine.execCbread o s
  | .cbwrite o => Sys2Proof.Machine.execCbwrite o s
  | .cbmap o => Sys2Proof.Machine.execCbmap o s
  | .cbmapReset o => Sys2Proof.Machine.execCbmapReset o s
  | .cbstatSt o => Sys2Proof.Machine.execCbstatSt o s
  | .cbstatLife o => Sys2Proof.Machine.execCbstatLife o s
  | .cbstatCal o => Sys2Proof.Machine.execCbstatCal o s
  | .cbstatBad o => Sys2Proof.Machine.execCbstatBad o s
  | .cbstatOvf o => Sys2Proof.Machine.execCbstatOvf o s
  | .cbprog o => Sys2Proof.Machine.execCbprog o s
  | .cbprogRow tile verified => Sys2Proof.Machine.execCbprogRow tile verified s
  | .cbcal o => Sys2Proof.Machine.execCbcal o s
  | .cbcalBlock tile => Sys2Proof.Machine.execCbcalBlock tile s
  | .cbmvm o => Sys2Proof.Machine.execCbmvm o s
  | .cbmvmPerform tile => Sys2Proof.Machine.execCbmvmPerform tile s
  | .cpy o => Sys2Proof.Machine.execCpy o s
  | .cpyl o => Sys2Proof.Machine.execCpyl o s
  | .copyAccept cmd => Sys2Proof.Machine.execCopyAccept cmd s
  | .copyComplete cmd => Sys2Proof.Machine.execCopyComplete cmd s
  | .tagwany o => Sys2Proof.Machine.execTagwany o s
  | .tagwall o => Sys2Proof.Machine.execTagwall o s
  | .tagfirst o => Sys2Proof.Machine.execTagfirst o s
  | .tagclr o => Sys2Proof.Machine.execTagclr o s
  | .tbinit o => Sys2Proof.Machine.execTbinit o s
  | .tbarr o => Sys2Proof.Machine.execTbarr o s
  | .tbexpect o => Sys2Proof.Machine.execTbexpect o s
  | .tbwait o => Sys2Proof.Machine.execTbwait o s
  | .tbinval o => Sys2Proof.Machine.execTbinval o s
  | .sred o => Sys2Proof.Machine.execSred o s
  | .sredb o => Sys2Proof.Machine.execSredb o s
  | .sredAccept cmd => Sys2Proof.Machine.execSredAccept cmd s
  | .sredCompute cmd => Sys2Proof.Machine.execSredCompute cmd s
  | .srstatCnt o => Sys2Proof.Machine.execSrstatCnt o s
  | .srstatErr o => Sys2Proof.Machine.execSrstatErr o s
  | .srstatCode o => Sys2Proof.Machine.execSrstatCode o s
  | .srstatClr o => Sys2Proof.Machine.execSrstatClr o s
  | .tspawn o => Sys2Proof.Machine.execTspawn o s
  | .insertionQueueDrain die => Sys2Proof.Machine.execInsertionQueueDrain die s
  | .tcancel o => Sys2Proof.Machine.execTcancel o s
  | .evset o => Sys2Proof.Machine.execEvset o s
  | .evwait o => Sys2Proof.Machine.execEvwait o s
  | .launch o => Sys2Proof.Machine.execLaunch o s
  | .launchPublish op => Sys2Proof.Machine.execLaunchPublish op s
  | .resnew o => Sys2Proof.Machine.execResnew o s
  | .respri o => Sys2Proof.Machine.execRespri o s
  | .resevict o => Sys2Proof.Machine.execResevict o s
  | .resdemote o => Sys2Proof.Machine.execResdemote o s
  | .resqryTile o => Sys2Proof.Machine.execResqryTile o s
  | .resqryHnd o => Sys2Proof.Machine.execResqryHnd o s
  | .resqryScore o => Sys2Proof.Machine.execResqryScore o s
  | .resdecl o => Sys2Proof.Machine.execResdecl o s
  | .trap o => Sys2Proof.Machine.execTrap o s
  | .rtt o => Sys2Proof.Machine.execRtt o s
  | .phint o => Sys2Proof.Machine.execPhint o s
  | .bkpt o => Sys2Proof.Machine.execBkpt o s
  | .tlbinv o => Sys2Proof.Machine.execTlbinv o s
  | .tlbinvAll o => Sys2Proof.Machine.execTlbinvAll o s
  | .ctxsave o => Sys2Proof.Machine.execCtxsave o s
  | .ctxload o => Sys2Proof.Machine.execCtxload o s
  | .halt o => Sys2Proof.Machine.execHalt o s
  | .getk cmd => Sys2Proof.Machine.execGetk cmd s
  | .endk cmd line => Sys2Proof.Machine.execEndk cmd line s
  | .evc slice line => Sys2Proof.Machine.execEvc slice line s
  | .wbe slice line => Sys2Proof.Machine.execWbe slice line s
  | .invalidate slice line => Sys2Proof.Machine.execInvalidate slice line s
  | .invAck slice line => Sys2Proof.Machine.execInvAck slice line s
  | .fwd line => Sys2Proof.Machine.execFwd line s
  | .fwdAnswer line => Sys2Proof.Machine.execFwdAnswer line s
  | .versionSpill unit line => Sys2Proof.Machine.execVersionSpill unit line s
  | .cacheEvict cluster line => Sys2Proof.Machine.execCacheEvict cluster line s
  | .queueTailRead ctx q => Sys2Proof.Machine.execQueueTailRead ctx q s
  | .launchRecordForward die => Sys2Proof.Machine.execLaunchRecordForward die s
  | .launchAdmit die ctx q => Sys2Proof.Machine.execLaunchAdmit die ctx q s
  | .launchRegistration launch => Sys2Proof.Machine.execLaunchRegistration launch s
  | .eventUpdate die => Sys2Proof.Machine.execEventUpdate die s
  | .distributionReport launch die => Sys2Proof.Machine.execDistributionReport launch die s
  | .launchEnd launch => Sys2Proof.Machine.execLaunchEnd launch s
  | .crewStart die => Sys2Proof.Machine.execCrewStart die s
  | .taskDispatch cluster => Sys2Proof.Machine.execTaskDispatch cluster s
  | .steal thief => Sys2Proof.Machine.execSteal thief s
  | .stealCopy die => Sys2Proof.Machine.execStealCopy die s
  | .stealAck die => Sys2Proof.Machine.execStealAck die s
  | .stealConfirm die => Sys2Proof.Machine.execStealConfirm die s
  | .groupRetire g => Sys2Proof.Machine.execGroupRetire g s
  | .crewRetire crew => Sys2Proof.Machine.execCrewRetire crew s
  | .taskCompletion crew => Sys2Proof.Machine.execTaskCompletion crew s
  | .groupStop g => Sys2Proof.Machine.execGroupStop g s
  | .crewSave crew => Sys2Proof.Machine.execCrewSave crew s
  | .crewResume crew => Sys2Proof.Machine.execCrewResume crew s
  | .timeSliceExpiry crew => Sys2Proof.Machine.execTimeSliceExpiry crew s
  | .faultRecordWrite ctx => Sys2Proof.Machine.execFaultRecordWrite ctx s
  | .replyRetry ctx record => Sys2Proof.Machine.execReplyRetry ctx record s
  | .replyDeliver ctx record => Sys2Proof.Machine.execReplyDeliver ctx record s
  | .replyEnd ctx record => Sys2Proof.Machine.execReplyEnd ctx record s
  | .replyResume ctx record => Sys2Proof.Machine.execReplyResume ctx record s
  | .parkedShareSwitch ctx => Sys2Proof.Machine.execParkedShareSwitch ctx s
  | .replay due => Sys2Proof.Machine.execReplay due s
  | .redundantCompare crew => Sys2Proof.Machine.execRedundantCompare crew s
  | .registerContext ctx => Sys2Proof.Machine.execRegisterContext ctx s
  | .reRegisterContext ctx => Sys2Proof.Machine.execReRegisterContext ctx s
  | .tearDownContext ctx => Sys2Proof.Machine.execTearDownContext ctx s
  | .errorRecordWrite die => Sys2Proof.Machine.execErrorRecordWrite die s
  | .containment die => Sys2Proof.Machine.execContainment die s
  | .spuriousWake g n => Sys2Proof.Machine.execSpuriousWake g n s
  | .driftMonitor tile block => Sys2Proof.Machine.execDriftMonitor tile block s
  | .rds slice line => Sys2Proof.Machine.execRds slice line s
  | .rdu sender line engine => Sys2Proof.Machine.execRdu sender line engine s
  | .wr slice cluster pa bytes => Sys2Proof.Machine.execWr slice cluster pa bytes s
  | .dirty slice line => Sys2Proof.Machine.execDirty slice line s
  | .vwr unit line => Sys2Proof.Machine.execVwr unit line s
  | .cmt unit line => Sys2Proof.Machine.execCmt unit line s
  | .dis unit line => Sys2Proof.Machine.execDis unit line s
  | .recall line => Sys2Proof.Machine.execRecall line s
  | .cacheFill cluster line ctx tile => Sys2Proof.Machine.execCacheFill cluster line ctx tile s
  | .bar0Write off val => Sys2Proof.Machine.execBar0Write off val s
  | .hostRead addr len => Sys2Proof.Machine.execHostRead addr len s
  | .hostWrite addr bytes => Sys2Proof.Machine.execHostWrite addr bytes s
  | .inboundFabricRequest peer addr kind len operand cmp bytes => Sys2Proof.Machine.execInboundFabricRequest peer addr kind len operand cmp bytes s
  | .fabricWriteNotAccepted die port node => Sys2Proof.Machine.execFabricWriteNotAccepted die port node s
  | .memoryErrorCorrected die addr => Sys2Proof.Machine.execMemoryErrorCorrected die addr s
  | .hostLinkReplay die => Sys2Proof.Machine.execHostLinkReplay die s
  | .dieToDieFlitRetry die pair => Sys2Proof.Machine.execDieToDieFlitRetry die pair s
  | .fabricFlitRetry die port => Sys2Proof.Machine.execFabricFlitRetry die port s
  | .uncorrectableError die site use => Sys2Proof.Machine.execUncorrectableError die site use s
  | .hotReset => Sys2Proof.Machine.execHotReset s
  | .retentionEnter cluster => Sys2Proof.Machine.execRetentionEnter cluster s
  | .retentionExit cluster lost => Sys2Proof.Machine.execRetentionExit cluster lost s
  | .powerRateUpdate ctx cluster cap power => Sys2Proof.Machine.execPowerRateUpdate ctx cluster cap power s
  | .nodeCapMessage watts => Sys2Proof.Machine.execNodeCapMessage watts s
  | .watchdogExpiry => Sys2Proof.Machine.execWatchdogExpiry s
  | .firmwareUpdateStart => Sys2Proof.Machine.execFirmwareUpdateStart s
  | .watchdogService => Sys2Proof.Machine.execWatchdogService s
  | .droopStretch cluster => Sys2Proof.Machine.execDroopStretch cluster s
  | .seriesPairOvercurrent die pair both released => Sys2Proof.Machine.execSeriesPairOvercurrent die pair both released s
  | .thermalTrip die sensor => Sys2Proof.Machine.execThermalTrip die sensor s
  | .bootStageVerify die stage digest verified rollback => Sys2Proof.Machine.execBootStageVerify die stage digest verified rollback s
  | .getVersion mctp => Sys2Proof.Machine.execGetVersion mctp s
  | .getCapabilities mctp => Sys2Proof.Machine.execGetCapabilities mctp s
  | .negotiateAlgorithms mctp => Sys2Proof.Machine.execNegotiateAlgorithms mctp s
  | .getDigests mctp => Sys2Proof.Machine.execGetDigests mctp s
  | .getCertificate mctp => Sys2Proof.Machine.execGetCertificate mctp s
  | .challenge mctp nonce => Sys2Proof.Machine.execChallenge mctp nonce s
  | .getMeasurements mctp => Sys2Proof.Machine.execGetMeasurements mctp s
  | .powerOn => Sys2Proof.Machine.execPowerOn s
  | .droopRelease cluster => Sys2Proof.Machine.execDroopRelease cluster s

end Sys2Proof.Machine
end

