-- ==== Sys2Proof/Machine/Sched.lean ====
section
/-! DEFINITION. What may happen next (log 1): the ready splits and the device's own events, the word a split issues, and
REP's stepping of it (R99). -/

namespace Sys2Proof.Machine

/-- The step widths of the fields of an instruction that a split issues (R99): those of CMPR are the widths of its operands
for the elements of the slot it names (R247). -/
def State.widths (s : State) (c : Crew) (i : Instr) : List (Option Nat) := match i with
  | .cmpr o =>
    let f := FSlot.ofBits (s.slotRaw c o.fs)
    if 2 ≤ f.elem ∧ f.elem ≤ 5 then
      let sh := cmprShape (elemFmt f.elem) (o.bit 0)
      [some sh.dst, some sh.src, none, some 1]
    else stepWidths i
  | _ => stepWidths i

/-- What REP adds to the fields of the repeated instruction at its present iteration (R99). -/
def Rep.bump (r : Rep) (w : List (Option Nat)) : Bump :=
  let k (j : Nat) : Nat := if r.step.testBit (3 - j) then r.next * (nth none w j).getD 0 else 0
  { f0 := k 0, f1 := k 1, f2 := k 2, f3 := k 3 }

/-- The instruction that a split issues now: the word of its clause, with its literal word and, in a repeat, its stepped
fields of the given step widths; none at a clause boundary. -/
def Split.current (p : Split) (widths : Instr → List (Option Nat)) : Option (Except Reject Instr) :=
  match p.cl with
  | none => none
  | some c =>
    let w := nth 0 c.words (p.widx - 1)
    let lit := nth 0 c.words p.widx
    match decode w lit with
    | .error e => some (.error e)
    | .ok i => if p.rep.act then some (decodeWith (p.rep.bump (widths i)) w lit) else some (.ok i)

/-- The instruction that split `n` of group `g` issues now. -/
def State.current (s : State) (g n : Nat) : Option (Except Reject Instr) :=
  match s.group? g with
  | none => none
  | some x => match x.split? n with
    | none => none
    | some p => p.current fun i => match s.unitCrew? x.cid with
      | some c => s.widths c i
      | none => stepWidths i

/-- A word that is no instruction traps (R102, R104). -/
def State.rejectWord (s : State) (g n : Nat) (e : Reject) : State :=
  let opc := match e with
    | .unassigned op => op
    | .selector op _ => op
  s.raise g n { cause := e.cause, opc }

/-- The splits that may issue: ready, in their turn among those of equal priority, and not giving way (R30, R89). -/
def State.readySplits (s : State) : List Cand :=
  s.groups.flatMap fun g =>
    (g.splits.filter fun p => s.ready g (s.ctxOf g) p && s.yieldDone p && s.turnCome p).map fun p => .split g.gid p.num

/-! ### Events that may be due

Each list holds at least the events whose conditions hold; an event whose condition does not hold changes nothing (log
11). -/

/-- Of the groups. -/
def State.dueGroups (s : State) : List Instr :=
  List.flatten [
    (s.groups.filter fun g => g.splits.isEmpty && !g.retired).map fun g => Instr.groupRetire g.gid,
    (s.groups.filter fun g => g.stopReq && !g.stopped).map fun g => Instr.groupStop g.gid,
    ((sortAsc (s.groups.map (·.core))).filter fun k => !(s.growReqs k).isEmpty).flatMap fun k =>
      [Instr.reggrowGrant k, Instr.reggrowDeny k]]

/-- Of the crews. -/
def State.dueCrews (s : State) : List Instr :=
  List.flatten [
    (s.crews.filter fun c => s.crewDone c).flatMap fun c =>
      [Instr.crewRetire c.cid, Instr.taskCompletion c.cid, Instr.redundantCompare c.cid],
    (s.crews.filter fun c => s.canSave c).map fun c => Instr.crewSave c.cid,
    s.saved.map fun v => Instr.crewResume v.crew.cid,
    (s.crews.filter fun c => decide (0 < (s.ctx c.ctx).tslice)).map fun c => Instr.timeSliceExpiry c.cid]

/-- Of an operation. -/
def Op.due (o : Op) : Instr := match o.kind with
  | .launch .. => Instr.launchPublish o.id
  | _ => Instr.operationComplete o.id

/-- Of a matrix command at the engine of a core. -/
def MCmd.due (core : Nat) (c : MCmd) : Option Instr := match c.kind with
  | .mma .. => some (Instr.mmaPerform core c.op)
  | .acq .. => some (Instr.accTokenGrant core c.op)
  | _ => none

/-- Of a tile. -/
def Tile.due (x : Nat) (t : Tile) : List Instr := match t.busy with
  | .idle => if t.q.isEmpty then [] else [Instr.tileCommandStart x]
  | .run .. => [Instr.crossbarGate x]
  | .prog .. => [Instr.cbprogRow x true, Instr.cbprogRow x false]
  | .cal .. => [Instr.cbcalBlock x, Instr.tileCommandStart x]
  | .mvm .. => [Instr.cbmvmPerform x]

/-- Of operations and engine commands. -/
def State.dueOps (s : State) : List Instr :=
  List.flatten [
    s.ops.map Op.due,
    s.cores.flatMap fun e => e.2.mq.filterMap (MCmd.due e.1),
    s.tiles.flatMap fun e => e.2.due e.1,
    s.copies.map fun c => if c.accepted then Instr.copyComplete c.id else Instr.copyAccept c.id,
    (s.copies.filter fun c => c.accepted).flatMap fun c => c.held.map fun l => Instr.endk c.id l,
    s.sreds.map fun c => if c.accepted then Instr.sredCompute c.id else Instr.sredAccept c.id,
    (s.kcmds.filter fun c => !c.need.isEmpty).map fun c => Instr.getk c.id]

/-- Of a directory entry: what its transaction waits for, or the loss of a copy for room. -/
def DirEntry.due (line : Nat) (e : DirEntry) : List Instr := match e.txn with
  | some t =>
    List.flatten [t.acks.map fun i => Instr.invalidate i line, t.acked.map fun i => Instr.invAck i line,
      if t.fwd then [Instr.fwd line, Instr.fwdAnswer line] else []]
  | none => if e.st = .m then [Instr.wbe e.owner line] else e.sharerList.map fun i => Instr.evc i line

/-- Of the directory, the slices and the cluster caches. -/
def State.dueMemory (s : State) : List Instr :=
  List.flatten [
    s.dir.flatMap fun e => e.2.due e.1,
    s.clusters.flatMap fun e => e.2.cache.map fun l => Instr.cacheEvict e.1 l.line,
    s.versions.flatMap fun v => v.lines.map fun l => Instr.versionSpill v.cid l]

/-- Of a die. -/
def State.dueDie (s : State) (d : Nat) : List Instr :=
  let x := s.die d
  let one (b : Bool) (i : Instr) : List Instr := if b then [] else [i]
  List.flatten [
    one x.fwd.isEmpty (Instr.launchRecordForward d), x.got.map fun m => Instr.launchAdmit d m.1 m.2.1,
    one s.updates.isEmpty (Instr.eventUpdate d), one x.insQ.isEmpty (Instr.insertionQueueDrain d),
    one x.crewQ.isEmpty (Instr.crewStart d), one x.steals.isEmpty (Instr.stealCopy d),
    one x.steals.isEmpty (Instr.stealAck d), one x.steals.isEmpty (Instr.stealConfirm d),
    one x.errQ.isEmpty (Instr.errorRecordWrite d)]

/-- Of a launch. -/
def Launch.due (l : Launch) : List Instr :=
  Instr.launchRegistration l.lid :: Instr.launchEnd l.lid :: (List.range 4).map fun d => Instr.distributionReport l.lid d

/-- Of launches, tasks and dies. -/
def State.dueTasks (s : State) : List Instr :=
  List.flatten [
    s.ctxs.flatMap fun e => if e.2.registered then (List.range 8).map fun q => Instr.queueTailRead e.1 q else [],
    (List.range 4).flatMap s.dueDie,
    s.launches.flatMap Launch.due,
    s.clusters.flatMap fun e =>
      if e.2.ready.isEmpty then []
      else Instr.taskDispatch e.1 :: (clustersOf (dieOfCluster e.1)).map fun k => Instr.steal k]

/-- The reply that stands in a written fault record (R382). -/
def State.dueReply (s : State) (ctx : Nat) (x : Context) (r : FaultRec) : List Instr := match r.index with
  | none => []
  | some i => match s.rdN (x.faultPa i + 32) 8 with
    | 1 => [Instr.replyRetry ctx r.id]
    | 2 => [Instr.replyDeliver ctx r.id]
    | 3 => [Instr.replyEnd ctx r.id]
    | 4 => [Instr.replyResume ctx r.id]
    | _ => []

/-- The operation in CTXCMD (Table 17-2). -/
def State.dueCommand (s : State) : List Instr :=
  let w := s.bar0.ctxcmd.toNat
  if !w.testBit 31 then []
  else match bits w 9 8 with
    | 1 => [Instr.registerContext (bits w 4 0)]
    | 2 => [Instr.reRegisterContext (bits w 4 0)]
    | _ => [Instr.tearDownContext (bits w 4 0)]

/-- Of contexts: fault service, parked share, and the operation in CTXCMD. -/
def State.dueContexts (s : State) : List Instr :=
  List.flatten [
    (s.ctxs.filter fun e => e.2.pshare != 0).map fun e => Instr.parkedShareSwitch e.1,
    (s.ctxs.filter fun e => !e.2.faults.isEmpty).map fun e => Instr.faultRecordWrite e.1,
    s.ctxs.flatMap fun e => e.2.faults.flatMap fun r => s.dueReply e.1 e.2 r,
    s.dueCommand]

/-- Every event that may be due. -/
def State.due (s : State) : List Instr :=
  List.flatten [s.dueGroups, s.dueCrews, s.dueOps, s.dueMemory, s.dueTasks, s.dueContexts]

/-- What may happen of itself: wakes of sleeping splits, drift, retention, results before their completion points. -/
def State.dueSelf (s : State) : List Cand :=
  List.flatten [
    s.groups.flatMap fun g => (g.splits.filter fun p => p.watch.isSome).map fun p => Cand.wake g.gid p.num,
    s.tiles.flatMap fun e => ((List.range 8).filter fun b => e.2.cal.getLsbD b).map fun b => Cand.drift e.1 b,
    ((List.range 96).filter fun k => !(s.cluster k).retention).map fun k => Cand.retain k,
    s.ops.map fun o => Cand.early o.id]

/-- What waits at the homes and at the host port (R45, R411), and the replays in progress (R404). -/
def State.dueHomes (s : State) : List Cand :=
  List.flatten [
    (s.dir.filter fun e => !e.2.queue.isEmpty && e.2.txn.isNone).map fun e => Cand.home e.1,
    (s.launches.filter fun l => !l.replay.isEmpty).map fun l => Cand.replay l.lid,
    if s.inbound.isEmpty then [] else [Cand.inbound]]

/-- One reference period of each cluster (R141). -/
def refills : List Cand := (List.range 96).map fun k => Cand.event (Instr.ebudgetRefill k)

/-- Everything that may happen next. -/
def State.candidates (s : State) : List Cand :=
  List.flatten [s.readySplits, s.due.map Cand.event, s.dueHomes, s.dueSelf, refills]

/-- What no rule says must ever happen: a copy may be dropped and may stay, a row may fail and may not, a line may be given up
before its copy completes. -/
def Instr.optional : Instr → Bool
  | .evc .. | .wbe .. | .cacheEvict .. | .versionSpill .. | .cbprogRow _ false | .endk .. => true
  | _ => false

/-- A candidate that need not ever be taken. -/
def Cand.optional : Cand → Bool
  | .wake .. | .drift .. | .retain _ | .early _ => true
  | .event i => Instr.optional i
  | .split .. | .home _ | .inbound | .replay _ => false

/-- One of the candidates, as `Config.choice` gives where there are several (log 1). -/
def pick (tick : Nat) : List Cand → Option Cand
  | [] => none
  | [x] => some x
  | l => l[Config.choice tick % l.length]?

/-- For how many steps a candidate has been passed over. -/
def State.waited (s : State) (c : Cand) : Nat := ((s.waiting.find? fun e => e.1 == c).map (·.2)).getD 0

/-- Of some candidates, the first that has been passed over longest. -/
def State.longest (s : State) (l : List Cand) : Option Cand :=
  l.foldl (fun b c => match b with
    | none => some c
    | some x => if s.waited x < s.waited c then some c else b) none

/-- One of the candidates: what has been passed over for `Config.patience` steps comes first, so that whatever can happen
and must happen happens in finite time (R14, R30; log 1). -/
def State.pickFair (s : State) (l : List Cand) : Option Cand :=
  match s.longest (l.filter fun c => decide (Config.patience < s.waited c)) with
  | some c => some c
  | none => pick s.tick l

/-- What a serving slice that holds more than its lines does: it drops a copy (Table 02-3, Evc and WbE), or a line of a version that
it holds spills (R384). Which one is log 119's choice. -/
def State.sliceDrops (s : State) (sl : Nat) : List Cand :=
  (s.sliceHeld sl).map fun e => Cand.event (match e.2 with
    | some unit => .versionSpill unit e.1
    | none => if (s.dirAt e.1).st = .m then .wbe sl e.1 else .evc sl e.1)

/-- What goes on now. Once the device is contained, and in boot failure, only its reference oscillators and its host port go on
(R415, R429), and nothing once its clocks are stopped (R424). -/
def State.allowed (s : State) : List Cand :=
  if s.tripped then []
  else if s.closed then refills ++ (if s.inbound.isEmpty then [] else [Cand.inbound])
  else s.candidates

/-- What may happen next: a slice that holds too much makes room first (R2). -/
def State.possible (s : State) : List Cand :=
  match if s.tripped || s.closed then none
    else (List.range 32).find? fun sl => decide (sliceLines < (s.sliceHeld sl).length) with
  | some sl => s.sliceDrops sl
  | none => s.allowed

/-- The next thing that happens when no event is due by name. -/
def State.next (s : State) : Option Cand := s.pickFair s.possible

/-- What goes on and must happen, and was passed over for `c`, has waited one step longer. -/
def State.aged (s : State) (c : Cand) : State :=
  { s with waiting := (s.allowed.filter fun x => !x.optional && x != c).map fun x => (x, s.waited x + 1) }

/-! ### Placing an instruction -/

/-- The physical address of the clause that `placeWord` writes. -/
def placePa : Nat := 0x30000

/-- A context whose virtual addresses below 24 GiB are the same physical addresses, with every access allowed: its root
node at 0x2000 names one leaf, in the node at 0x4000 (R34, R35). -/
def Context.flat (x : Context) : Context := { x with registered := true, root := 0x2000, tlb := [], halt := Option.none }

/-- One split at the clause that is placed. -/
def Split.placed : Split :=
  { num := 0, exec := allLanes, memb := allLanes, pc := BitVec.ofNat 64 placePa, cl := none, widx := 0, entry := 0
    rep := Rep.idle, jpc := none, stack := [], trap := TrapRegs.zero, hmode := false, owed := [], tcap := none
    watch := none, hold := .none, yieldTo := [], passed := [], retained := none }

/-- One group of 512 registers on core 0. -/
def Group.placed (id : Nat) : Group :=
  { gid := id, cid := id, gidx := 0, core := 0, prio := 0, age := 0, count := 512, v := [], sr := [], soft0 := 0
    hstat := 0, claim := 0, splits := [Split.placed], gbarScope := 0, lastExit := 0, retired := false, revived := false
    parked := none, endReq := false, stopReq := false, stopped := false, pinned := false }

/-- Its crew, on cluster 0 in context 0. -/
def Crew.placed (id : Nat) : Crew :=
  { cid := id, lid := 0, ctx := 0, cluster := 0, size := 1, index := 0, task := none, arg := 0, bars := []
    scratchBase := 0, scratchSize := 0, claims := [], outst := 0, nerr := 0, lastRec := 0, lastSt := 0, lastPos := 0
    versioned := false, discarded := false, role := .single, reruns := 0, restart := false, slice := 0 }

/-- The instruction `w` of the opcode table's numbering (its literal word in bits 127 to 64) in a clause of its own at
`placePa`, and a new group that stands at it and takes the next turn (log 10). -/
def State.placeWord (s : State) (_nbits w : Nat) : State :=
  let len := if carriesLit (BitVec.ofNat 64 w) then 2 else 1
  let s1 : State := { s with
    agenda := .clauseStart s.nextId 0 :: s.agenda, groups := Group.placed s.nextId :: s.groups
    crews := Crew.placed s.nextId :: s.crews, nextId := s.nextId + 1, poison := s.poison.filter fun q => q != placePa / 48 }
  let s2 := (s1.wrN 0x2000 8 (2 * 4096 + 1)).wrN 0x4000 8 0x17
  let s3 := (s2.wrN placePa 8 (0xCA00000000FF0000 + len)).wrN (placePa + 8) 16 w
  s3.setCtx 0 (s3.ctx 0).flat

end Sys2Proof.Machine
end

