-- ==== Sys2Proof/Machine/Step.lean ====
section
/-! DEFINITION. One step of the device, and the placing of an instruction where the next step fetches it. -/

namespace Sys2Proof.Machine

/-- A split issues its present word: the decoded instruction is executed, and a word that is no instruction traps. At a
clause boundary nothing more happens. -/
def issueWord (g n : Nat) (s : State) : Host.Outcome State Fault Refusal :=
  match s.current g n with
  | none => .next s
  | some (.ok i) => exec i s
  | some (.error e) => .next (s.rejectWord g n e)

/-- A split takes its turn: at a clause boundary it starts its next clause, whose first word issues in the same step
(R87). -/
def stepSplit (g n : Nat) (s : State) : Host.Outcome State Fault Refusal :=
  let s0 := { s with cur := some { gid := g, split := n } }
  match s0.current g n with
  | some _ => issueWord g n s0
  | none => match exec (.clauseStart g n) s0 with
    | .next s1 => issueWord g n s1
    | o => o

/-- A thing that may happen next happens. -/
def stepCand (c : Cand) (s : State) : Host.Outcome State Fault Refusal :=
  match c with
  | .split g n => stepSplit g n (s.serve g n)
  | .event i => exec i s
  | .wake g n => execSpuriousWake g n s
  | .drift x b => execDriftMonitor x b s
  | .retain k => execRetentionEnter k s
  | .home l => .next (s.homeGo l)
  | .early o => .next (s.early o)
  | .inbound => .next s.inboundGo
  | .replay l => .next (s.replayOn l)

/-- The first event of the agenda happens; a turn that is given to a split by name is CLAUSE_START. -/
def stepDue (i : Instr) (s : State) : Host.Outcome State Fault Refusal :=
  match i with
  | .clauseStart g n => stepSplit g n s
  | _ => exec i s

/-- One step: an event that is due by name, else one of the things that may happen next; nothing when there is none. -/
def step (s : State) : Host.Outcome State Fault Refusal :=
  match s.agenda with
  | i :: l => stepDue i { s with agenda := l, tick := s.tick + 1 }
  | [] => match s.next with
    | none => .next s
    | some c => stepCand c { s.aged c with tick := s.tick + 1 }

/-- The machine with an instruction placed where `step` fetches its next one (log 10). -/
def State.withFetchWord (s : State) (nbits w : Nat) : State := s.placeWord nbits w

end Sys2Proof.Machine
end

