-- ==== Sys2Proof/Safety.lean ====
section
/-! DEFINITION. What counts as a safe step and the words the statements use: when an instruction reaches its own effect, what
it leaves alone, and how it answers. -/

namespace Sys2Proof

open Sys2Proof.Machine

/-- The machine goes on: a next state, neither a fault nor a refusal. -/
def Goes (o : Host.Outcome State Fault Refusal) : Prop := ∃ t, o = .next t

/-- Instruction `i` of the issuer `k` passes the encoding checks and the register bounds (Table 04-16, orders 4 to 7). -/
def Accepted (i : Instr) (s : State) (k : Issuer) : Prop :=
  s.issuer = some k ∧ encCheck i = none ∧ boundBad i k.g.count = false

/-- The instruction has the effect `t`, and its split moves on to the next word (R85). -/
def Completes (i : Instr) (s : State) (k : Issuer) (t : State) : Prop :=
  exec i s = .next (t.advance k.g.gid k.p.num)

/-- The instruction traps, in the state `t` that its checks have left, with its opcode in the trap (R376, R377). -/
def Traps (i : Instr) (s : State) (k : Issuer) (t : State) (c : Trap) : Prop :=
  exec i s = .next (t.raise k.g.gid k.p.num { c with opc := i.opcode.getD 0 })

/-- The instruction holds its word: it stays to be tried again, in the state `t`, and no split that gave way waits for it any
longer (R30, R89). -/
def Holds (i : Instr) (s : State) (t : State) : Prop :=
  ∃ k, s.issuer = some k ∧ exec i s = .next (t.clauseIssued k.g.gid k.p.num)

/-- The state with a long-latency operation outstanding that counts against the flags of the issuing clause (R88); one that
waits for a condition keeps the instruction, which executes again on a resume (R27). -/
def Outstanding (s : State) (k : Issuer) (i : Instr) (kind : OpKind) : State :=
  { s with
    ops := s.ops ++ [{ id := s.nextId, gid := k.g.gid, split := k.p.num, charges := k.p.charges, opc := i.opcode.getD 0, kind
                       again := if kind.resumes then some i else none }]
    nextId := s.nextId + 1 }

/-- The instruction is issued as a long-latency operation of this kind, from the state `t`. -/
def Issues (i : Instr) (s : State) (k : Issuer) (t : State) (kind : OpKind) : Prop :=
  Completes i s k (Outstanding t k i kind)

/-- The flags of the issuing clause leave room for one more operation (R88). -/
def Room (s : State) (k : Issuer) : Prop := s.flagRoom k.g.gid k.p = true

/-- The operation `op` is in flight: its record, its group and its crew. -/
def InFlight (s : State) (op : Nat) (o : Op) (g : Group) (c : Crew) : Prop :=
  s.op? op = some o ∧ s.group? o.gid = some g ∧ s.crew? g.cid = some c

/-- OPERATION_COMPLETE performs the operation `o`, which leaves `t`; then its flags' counts fall (R88). -/
def Performs (op : Nat) (s : State) (o : Op) (t : State) : Prop := exec (.operationComplete op) s = .next (t.finishOp o)

/-- The registers of a group are as before but for `vd`. -/
def RegsKept (g g' : Group) (vd : Nat → Nat → Prop) : Prop :=
  g'.sr = g.sr ∧ ∀ r l, l < 96 → ¬ vd r l → g'.rdV r l = g.rdV r l

/-- Atomics in ascending lane order on a memory: the value each lane found, and the memory they leave (R179). -/
def AtomFold (new : LaneAcc → Nat → Nat) (n : Nat) : List LaneAcc → (Nat → Byte) → List (Nat × Nat) × (Nat → Byte)
  | [], m => ([], m)
  | a :: l, m => match a.place with
    | .scratch _ => AtomFold new n l m
    | .phys pa _ =>
      let old := ofBytes ((List.range n).map fun i => m (pa + i))
      let r := AtomFold new n l fun x => if pa ≤ x ∧ x < pa + n then byteAt (new a old) (x - pa) else m x
      ((a.lane, old) :: r.1, r.2)

/-- VALUE of the code of `n` digits in the registers from `r` of a lane (R218). -/
def VALUE (g : Group) (p n r l : Nat) : Nat := ((List.range n).map fun j => (g.rdV (r + j) l).toNat * p ^ j).sum

/-- `c` packs `n` digits below `p`, one a word, of the number `x` below p^n (R218). -/
def CODES (p n x c : Nat) : Prop :=
  x < p ^ n ∧ c < 2 ^ (32 * n) ∧ (∀ j < n, c / 2 ^ (32 * j) % 2 ^ 32 < p)
    ∧ x = ((List.range n).map fun j => c / 2 ^ (32 * j) % 2 ^ 32 * p ^ j).sum

/-- A named barrier after a group's arrival (R204): with enough groups the phase advances and the arrivals clear. -/
def Arrived (b : Bar) (gidx : Nat) : Bar :=
  let a := b.arrived ||| BitVec.ofNat 16 (2 ^ gidx)
  if b.expect ≤ ((List.range 16).filter fun i => a.getLsbD i).length
  then { b with arrived := 0, phase := (b.phase + 1) % 65536 } else { b with arrived := a }

/-- A command of the matrix engine is queued at the issuer's core, its tags taken and with an age key (R238, R241, R51), from
the state `t`; `need` are the lines it will take. -/
def QueuesMatrix (i : Instr) (s : State) (k : Issuer) (t : State) (kind : MCmdKind) (need : List Nat) : Prop :=
  let r := (t.takeTags k kind.names).newAge (k.c.cluster / 24) (.matrix k.g.core)
  let c := r.2.core k.g.core
  Issues i s k (r.2.setCore k.g.core { c with
    mq := c.mq ++ [{ op := r.2.nextId, gid := k.g.gid, ctx := k.c.ctx, cid := k.c.cid, kind := kind, age := r.1, need := need
                     held := [] }] }) .matrix

/-- The issuing group marked as one that has named a tile (R391), as the state `t` holds it. -/
def Pinned (t : State) (k : Issuer) : State := t.updGroup k.g.gid fun g => { g with pinned := true }

/-- The issuing split with `h` as what holds it, as the state `t` holds it. -/
def HeldBy (t : State) (k : Issuer) (h : Hold) : State :=
  t.updGroup k.g.gid fun g => g.updSplit k.p.num fun p => { p with hold := h }

/-- A command is queued at tile `x` of the issuer's core with an age key, and its group is marked as one that has named a tile
(R270, R391, R51); it arrives admissibly at a CBCAL (R292) where one is in progress and no command of another kind waits. -/
def QueuesTile (i : Instr) (s : State) (k : Issuer) (t : State) (x : Nat) (kind : TCmdKind) (need : List Nat) : Prop :=
  let r := (Pinned t k).newAge (k.c.cluster / 24) (.tile k.g.core)
  let t := r.2.tile x
  ∃ joins, (joins = true ↔ ((∃ c b p, t.busy = .cal c b p) ∨ ∃ c w, t.busy = .mvm c (some w)) ∧ kind.light = true
      ∧ ∀ e ∈ t.q, e.kind.light = true)
    ∧ Issues i s k (r.2.setTile x { r.2.tile x with
    q := (r.2.tile x).q ++ [{ op := r.2.nextId, gid := k.g.gid, ctx := k.c.ctx, cid := k.c.cid, kind := kind, age := r.1
                              need := need, held := [], joins := joins }] }) .tile

/-- What a read of line `l` of an axis writes to vD (R275, R297): 16 words of the cells, a cell of a matrix-vector mode as bit 3 of
its level, and the report in lane 16. -/
def LineRead (t : Tile) (d ax l report : Nat) : List (Nat × Nat × Word) :=
  ((List.range 16).map fun i => (d, i, BitVec.ofNat 32 ((List.range 32).map fun b =>
    (if t.mode = .logic then t.cell ax l (32 * i + b) else t.cell ax l (32 * i + b) / 8 % 2) * 2 ^ b).sum))
    ++ [(d, 16, BitVec.ofNat 32 report)]

/-! ### Turns -/

/-- The next step is the turn of split `n` of group `g`, given by name or chosen, and the split finds the state `t`: the step
is counted, and a chosen split is served (R30). -/
def Turn (s : State) (g n : Nat) (t : State) : Prop :=
  (∃ due, s.agenda = .clauseStart g n :: due
    ∧ t = { s with agenda := due, tick := s.tick + 1, cur := some { gid := g, split := n } })
  ∨ (s.agenda = [] ∧ s.next = some (.split g n)
    ∧ t = { State.serve { s.aged (.split g n) with tick := s.tick + 1 } g n with cur := some { gid := g, split := n } })

/-! ### Instructions of block 0xE8 -/

/-- An instruction of block 0xE8 reads its record of `len` bytes at `va` (R365): a misaligned address, a page that cannot be
read and a poisoned record trap; a record that the split itself reads (`thread`) is waited for while its line's home makes an
RdU wait (R47, R371); else `post` holds of the state, the record's runs and the record. -/
def ReadsRecord (i : Instr) (s : State) (k : Issuer) (va : DWord) (len align : Nat) (thread : Bool)
    (post : State → List Seg → Nat → Prop) : Prop :=
  (va.toNat % align ≠ 0 → Traps i s k s { cause := 0x04, taddr := va })
  ∧ (va.toNat % align = 0 →
    (∀ e s1, s.range k.c .src { nc := true } false va.toNat len = (.error e, s1) → Traps i s k s1 e)
    ∧ ∀ l s1, s.range k.c .src { nc := true } false va.toNat len = (.ok l, s1) →
      let waits := thread = true ∧ s1.threadReads k.c (l.map Prod.fst) = false
      (waits → Holds i s s1)
      ∧ (¬ waits → (∃ g ∈ l, s1.segPoisoned k.c g.1 = true) → Traps i s k s1 { cause := 0x07, taddr := va })
      ∧ (¬ waits → (∀ g ∈ l, s1.segPoisoned k.c g.1 = false) → post s1 (l.map Prod.fst) (ofBytes (s1.segsBytes k.c (l.map Prod.fst)))))

/-- Neither a version records the instruction nor does a REPLAYABLE launch hold it (R365, R403). -/
def Immediate (s : State) (k : Issuer) (u : Update) : Prop :=
  k.c.versioned = false ∧ ∀ l, s.launch? k.c.lid = some l → l.holds u = false

/-- An instruction of block 0xE8 with the effect `u`, its checks passed in the state `s1`: held while a flag has no room;
recorded with its unit's version; held by its REPLAYABLE launch. `d` is the register that it writes. -/
def Records (i : Instr) (s s1 : State) (k : Issuer) (d : Option Nat) (u : Update) : Prop :=
  (¬ Room s1 k → Holds i s s1)
  ∧ (Room s1 k → k.c.versioned = true → ∀ v, s1.version? k.c.cid = some v → ∃ kind,
      Issues i s k (s1.setVersion { v with recs := v.recs ++ [u] }) kind ∧ (d = none → kind = .done)
      ∧ ∀ r, d = some r → ∃ w, kind = .sres [(r, w)])
  ∧ (Room s1 k → k.c.versioned = false → ∀ l, s1.launch? k.c.lid = some l → l.holds u = true →
      Issues i s k (s1.setLaunch { l with heldUpd := l.heldUpd ++ [u] }) .done)

/-- Cluster `j` of a die has a free entry in its ready table. -/
def TableFree (s : State) (die j : Nat) : Prop := j / 24 = die ∧ ∃ i < 64, (s.cluster j).entry i = none

/-- A ready task enters a table of a die (R360): the lowest free slot of the table with the highest score among those with a
free entry, ties going to the smallest predicted difference of the series pair and then to the lowest number. -/
def Placed (s t : State) (die : Nat) (e : Ready) : Prop :=
  let cost := (s.ctx e.ctx).cost (e.task.f 470 468)
  ∃ j i, TableFree s die j ∧ i < 64 ∧ (s.cluster j).entry i = none ∧ (∀ h < i, (s.cluster j).entry h ≠ none)
    ∧ t = s.setReady j i (some e)
    ∧ ∀ h, TableFree s die h → s.score h e.ctx e.task.ranges ≤ s.score j e.ctx e.task.ranges
      ∧ (s.score h e.ctx e.task.ranges = s.score j e.ctx e.task.ranges →
          s.pairDiff j cost ≤ s.pairDiff h cost ∧ (s.pairDiff h cost = s.pairDiff j cost → j ≤ h))

/-- A ready task is inserted on a die (R360, R363): at the end of the insertion queue where tasks wait there, no table has a free
entry or its context has no ready-table backing, else in a table. -/
def Inserted (s t : State) (die : Nat) (e : Ready) : Prop :=
  (((s.die die).insQ ≠ [] ∨ (s.ctx e.ctx).rtback = 0 ∨ ∀ j, ¬ TableFree s die j) →
    t = s.setDie die { s.die die with insQ := (s.die die).insQ ++ [e] })
  ∧ ((s.die die).insQ = [] → (s.ctx e.ctx).rtback ≠ 0 → (∃ j, TableFree s die j) → Placed s t die e)

/-- A die reads root records in order and takes those that are its own (R346, R354): each is inserted as a ready task, with the
launch's priority where it gives none. `n` are taken. -/
def TakesRoots (l : Launch) (die : Nat) : List Nat → State → Nat → State → Prop
  | [], s, n, t => n = 0 ∧ t = s
  | i :: rest, s, n, t =>
    let va := (l.f 191 128 + 64 * i) % 2 ^ 64
    ∃ (task : TaskRec) (s1 : State), task.addr = BitVec.ofNat 64 va
      ∧ ((∃ x, s.translate l.ctx va .read = (.ok x, s1) ∧ task.bits = BitVec.ofNat 512 (s1.rdN x.pa 64))
        ∨ ∃ c, s.translate l.ctx va .read = (.error c, s1))
      ∧ ((s1.dieOfTask l.ctx task ≠ die ∧ TakesRoots l die rest s1 n t)
        ∨ (s1.dieOfTask l.ctx task = die ∧ ∃ s2 m, n = m + 1
          ∧ Inserted s1 s2 die { lid := l.lid, ctx := l.ctx, task := task, st := .ready, cancel := false
                                 prio := if task.f 467 464 = 0 then l.f 383 380 else task.f 467 464 }
          ∧ TakesRoots l die rest s2 m t))

/-- `k` is the best cluster for a unit among those of `p` (R360): the highest score, then the smallest predicted difference of
its series pair, then the lowest number. -/
def Best (s : State) (u : UnitSpec) (p : Nat → Prop) (k : Nat) : Prop :=
  let cost := u.size * (s.ctx u.ctx).cost u.ecls
  p k ∧ ∀ h, p h → s.score h u.ctx u.ranges ≤ s.score k u.ctx u.ranges
    ∧ (s.score h u.ctx u.ranges = s.score k u.ctx u.ranges → s.pairDiff k cost ≤ s.pairDiff h cost
      ∧ (s.pairDiff h cost = s.pairDiff k cost → k ≤ h))

/-- Crew `cid` of a unit starts on a cluster (R16, R21, R22): the crew with its barriers at their reset values, and its groups
on the cluster's cores, at the unit's entry with every lane active; no core takes more than 16 groups. -/
def Started (s t : State) (k cid : Nat) (u : UnitSpec) (versioned : Bool) (role : Role) : Prop :=
  ∃ base gs, t.crews = s.crews ++ [Crew.start cid k base u versioned role] ∧ t.groups = s.groups ++ gs
    ∧ gs.length = u.size
    ∧ (∀ i g, gs[i]? = some g → g.core / 4 = k ∧ g = Group.start g.gid cid i g.core u)
    ∧ (∀ c, t.coreGroups c ≤ max 16 (s.coreGroups c))
    ∧ (versioned = true → Version.empty cid (sliceOfCluster k) ∈ t.versions)

/-! ### Frames -/

/-- A split without what YIELD notes down for it. -/
def plainSplit (p : Split) : Split := { p with yieldTo := [] }

/-- A group without what YIELD notes down for its splits. -/
def plainGroup (g : Group) : Group := { g with splits := g.splits.map plainSplit }

/-- A split without its place in the program, its lanes and what YIELD notes down. -/
def placelessSplit (p : Split) : Split :=
  { p with pc := 0, cl := none, widx := 0, entry := 0, rep := Rep.idle, yieldTo := [], exec := 0 }

/-- A group without its registers and splits. -/
def bareGroup (g : Group) : Group := { g with v := [], sr := [], splits := [] }

/-- Everything outside the groups is as before: every byte of memory, the caches and directory, every context, engine,
crew, operation and register of the device. -/
def OutsideKept (s t : State) : Prop := { t with groups := [] } = { s with groups := [] }

/-- Every other group is as before. -/
def OthersKept (s t : State) (gid : Nat) : Prop :=
  ∀ h, h ≠ gid → (t.group? h).map plainGroup = (s.group? h).map plainGroup

/-- From `s` to `t` the issuer's group has become `g` with the issuing split `p`, and the only registers changed are the
v-registers and lanes of `vd` and the s-registers of `sd` (s124 to s126 are the split's EXEC): everything outside the groups,
every other group, every other split, and the group's and the split's other fields but for its place in the program are as
before. -/
structure OnlyRegs (s t : State) (k : Issuer) (g : Group) (p : Split) (vd : Nat → Nat → Prop) (sd : Nat → Prop) : Prop where
  outside : OutsideKept s t
  others : OthersKept s t k.g.gid
  group : t.group? k.g.gid = some g
  split : g.split? k.p.num = some p
  bare : bareGroup g = bareGroup k.g
  splits : ∀ n, n ≠ k.p.num → (g.split? n).map plainSplit = (k.g.split? n).map plainSplit
  place : placelessSplit p = placelessSplit k.p
  vregs : ∀ r l, l < 96 → ¬ vd r l → g.rdV r l = k.g.rdV r l
  sregs : ∀ r, ¬ sd r → g.rdS p r = k.g.rdS k.p r

/-- An instruction answers a next state that is `s'` with the issuer `k'` (the state and the issuer before it, with the
changes that a statement names), but for the registers `vd` and `sd` and the split's place; the group and the split then
satisfy `post`. -/
def Answers (i : Instr) (s s' : State) (k' : Issuer) (vd : Nat → Nat → Prop) (sd : Nat → Prop) (post : Group → Split → Prop) :
    Prop :=
  ∃ t g p, exec i s = .next t ∧ OnlyRegs s' t k' g p vd sd ∧ post g p

/-- Nothing: no v-register, no s-register. -/
def noV : Nat → Nat → Prop := fun _ _ => False
def noS : Nat → Prop := fun _ => False

/-- A split at a clause boundary, to go on with the clause at `pc`. -/
def StandsAt (p : Split) (pc : DWord) : Prop :=
  p.pc = pc ∧ p.cl = none ∧ p.widx = 0 ∧ p.entry = 0 ∧ p.rep = Rep.idle

/-- The instruction changes nothing but its split's place. -/
def OnlyMoves (i : Instr) (s : State) (k : Issuer) : Prop := Answers i s s k noV noS fun _ _ => True

/-- The instruction transfers control: the split stands at the clause `pc`, and nothing else changes. -/
def Transfers (i : Instr) (s : State) (k : Issuer) (pc : DWord) : Prop :=
  Answers i s s k noV noS fun _ p => StandsAt p pc

/-- The issuer with its split, or its group, replaced. -/
def withSplit (k : Issuer) (p : Split) : Issuer := { k with p }
def withGroup (k : Issuer) (g : Group) : Issuer := { k with g }

/-- The group of the issuer with another split or group in its place. -/
def splitPut (s : State) (k : Issuer) (p : Split) : State := s.setGroup (k.g.setSplit p)

/-- What an s-register holds after `w` is written to it: a write of s124 to s126 is ANDed with MEMB (R113). -/
def sWritten (k : Issuer) (r : Nat) (w : Word) : Word :=
  if 124 ≤ r ∧ r ≤ 126 then w &&& Mask.word k.p.memb (r - 124) else w

/-- A format-A instruction writes `f l` to D in every active lane `l`, or `f 0` to the s-register D in scalar form, and
nothing else. -/
def LaneResult (i : Instr) (o : OpA) (s : State) (k : Issuer) (f : Nat → Word) : Prop :=
  ∃ t g p, exec i s = .next t
    ∧ OnlyRegs s t k g p (fun r l => o.s = false ∧ r = o.d ∧ l ∈ k.lanes) (fun r => o.s = true ∧ r = o.d)
    ∧ (o.s = false → ∀ l ∈ k.lanes, g.rdV o.d l = f l)
    ∧ (o.s = true → g.rdS p o.d = sWritten k o.d (f 0))

/-- A format-A instruction writes the 64-bit value `f l` to D:D+1 in every active lane `l`, or `f 0` to the s-register pair
in scalar form, and nothing else. -/
def LanePair (i : Instr) (o : OpA) (s : State) (k : Issuer) (f : Nat → DWord) : Prop :=
  ∃ t g p, exec i s = .next t
    ∧ OnlyRegs s t k g p (fun r l => o.s = false ∧ (r = o.d ∨ r = o.d + 1) ∧ l ∈ k.lanes)
        (fun r => o.s = true ∧ (r = o.d ∨ r = o.d + 1))
    ∧ (o.s = false → ∀ l ∈ k.lanes, g.rdV o.d l = lo32 (f l) ∧ g.rdV (o.d + 1) l = hi32 (f l))
    ∧ (o.s = true → g.rdS p o.d = sWritten k o.d (lo32 (f 0)) ∧ g.rdS p (o.d + 1) = sWritten k (o.d + 1) (hi32 (f 0)))

/-- An instruction writes `f r l` to the v-registers `r` from `d` below `d + n` in every active lane `l`, and nothing
else. -/
def VectorWrites (i : Instr) (s : State) (k : Issuer) (d n : Nat) (f : Nat → Nat → Word) : Prop :=
  ∃ t g p, exec i s = .next t
    ∧ OnlyRegs s t k g p (fun r l => d ≤ r ∧ r < d + n ∧ l ∈ k.lanes) (fun _ => False)
    ∧ ∀ j l, j < n → l ∈ k.lanes → g.rdV (d + j) l = f j l

/-- An instruction writes `f j` to the s-registers `d + j`, `j < n`, and nothing else. -/
def ScalarWrites (i : Instr) (s : State) (k : Issuer) (d n : Nat) (f : Nat → Word) : Prop :=
  ∃ t g p, exec i s = .next t
    ∧ OnlyRegs s t k g p (fun _ _ => False) (fun r => d ≤ r ∧ r < d + n)
    ∧ ∀ j, j < n → g.rdS p (d + j) = sWritten k (d + j) (f j)

/-- A format-A instruction writes words with the property `P` lane by lane, and nothing else. -/
def LaneSuch (i : Instr) (o : OpA) (s : State) (k : Issuer) (P : Nat → Word → Prop) : Prop :=
  ∃ f, LaneResult i o s k f ∧ ∀ l, P l (f l)

/-- COND of Table 05-10 on a 32-bit value. -/
def TEST (cond : Nat) (w : Word) : Bool := match cond with
  | 0 => w != 0
  | 1 => w == 0
  | 2 => w.msb
  | 3 => !w.msb
  | 4 => !w.msb && w != 0
  | _ => w.msb || w == 0

/-- VAL of a 32-bit operand: unsigned under .n32, else signed. -/
def VAL (o : OpA) (w : Word) : Int := if o.typ = .n32 then (w.toNat : Int) else w.toInt

/-- LO and HI of the operand type. -/
def LO (o : OpA) : Int := if o.typ = .n32 then 0 else -2147483648
def HI (o : OpA) : Int := if o.typ = .n32 then 4294967295 else 2147483647

/-- A word is the exact value `x` in the operand type: wrapped, or under .sat the nearest value of the type. -/
def IsInt (o : OpA) (sat : Bool) (x : Int) (w : Word) : Prop :=
  if sat then VAL o w = min (max x (LO o)) (HI o) else w = BitVec.ofInt 32 x

/-! ### Exact values -/

/-- A finite value as a rational number; 0 for the special values. -/
def RAT : FVal → ℚ
  | .fin neg m e => (if neg then -1 else 1) * (m : ℚ) * (2 : ℚ) ^ e
  | _ => 0

/-- The sign bit of a value. -/
def SIGN : FVal → Bool
  | .fin neg _ _ => neg
  | .inf neg => neg
  | .nan => false

/-- The value is finite. -/
def FINITE : FVal → Prop
  | .fin _ _ _ => True
  | _ => False

/-- `z` is the exact sum of `x` and `y`, with the special values and the sign of an exact zero of R145 and IEEE 754. -/
def IsSum (mode : Rnd) (x y z : FVal) : Prop := match x, y with
  | .nan, _ => z = .nan
  | _, .nan => z = .nan
  | .inf a, .inf b => z = if a = b then .inf a else .nan
  | .inf a, _ => z = .inf a
  | _, .inf b => z = .inf b
  | x, y => FINITE z ∧ RAT z = RAT x + RAT y
      ∧ (RAT z = 0 → SIGN z = if RAT x = 0 ∧ SIGN x = SIGN y then SIGN x else mode == .rd)

/-- `z` is the exact product of `x` and `y`. -/
def IsProduct (x y z : FVal) : Prop := match x, y with
  | .nan, _ => z = .nan
  | _, .nan => z = .nan
  | .inf a, .inf b => z = .inf (a != b)
  | .inf a, y => z = if RAT y = 0 then .nan else .inf (a != SIGN y)
  | x, .inf b => z = if RAT x = 0 then .nan else .inf (SIGN x != b)
  | x, y => FINITE z ∧ RAT z = RAT x * RAT y ∧ SIGN z = (SIGN x != SIGN y)

/-- `x` is below `y`; NaN is below nothing and above nothing. -/
def FLESS (x y : FVal) : Prop := match x, y with
  | .nan, _ => False
  | _, .nan => False
  | .inf a, .inf b => a = true ∧ b = false
  | .inf a, _ => a = true
  | _, .inf b => b = false
  | x, y => RAT x < RAT y

/-- Neither is below the other. -/
def FSAME (x y : FVal) : Prop := x ≠ .nan ∧ y ≠ .nan ∧ ¬ FLESS x y ∧ ¬ FLESS y x

/-- The exact magnitude `r`, in units of the spacing, rounds to `n` units (R146). -/
def ROUNDS (mode : Rnd) (neg : Bool) (r : ℚ) (n : ℤ) : Prop :=
  let lo := ⌊r⌋
  let d := r - lo
  let up : Prop := match mode with
    | .rz => False
    | .rd => neg = true ∧ d ≠ 0
    | .ru => neg = false ∧ d ≠ 0
    | _ => 1 / 2 < d ∨ d = 1 / 2 ∧ lo % 2 = 1
  (up ∧ n = lo + 1) ∨ (¬ up ∧ n = lo)

/-- The same under every mode of R146: under .sr up where F + g reaches 2^16, F the discard field and g the random value. -/
def ROUNDSG (mode : Rnd) (neg : Bool) (r : ℚ) (g : Nat) (n : ℤ) : Prop :=
  if mode = .sr then n = ⌊r⌋ + if 65536 ≤ ⌊(r - ⌊r⌋) * 65536⌋ + (g : ℤ) then 1 else 0 else ROUNDS mode neg r n

/-- Terms of SUMRULE that are finite (R153). -/
def SUMS (ts : List FVal) (w : Nat) : Prop :=
  if ∀ t ∈ ts, RAT t = 0 then w = if ∀ t ∈ ts, SIGN t = true then 2147483648 else 0
  else ∃ emax : ℤ, (∃ t ∈ ts, RAT t ≠ 0 ∧ Int.log 2 |RAT t| = emax) ∧ (∀ t ∈ ts, RAT t ≠ 0 → Int.log 2 |RAT t| ≤ emax)
    ∧ let q : ℚ := 2 ^ (emax - 26)
      let acc : ℤ := (ts.map fun t => if RAT t < 0 then -⌊|RAT t| / q⌋ else ⌊|RAT t| / q⌋).sum
      if acc = 0 then w = 0 else ∃ z, FINITE z ∧ RAT z = acc * q ∧ w = convert z .f32 .rn false 0

/-- `w` is what SUMRULE gives for these terms, the special values included (R153). -/
def SUMRULE (ts : List FVal) (w : Nat) : Prop :=
  if .nan ∈ ts ∨ (.inf true ∈ ts ∧ .inf false ∈ ts) then w = 0x7FC00000
  else if .inf true ∈ ts then w = 0xFF800000
  else if .inf false ∈ ts then w = 0x7F800000
  else SUMS ts w

/-- `z` is x × 2^n. -/
def IsScaled (x : FVal) (n : ℤ) (z : FVal) : Prop := match x with
  | .fin .. => FINITE z ∧ RAT z = RAT x * 2 ^ n ∧ SIGN z = SIGN x
  | y => z = y

/-- The neighbour hash of element `j` in lane `l`; `F` gives the discard fields by lane (R148). -/
def HASH (F : Nat → Nat) (l j : Nat) : Nat :=
  let x := Nat.xor (Nat.xor (F ((l + 95) % 96) * 65536 + F ((l + 1) % 96)) (l * 256)) (j * 16777216)
  let y := x * 0x045D9F3B % 4294967296
  Nat.xor y (y / 65536) % 65536

/-- The discard field of a conversion of `x` to `f` (R146, R148): 0 for a special value, and where the larger candidate lies
beyond the destination's largest magnitude or range. -/
def DISCARD (x : FVal) (f : Fmt) (F : Nat) : Prop :=
  (¬ (FINITE x ∧ RAT x ≠ 0) ∧ F = 0) ∨ (FINITE x ∧ RAT x ≠ 0) ∧
    let q : ℚ := match f with
      | .i8 | .i4 | .i32 | .n32 => 1
      | _ => 2 ^ max (Int.log 2 |RAT x| - f.frac) (1 - f.bias - f.frac)
    let lo : ℤ := ⌊|RAT x| / q⌋
    let beyond : Prop := match f with
      | .i8 => if SIGN x then 128 ≤ lo else 127 ≤ lo
      | .i4 => if SIGN x then 8 ≤ lo else 7 ≤ lo
      | .i32 => if SIGN x then 2147483648 ≤ lo else 2147483647 ≤ lo
      | .n32 => SIGN x = true ∨ 4294967295 ≤ lo
      | _ => RAT (f.decode f.maxEnc) < (lo + 1) * q
    (beyond ∧ F = 0) ∨ (¬ beyond ∧ (F : ℤ) = ⌊(|RAT x| / q - lo) * 65536⌋)

end Sys2Proof
end

