-- ==== Sys2Proof/Certificates/Slice0/Obligations.lean ====
section
/-! DEFINITION. The statements for the provers: `Obligations` are the statements, `Says` the parts of some of them. -/

open Sys2Proof Sys2Proof.Machine
/-- R124, Table 05-7: the integer arithmetic of every lane, or of the scalar form, with its frame; a type that an entry does not
accept traps with cause 0x01, and a suffix that it does not list with cause 0x02. -/
def Obligations.IntegerArithmetic : Prop := ∀ (s : State) (k : Issuer) (o : OpA),
  let a l := VAL o (k.src o o.a l)
  let b l := VAL o (k.src o o.b l)
  let c l := VAL o (k.src o o.c l)
  let sat := o.sub.getLsbD 0
  (Accepted (.iadd o) s k → LaneSuch (.iadd o) o s k fun l => IsInt o sat (a l + b l))
  ∧ (Accepted (.isub o) s k → LaneSuch (.isub o) o s k fun l => IsInt o sat (a l - b l))
  ∧ (Accepted (.imul o) s k → LaneSuch (.imul o) o s k fun l => IsInt o sat (a l * b l))
  ∧ (Accepted (.imulh o) s k → LaneSuch (.imulh o) o s k fun l => IsInt o false (a l * b l / 4294967296))
  ∧ (Accepted (.imad o) s k → LaneSuch (.imad o) o s k fun l => IsInt o sat (a l * b l + c l))
  ∧ (Accepted (.imin o) s k → LaneSuch (.imin o) o s k fun l w => VAL o w = min (a l) (b l))
  ∧ (Accepted (.imax o) s k → LaneSuch (.imax o) o s k fun l w => VAL o w = max (a l) (b l))
  ∧ (Accepted (.iabs o) s k → LaneSuch (.iabs o) o s k fun l => IsInt o sat |a l|)
  ∧ (Accepted (.ineg o) s k → LaneSuch (.ineg o) o s k fun l => IsInt o sat (-a l))
  ∧ (Accepted (.iaddc o) s k → LaneSuch (.iaddc o) o s k fun l w =>
      let x := (k.src o o.a l).toNat + (k.src o o.b l).toNat + (k.src o o.c l).toNat % 2
      w.toNat = if sat then x / 4294967296 else x % 4294967296)
  ∧ ∀ (i : OpA → Instr) (types : List Ty) (last : Nat),
    (i, types, last) ∈ [(Instr.iadd, [.i32, .n32], 1), (.isub, [.i32, .n32], 1), (.imul, [.i32, .n32], 1), (.imulh, [.i32, .n32], 0),
      (.imad, [.i32, .n32], 1), (.imin, [.i32, .n32], 0), (.imax, [.i32, .n32], 0), (.iabs, [.i32], 1), (.ineg, [.i32], 1),
      (.iaddc, [.n32], 1)] → s.issuer = some k →
    (o.typ.isRsv = false → o.typ ∉ .dflt :: types → Traps (i o) s k s { cause := 0x01 })
    ∧ (encCheck (i { o with sub := 0 }) = none → last < o.sub.toNat → Traps (i o) s k s { cause := 0x02 })

/-- R125, R126, Table 05-8: comparison, selection, shifts and logic; a type or a code that an entry does not accept traps. -/
def Obligations.ComparisonShiftLogic : Prop := ∀ (s : State) (k : Issuer) (o : OpA),
  let a := k.src o o.a
  let b := k.src o o.b
  let n l := (k.src o o.b l).toNat % 256
  (Accepted (.icmp o) s k → LaneSuch (.icmp o) o s k fun l w => w = 1 ∧
      (match o.sub.toNat with
        | 0 => VAL o (a l) = VAL o (b l) | 1 => VAL o (a l) ≠ VAL o (b l) | 2 => VAL o (a l) < VAL o (b l)
        | 3 => VAL o (a l) ≤ VAL o (b l) | 4 => VAL o (b l) < VAL o (a l) | _ => VAL o (b l) ≤ VAL o (a l))
    ∨ w = 0 ∧
      ¬(match o.sub.toNat with
        | 0 => VAL o (a l) = VAL o (b l) | 1 => VAL o (a l) ≠ VAL o (b l) | 2 => VAL o (a l) < VAL o (b l)
        | 3 => VAL o (a l) ≤ VAL o (b l) | 4 => VAL o (b l) < VAL o (a l) | _ => VAL o (b l) ≤ VAL o (a l)))
  ∧ (Accepted (.sel o) s k → LaneSuch (.sel o) o s k fun l w => w = if k.src o o.c l = 0 then b l else a l)
  ∧ (Accepted (.shl o) s k → LaneSuch (.shl o) o s k fun l w => ∀ j < 32,
      w.getLsbD j = (decide (n l ≤ j) && (a l).getLsbD (j - n l)))
  ∧ (Accepted (.shr o) s k → LaneSuch (.shr o) o s k fun l w => ∀ j < 32, w.getLsbD j = (a l).getLsbD (j + n l))
  ∧ (Accepted (.sar o) s k → LaneSuch (.sar o) o s k fun l w => ∀ j < 32,
      w.getLsbD j = (a l).getLsbD (min (j + n l) 31))
  ∧ (Accepted (.rol o) s k → LaneSuch (.rol o) o s k fun l w => ∀ j < 32,
      w.getLsbD ((j + n l) % 32) = (a l).getLsbD j)
  ∧ (Accepted (.and o) s k → LaneSuch (.and o) o s k fun l w => ∀ j < 32,
      w.getLsbD j = ((a l).getLsbD j && (b l).getLsbD j))
  ∧ (Accepted (.or o) s k → LaneSuch (.or o) o s k fun l w => ∀ j < 32,
      w.getLsbD j = ((a l).getLsbD j || (b l).getLsbD j))
  ∧ (Accepted (.xor o) s k → LaneSuch (.xor o) o s k fun l w => ∀ j < 32,
      w.getLsbD j = ((a l).getLsbD j != (b l).getLsbD j))
  ∧ (Accepted (.not o) s k → LaneSuch (.not o) o s k fun l w => ∀ j < 32, w.getLsbD j = !(a l).getLsbD j)
  ∧ (Accepted (.andn o) s k → LaneSuch (.andn o) o s k fun l w => ∀ j < 32,
      w.getLsbD j = ((a l).getLsbD j && !(b l).getLsbD j))
  ∧ ∀ (i : OpA → Instr) (types : List Ty) (last : Nat),
    (i, types, last) ∈ [(Instr.icmp, [.i32, .n32], 5), (.sel, [.b32], 0), (.shl, [.b32], 0), (.shr, [.b32], 0), (.sar, [.b32], 0),
      (.rol, [.b32], 0), (.and, [.b32], 0), (.or, [.b32], 0), (.xor, [.b32], 0), (.not, [.b32], 0), (.andn, [.b32], 0)] →
    s.issuer = some k →
    (o.typ.isRsv = false → o.typ ∉ .dflt :: types → Traps (i o) s k s { cause := 0x01 })
    ∧ (encCheck (i { o with sub := 0 }) = none → last < o.sub.toNat → Traps (i o) s k s { cause := 0x02 })

/-- R127, R128, R129: bit fields and counts, addresses on register pairs, and moves. -/
def Says.FieldsAddressesMoves : Prop := ∀ (s : State) (k : Issuer) (o : OpA),
  let a := k.src o o.a
  let b := k.src o o.b
  let c := k.src o o.c
  (Accepted (.bfx o) s k → LaneSuch (.bfx o) o s k fun l w =>
      let p := (b l).toNat % 32
      let n := min ((c l).toNat % 64) 32
      ∀ j < 32, w.getLsbD j = if j < n then (a l).getLsbD (p + j)
        else o.typ == .i32 && decide (0 < n) && (a l).getLsbD (p + n - 1))
  ∧ (Accepted (.bfi o) s k → LaneSuch (.bfi o) o s k fun l w =>
      let p := (c l).toNat % 32
      let n := min ((c l).toNat / 256 % 64) 32
      ∀ j < 32, w.getLsbD j = if p ≤ j ∧ j < p + n then (b l).getLsbD (j - p) else (a l).getLsbD j)
  ∧ (Accepted (.popc o) s k → LaneSuch (.popc o) o s k fun l w =>
      w.toNat = ((List.range 32).filter fun j => (a l).getLsbD j).length)
  ∧ (Accepted (.clz o) s k → LaneSuch (.clz o) o s k fun l w =>
      w.toNat ≤ 32 ∧ (∀ j, 32 - w.toNat ≤ j → (a l).getLsbD j = false) ∧ (w.toNat < 32 → (a l).getLsbD (31 - w.toNat)))
  ∧ (Accepted (.brev o) s k → LaneSuch (.brev o) o s k fun l w => ∀ j < 32, w.getLsbD (31 - j) = (a l).getLsbD j)
  ∧ (Accepted (.lea o) s k → LanePair (.lea o) o s k fun l =>
      k.src64 o o.a l + BitVec.ofInt 64 (VAL o (b l) * (if o.sub.getLsbD 5 then 3 else 1) * 2 ^ (o.sub.toNat % 32)))
  ∧ (Accepted (.add64 o) s k → LanePair (.add64 o) o s k fun l => k.src64 o o.a l + k.src64 o o.b l)
  ∧ (Accepted (.mov o) s k → if o.typ = .b64 then LanePair (.mov o) o s k (k.src64 o o.a)
      else LaneResult (.mov o) o s k a)
  ∧ (Accepted (.movi o) s k → if o.typ = .b64 then LanePair (.movi o) o s k (k.src64 o o.a)
      else LaneResult (.movi o) o s k a)
  ∧ (Accepted (.movs o) s k → LaneSuch (.movs o) o s k fun l w =>
      (o.typ = .i16 ∨ o.typ = .dflt → w = ((a l).truncate 16).signExtend 32)
      ∧ (o.typ = .i8 → w = ((a l).truncate 8).signExtend 32)
      ∧ (o.typ = .n16 → w = ((a l).truncate 16).zeroExtend 32)
      ∧ (o.typ = .n8 → w = ((a l).truncate 8).zeroExtend 32))

/-- R130, R131, R132: the instructions that read other lanes. -/
def Says.CrossLane : Prop := ∀ (s : State) (k : Issuer) (o : OpA),
  let v l := k.g.rdV o.areg l
  let b := k.src o o.b
  (Accepted (.lperm o) s k → VectorWrites (.lperm o) s k o.d 1 fun _ l => v ((b l).toNat % 96))
  ∧ (Accepted (.lbcast o) s k → VectorWrites (.lbcast o) s k o.d 1 fun _ l => v ((b l).toNat % 96))
  ∧ (Accepted (.lpush o) s k → ∃ f, VectorWrites (.lpush o) s k o.d 1 (fun _ => f) ∧ ∀ l ∈ k.lanes,
      (∃ m ∈ k.lanes, (b m).toNat % 96 = l ∧ f l = v m ∧ ∀ m' ∈ k.lanes, (b m').toNat % 96 = l → m' ≤ m)
      ∨ (∀ m ∈ k.lanes, (b m).toNat % 96 ≠ l) ∧ f l = k.g.rdV o.d l)
  ∧ (Accepted (.lshfl o) s k → VectorWrites (.lshfl o) s k o.d 1 fun _ l =>
      let d := (b l).toNat % 128
      v (match o.sub.toNat with
        | 0 => if d ≤ l then l - d else l
        | 1 => if l + d < 96 then l + d else l
        | 2 => if l ^^^ d < 96 then l ^^^ d else l
        | _ => (l + d) % 96))
  ∧ (Accepted (.lscan o) s k → VectorWrites (.lscan o) s k o.d 1 fun _ l =>
      combine o k (k.lanes.filter fun m => decide (m < l) || (decide (m = l) && !o.sub.getLsbD 3)))
  ∧ (Accepted (.lred o) s k → VectorWrites (.lred o) s k o.d 1 fun _ _ => combine o k k.lanes)
  ∧ (Accepted (.lvote o) s k → match o.sub.toNat with
      | 0 => ScalarWrites (.lvote o) s k o.d 1 fun _ => if ∃ l ∈ k.lanes, v l ≠ 0 then 1 else 0
      | 1 => ScalarWrites (.lvote o) s k o.d 1 fun _ => if ∀ l ∈ k.lanes, v l ≠ 0 then 1 else 0
      | _ => ∃ f, ScalarWrites (.lvote o) s k o.d 3 f ∧ ∀ j < 3, ∀ b < 32,
          (f j).getLsbD b = decide (32 * j + b ∈ k.lanes ∧ v (32 * j + b) ≠ 0))
  ∧ (Accepted (.firstlane o) s k → ScalarWrites (.firstlane o) s k o.d 1 fun _ => match k.lanes with
      | [] => if o.sub.getLsbD 0 then 4294967295 else 0
      | l :: _ => if o.sub.getLsbD 0 then BitVec.ofNat 32 l else v l)
  ∧ (∀ ls l, combine o k (ls ++ [l]) = match o.sub.toNat % 8 with
      | 0 => combine o k ls + v l
      | 1 => if VAL o (v l) < VAL o (combine o k ls) then v l else combine o k ls
      | 2 => if VAL o (combine o k ls) < VAL o (v l) then v l else combine o k ls
      | 3 => combine o k ls &&& v l
      | 4 => combine o k ls ||| v l
      | _ => combine o k ls ^^^ v l)
  ∧ (match o.sub.toNat % 8 with
      | 1 => VAL o (combine o k []) = HI o
      | 2 => VAL o (combine o k []) = LO o
      | 3 => combine o k [] = 4294967295
      | _ => combine o k [] = 0)

/-- R133, R97: BRA, the uniform BRC, CALL, RET, JMPI and SPLITSYNC. H is the clause's address, and `LEN` its length. -/
def Says.Branches : Prop := ∀ (s : State) (k : Issuer) (o : OpB) (c : Clause), k.p.cl = some c →
  let target := k.p.pc + BitVec.signExtend 64 o.disp * 8
  let next := k.p.pc + BitVec.ofNat 64 (8 * (c.words.length + 1))
  let pair := k.s (o.reg + 1) ++ k.s o.reg
  let jump (i : Instr) (pc : DWord) : Prop :=
    if pc.toNat % 8 = 0 then Transfers i s k pc else Traps i s k s { cause := 0x04, taddr := pc }
  (Accepted (.bra o) s k → jump (.bra o) target)
  ∧ (Accepted (.brc o) s k → o.rk = true → jump (.brc o) (if TEST o.cond (k.s o.reg) then target else next))
  ∧ (Accepted (.call o) s k → target.toNat % 8 = 0 →
      Answers (.call o) s s k noV (fun r => r = o.reg ∨ r = o.reg + 1) fun g p => StandsAt p target
        ∧ g.rdS p o.reg = sWritten k o.reg (BitVec.ofNat 32 next.toNat)
        ∧ g.rdS p (o.reg + 1) = sWritten k (o.reg + 1) (BitVec.ofNat 32 (next.toNat / 4294967296)))
  ∧ (Accepted (.ret o) s k → jump (.ret o) pair)
  ∧ (Accepted (.jmpi o) s k → jump (.jmpi o) (pair + BitVec.signExtend 64 o.disp * 8))
  ∧ (Accepted (.splitsync o) s k → Answers (.splitsync o) s s (withSplit k { k.p with jpc := some target }) noV noS
      fun _ p => StandsAt p next)

/-- R116, R117, R118, R19: a BRC on a v-register. T holds the active lanes whose condition holds. -/
def Says.Divergence : Prop := ∀ (s : State) (k : Issuer) (o : OpB) (c : Clause), k.p.cl = some c →
  Accepted (.brc o) s k → o.rk = false →
  let target := k.p.pc + BitVec.signExtend 64 o.disp * 8
  let next := k.p.pc + BitVec.ofNat 64 (8 * (c.words.length + 1))
  let T := k.lanes.filter fun l => TEST o.cond (k.g.rdV o.reg l)
  let m := maskOf T
  (∀ l < 96, m.getLsbD l = decide (l ∈ T))
  ∧ (T = [] → next.toNat % 8 = 0 → Transfers (.brc o) s k next)
  ∧ (T ≠ [] → T = k.lanes → target.toNat % 8 = 0 → Transfers (.brc o) s k target)
  ∧ (T ≠ [] → T ≠ k.lanes → k.g.splits.length < 4 → ∃ t g n p q, exec (.brc o) s = .next t
      ∧ { t with groups := [], ops := [] } = { s with groups := [], ops := [] } ∧ OthersKept s t k.g.gid
      ∧ t.group? k.g.gid = some g ∧ bareGroup g = bareGroup k.g ∧ g.v = k.g.v ∧ g.sr = k.g.sr
      ∧ n < 4 ∧ k.g.split? n = none ∧ (∀ j < n, k.g.split? j ≠ none)
      ∧ g.split? n = some q ∧ StandsAt q target ∧ q.memb = m ∧ q.exec = m ∧ q.jpc = k.p.jpc
      ∧ q.stack = k.p.stack.map (fun e => { e with exec := e.exec &&& m })
      ∧ g.split? k.p.num = some p ∧ StandsAt p next ∧ p.memb = k.p.memb &&& ~~~m ∧ p.exec = k.p.exec &&& ~~~m
      ∧ p.jpc = k.p.jpc ∧ p.stack = k.p.stack.map (fun e => { e with exec := e.exec &&& ~~~m })
      ∧ (∀ j, j ≠ n → j ≠ k.p.num → (g.split? j).map plainSplit = (k.g.split? j).map plainSplit)
      ∧ ∀ f, (∀ x ∈ s.ops, (n, f) ∉ x.charges) → t.flagCount k.g.gid n f = s.flagCount k.g.gid k.p.num f
        ∧ t.flagCount k.g.gid k.p.num f = s.flagCount k.g.gid k.p.num f)
  ∧ (T ≠ [] → T ≠ k.lanes → ¬ k.g.splits.length < 4 → k.p.stack.length ≤ 14 →
      let join := match k.p.jpc with
        | some j => j
        | none => target
      Answers (.brc o) s s (withSplit k { k.p with
          jpc := none
          stack := { exec := k.p.exec &&& ~~~m, join := join, pc := next } :: { exec := k.p.exec, join := join, pc := join }
            :: k.p.stack }) noV (fun r => 124 ≤ r ∧ r ≤ 126) fun _ p => StandsAt p target ∧ p.exec = m)
  ∧ (T ≠ [] → T ≠ k.lanes → ¬ k.g.splits.length < 4 → 14 < k.p.stack.length → Traps (.brc o) s k s { cause := 0x12 })

/-- R134, R89, R232: EXIT, NOP and YIELD. No other split waits any longer for one that gives way (log 120). A split that ends with
an operation outstanding that may trap is retained, and one that owes a trap takes it, with the EXIT as its return point. -/
def Says.ExitNopYield : Prop := ∀ (s : State) (k : Issuer) (o : OpE),
  let q : Split := { k.p with
    memb := k.p.memb &&& ~~~k.p.exec, exec := 0
    stack := k.p.stack.map fun e => { e with exec := e.exec &&& ~~~k.p.exec } }
  (Accepted (.nop o) s k → OnlyMoves (.nop o) s k)
  ∧ (Accepted (.yield o) s k → ∃ g', (s.advance k.g.gid k.p.num).group? k.g.gid = some g' ∧ Answers (.yield o) s s k noV noS
      fun _ p => p.yieldTo = (s.advance k.g.gid k.p.num).rivals g' k.p.num)
  ∧ (Accepted (.yield o) s k → ∀ t, exec (.yield o) s = .next t → ∀ h ∈ t.groups, ∀ q ∈ h.splits,
      (h.gid ≠ k.g.gid ∨ q.num ≠ k.p.num) → (k.g.gid, k.p.num) ∉ q.yieldTo)
  ∧ (Accepted (.exit o) s k → ∀ l e l', q.stack = l ++ e :: l' → q.memb ≠ 0 → e.exec &&& q.memb ≠ 0 →
      (∀ x ∈ l, x.exec &&& q.memb = 0) →
      Answers (.exit o) s s (withSplit k { q with stack := l' }) noV (fun r => 124 ≤ r ∧ r ≤ 126)
        fun _ p => StandsAt p e.pc ∧ p.exec = e.exec &&& q.memb)
  ∧ (Accepted (.exit o) s k → q.memb = 0 ∨ (∀ e ∈ q.stack, e.exec &&& q.memb = 0) →
      s.mayTrap k.g.gid k.p.num = true → (∀ p ∈ k.g.splits, p.hold ≠ .gbar) →
      exec (.exit o) s = .next (s.setGroup ({ k.g with lastExit := k.p.pc }.setSplit { k.p with
        retained := some (k.p.memb, k.p.exec, k.p.pc, k.p.widx), memb := 0, exec := 0, cl := none, widx := 0, entry := 0
        stack := [], rep := Rep.idle, jpc := none })))
  ∧ (Accepted (.exit o) s k → q.memb = 0 ∨ (∀ e ∈ q.stack, e.exec &&& q.memb = 0) → ∀ t l, k.p.owed = t :: l → t.cause ≠ 0x07 →
      s.mayTrap k.g.gid k.p.num = false → (∀ p ∈ k.g.splits, p.hold ≠ .gbar) →
      exec (.exit o) s = .next (State.trapEntry (s.setGroup ({ k.g with lastExit := k.p.pc }.setSplit { k.p with
        cl := none, widx := 0, entry := k.p.widx, stack := [], rep := Rep.idle, jpc := none, owed := l, retained := none }))
        k.g.gid k.p.num t k.p.pc k.p.widx false))
  ∧ (Accepted (.exit o) s k → q.memb = 0 ∨ (∀ e ∈ q.stack, e.exec &&& q.memb = 0) → k.p.owed = [] →
      s.mayTrap k.g.gid k.p.num = false → (∀ p ∈ k.g.splits, p.hold ≠ .gbar) →
      ∃ t g, exec (.exit o) s = .next t ∧ OthersKept s t k.g.gid ∧ t.group? k.g.gid = some g
        ∧ bareGroup g = bareGroup { k.g with lastExit := k.p.pc } ∧ g.v = k.g.v ∧ g.sr = k.g.sr
        ∧ { t with groups := [], ops := [], nextId := 0 } = { s with groups := [], ops := [], nextId := 0 }
        ∧ g.split? k.p.num = none ∧ ∀ n, n ≠ k.p.num → g.split? n = k.g.split? n)

/-- R99, R135: REP, the words it may precede, and what it leaves for the word that follows; and R85, R100: how a split
moves past a word. -/
def Says.RepeatAndAdvance : Prop := ∀ (s : State) (k : Issuer) (c : Clause), k.p.cl = some c →
  let w := nth 0 c.words k.p.widx
  let op := w.toNat / 72057594037927936
  let may := op ≤ 0x26 ∨ op = 0x2F ∨ (0x40 ≤ op ∧ op ≤ 0x5F) ∨ (0x70 ≤ op ∧ op ≤ 0x7B) ∨ (0xA0 ≤ op ∧ op ≤ 0xAA)
    ∨ (0xB0 ≤ op ∧ op ≤ 0xB8) ∨ (0xC0 ≤ op ∧ op ≤ 0xC9) ∨ op = 0xD0 ∨ op = 0xD1 ∨ op = 0xE0 ∨ op = 0xE1
  (∀ o, Accepted (.rep o) s k → ¬ may → Traps (.rep o) s k s { cause := 0x01 })
  ∧ (∀ o, Accepted (.rep o) s k → may → stepBad o.step w (nth 0 c.words (k.p.widx + 1)) = true →
      Traps (.rep o) s k s { cause := 0x02 })
  ∧ (∀ o, Accepted (.rep o) s k → may → stepBad o.step w (nth 0 c.words (k.p.widx + 1)) = false →
      Answers (.rep o) s s k noV noS fun _ p => p.widx = k.p.widx + 1 ∧ p.pc = k.p.pc ∧ p.cl = some c ∧
        p.rep = { act := true, step := o.step.toNat, next := 0, remain := (o.n + 1) % 64 })
  ∧ (s.issuer = some k →
      let lit := carriesLit (nth 0 c.words (k.p.widx - 1))
      let w' := if lit then k.p.widx + 2 else k.p.widx + 1
      ∃ g p, OnlyRegs s (s.advance k.g.gid k.p.num) k g p noV noS
        ∧ (k.p.rep.act = true → k.p.rep.remain < 64 → k.p.rep.remain ≠ 1 →
            p = { k.p with rep := { k.p.rep with
              next := k.p.rep.next + 1, remain := if k.p.rep.remain = 0 then 63 else k.p.rep.remain - 1 } })
        ∧ (k.p.rep.act = false ∨ k.p.rep.remain = 1 → w' ≤ c.words.length →
            p = { k.p with widx := w', rep := Rep.idle })
        ∧ (k.p.rep.act = false ∨ k.p.rep.remain = 1 → c.words.length < w' →
            StandsAt p (k.p.pc + BitVec.ofNat 64 (8 * (c.words.length + 1)))))

/-- R121, R122, R137, R138: growing and shrinking the register count; a REGSHRINK that waits keeps the `m` that it has read. -/
def Says.RegisterGrowth : Prop := ∀ (s : State) (k : Issuer) (o : OpA),
  let n := (k.con o).toNat
  let ok := n % 16 = 0 ∧ 16 ≤ n ∧ n ≤ 496
  let free := 1536 - (s.groups.map fun g => if g.core = k.g.core ∧ !g.retired then g.count else 0).sum
  let m := match k.p.hold with
    | .shrink n => n
    | _ => n
  let fits := m % 16 = 0 ∧ 16 ≤ m ∧ m ≤ 496
  (Accepted (.reggrow o) s k → ¬ ok → Traps (.reggrow o) s k s { cause := 0x01 })
  ∧ (Accepted (.reggrow o) s k → ok → 512 < k.g.count + n → ScalarWrites (.reggrow o) s k o.d 1 fun _ => 0)
  ∧ (Accepted (.reggrow o) s k → ok → k.g.count + n ≤ 512 → n ≤ free →
      (∀ r ∈ s.growReqs k.g.core, keyLt r.key (s.ageKey k.g ++ [s.nextId]) = false) →
      Answers (.reggrow o) s s (withSplit (withGroup k { k.g with count := k.g.count + n }) { k.p with hold := .none })
        (fun r _ => k.g.count ≤ r) (fun r => r = o.d) fun g p =>
        g.rdS p o.d = sWritten k o.d 1 ∧ ∀ r l, l < 96 → k.g.count ≤ r → g.rdV r l = 0)
  ∧ (Accepted (.reggrow o) s k → ok → k.g.count + n ≤ 512 →
      free < n ∨ (∃ r ∈ s.growReqs k.g.core, keyLt r.key (s.ageKey k.g ++ [s.nextId]) = true) →
      Answers (.reggrow o) s { s with nextId := s.nextId + 1 } (withSplit k { k.p with hold := .grow n o.d s.nextId }) noV noS
        fun _ p => p.pc = k.p.pc ∧ p.cl = k.p.cl ∧ p.widx = k.p.widx)
  ∧ (Accepted (.regshrink o) s k → ¬ fits ∨ k.g.count < m + 16 → Traps (.regshrink o) s k s { cause := 0x01 })
  ∧ (Accepted (.regshrink o) s k → fits → m + 16 ≤ k.g.count →
      (∃ x ∈ s.ops, x.gid = k.g.gid ∧ k.g.count - m < s.opTop k.g.core k.g.count x) →
      Holds (.regshrink o) s (splitPut s k { k.p with hold := .shrink m }))
  ∧ (Accepted (.regshrink o) s k → fits → m + 16 ≤ k.g.count →
      (∀ x ∈ s.ops, x.gid = k.g.gid → s.opTop k.g.core k.g.count x ≤ k.g.count - m) →
      Answers (.regshrink o) s s (withSplit (withGroup k { k.g with count := k.g.count - m }) { k.p with hold := .none })
        (fun r _ => k.g.count - m ≤ r) noS fun _ _ => True)
  ∧ (∀ r core, oldest (s.growReqs core) = some r → r.gid = k.g.gid → r.split = k.p.num →
      s.group? k.g.gid = some k.g → k.g.split? k.p.num = some k.p →
      r.n ≤ 1536 - (s.groups.map fun g => if g.core = core ∧ !g.retired then g.count else 0).sum →
      (512 < k.g.count + r.n → Answers (.reggrowGrant core) s s (withSplit k { k.p with hold := .none }) noV
        (fun x => x = r.d) fun g p => g.rdS p r.d = sWritten k r.d 0)
      ∧ (k.g.count + r.n ≤ 512 → Answers (.reggrowGrant core) s s
          (withSplit (withGroup k { k.g with count := k.g.count + r.n }) { k.p with hold := .none })
          (fun x _ => k.g.count ≤ x) (fun x => x = r.d) fun g p =>
          g.rdS p r.d = sWritten k r.d 1 ∧ ∀ x l, l < 96 → k.g.count ≤ x → g.rdV x l = 0))
  ∧ (∀ core, (oldest (s.growReqs core) = none → exec (.reggrowGrant core) s = .next s)
      ∧ (∀ r, oldest (s.growReqs core) = some r →
        1536 - (s.groups.map fun g => if g.core = core ∧ !g.retired then g.count else 0).sum < r.n →
        exec (.reggrowGrant core) s = .next s))
  ∧ (∀ core r, s.growReqs core = [r] → r.gid = k.g.gid → r.split = k.p.num → k.g.core = core → k.g.retired = false →
      s.groups.filter (fun g => g.core == core && !g.retired) = [k.g] → s.growBlocked k.g = true →
      s.group? k.g.gid = some k.g → k.g.split? k.p.num = some k.p → 1536 - k.g.count < r.n →
      Answers (.reggrowDeny core) s s (withSplit k { k.p with hold := .none }) noV (fun x => x = r.d)
        fun g p => g.rdS p r.d = sWritten k r.d 0)
  ∧ (∀ core, (∃ g ∈ s.groups, g.core = core ∧ g.retired = false ∧ s.growBlocked g = false) →
      exec (.reggrowDeny core) s = .next s)

/-- R139, R140, R141, R378: what SREAD reads, number by number. -/
def Says.SpecialRegisterReads : Prop := ∀ (s : State) (k : Issuer) (o : OpA), Accepted (.sread o) s k →
  let n := o.sub.toNat
  let time := (s.cluster k.c.cluster).time
  let ctx := s.ctx k.c.ctx
  let b (x : Nat) : Word := BitVec.ofNat 32 x
  let reads (k' : Issuer) (w : Word) := Answers (.sread o) s s k' noV (fun r => r = o.d) fun g p =>
    g.rdS p o.d = sWritten k o.d w
  let at_ (x : Nat) (w : Word) : Prop := n = x → reads k w
  (n = 0x00 → VectorWrites (.sread o) s k o.d 1 fun _ l => b l)
  ∧ (n = 0x01 → k.p.num < 4 → k.g.live.length < 8 → k.p.stack.length < 32 →
      reads k (b (k.p.num + 4 * k.g.live.length + 32 * k.p.stack.length)))
  ∧ (n = 0x02 → k.g.gidx < 16 → 1 ≤ k.c.size → k.c.size ≤ 16 → reads k (b (k.g.gidx + 16 * (k.c.size - 1)
      + 256 * (k.g.core % 4) + 1024 * (k.c.cluster % 24) + 32768 * (k.c.cluster / 24))))
  ∧ at_ 0x03 (b k.g.count)
  ∧ (∀ j < 12, n = 0x04 + j / 5 → ∃ w, reads k w ∧ w.toNat / 2 ^ (6 * (j % 5)) % 64 = s.flagCount k.g.gid k.p.num j % 64)
  ∧ at_ 0x07 (if k.p.rep.act then b (65536 + 4096 * (k.p.rep.step % 16) + 64 * (k.p.rep.next % 64) + k.p.rep.remain % 64)
      else 0)
  ∧ (∀ j < 3, at_ (0x08 + j) (Mask.word k.p.memb j))
  ∧ at_ 0x0B (match k.p.jpc with
      | some a => (BitVec.ofNat 32 a.toNat &&& 4294967288) ||| 1
      | none => 0)
  ∧ at_ 0x0C (match k.p.jpc with
      | some a => BitVec.ofNat 32 (a.toNat / 4294967296)
      | none => 0)
  ∧ (n = 0x0D → reads (withSplit k { k.p with tcap := some (BitVec.ofNat 64 time) }) (b time))
  ∧ (n = 0x0E → time < 2 ^ 64 → reads k (match k.p.tcap with
      | some t => BitVec.ofNat 32 (t.toNat / 4294967296)
      | none => b (time / 4294967296)))
  ∧ at_ 0x0F (b k.c.ctx)
  ∧ at_ 0x10 (b k.c.arg.toNat) ∧ at_ 0x11 (b (k.c.arg.toNat / 4294967296))
  ∧ (k.c.task = none → at_ 0x12 (b k.c.index) ∧ at_ 0x13 0 ∧ at_ 0x14 0 ∧ at_ 0x15 0
      ∧ at_ 0x18 (b (k.c.index / 4294967296 % 65536)))
  ∧ (∀ t, k.c.task = some t → at_ 0x12 0 ∧ at_ 0x13 (b (65536 + t.bits.toNat / 2 ^ 448 % 65536))
      ∧ at_ 0x14 (b (t.bits.toNat / 2 ^ 256)) ∧ at_ 0x15 (b (t.bits.toNat / 2 ^ 288)) ∧ at_ 0x18 0)
  ∧ at_ 0x16 (b (k.g.prio % 16)) ∧ at_ 0x17 k.g.soft0
  ∧ at_ 0x20 (b (ctx.hprime % 8)) ∧ at_ 0x21 k.g.hstat ∧ at_ 0x26 (b k.g.claim.toNat)
  ∧ at_ 0x22 (b (s.share k.c.ctx k.c.cluster).level)
  ∧ (s.bar0.failsafe = false → at_ 0x25 (b ((s.share k.c.ctx k.c.cluster).capk % 65536 * 65536
      + (s.share k.c.ctx k.c.cluster).rate % 65536)))
  ∧ (∀ c0 c1 c2 c3 c4 c5 c6 c7, ctx.ecost = [c0, c1, c2, c3, c4, c5, c6, c7] → (∀ c ∈ ctx.ecost, c < 256) →
      at_ 0x23 (b (c0 + 256 * c1 + 65536 * c2 + 16777216 * c3)) ∧ at_ 0x24 (b (c4 + 256 * c5 + 65536 * c6 + 16777216 * c7)))
  ∧ at_ 0x30 k.p.trap.tcause ∧ at_ 0x31 (b k.p.trap.tepc.toNat) ∧ at_ 0x32 (b (k.p.trap.tepc.toNat / 4294967296))
  ∧ at_ 0x33 (b k.p.trap.taddr.toNat) ∧ at_ 0x34 (b (k.p.trap.taddr.toNat / 4294967296))
  ∧ at_ 0x35 (k.p.trap.tinfo ||| (if k.p.hmode then 16 else 0))
  ∧ (∀ j < 3, at_ (0x36 + j) (Mask.word k.p.trap.texec j)) ∧ at_ 0x39 k.p.trap.trep
  ∧ at_ 0x3A (b ctx.tvec.toNat) ∧ at_ 0x3B (b (ctx.tvec.toNat / 4294967296))

/-- R7, R139, R221, R222, R378: what SWRITE writes: SOFT0, HPRIME behind a device fence, HSTAT.RANGE by writing 1, and in
handler mode the writable trap registers; every other write is ignored. -/
def Says.SpecialRegisterWrites : Prop := ∀ (s : State) (k : Issuer) (o : OpA), Accepted (.swrite o) s k →
  let n := o.sub.toNat
  let w := k.con o
  let t := k.p.trap
  let trap (q : TrapRegs) := Answers (.swrite o) s s (withSplit k { k.p with trap := q }) noV noS fun _ _ => True
  (n = 0x17 → Answers (.swrite o) s s (withGroup k { k.g with soft0 := w }) noV noS fun _ _ => True)
  ∧ (n = 0x20 → s.fencePassed k.g k.p.num 4 s.nextId = true →
      Answers (.swrite o) s (s.setCtx k.c.ctx { s.ctx k.c.ctx with hprime := w.toNat % 8 }) k noV noS fun _ _ => True)
  ∧ (n = 0x20 → s.fencePassed k.g k.p.num 4 s.nextId = false → Holds (.swrite o) s s)
  ∧ (n = 0x21 → Answers (.swrite o) s s (withGroup k { k.g with
        hstat := if w.getLsbD 0 then k.g.hstat &&& 4294967294 else k.g.hstat }) noV noS fun _ _ => True)
  ∧ (k.p.hmode = true →
      (n = 0x31 → trap { t with tepc := BitVec.ofNat 64 (t.tepc.toNat / 4294967296 * 4294967296 + w.toNat / 8 * 8) })
      ∧ (n = 0x32 → trap { t with tepc := BitVec.ofNat 64 (w.toNat * 4294967296 + t.tepc.toNat % 4294967296) })
      ∧ (n = 0x35 → trap { t with tinfo := BitVec.ofNat 32 (t.tinfo.toNat / 16 * 16 + w.toNat % 16) })
      ∧ (∀ j < 3, n = 0x36 + j → trap { t with texec := Mask.setWord t.texec j w })
      ∧ (n = 0x39 → trap { t with trep := BitVec.ofNat 32 (w.toNat % 131072) }))
  ∧ (n ≠ 0x17 → n ≠ 0x20 → n ≠ 0x21 →
      k.p.hmode = false ∨ n ∉ [0x31, 0x32, 0x35, 0x36, 0x37, 0x38, 0x39] → OnlyMoves (.swrite o) s k)

/-- R146, R147, Table 06-1: CONVERT to a floating format, for every rounding and any 16-bit random value of the stochastic one:
the spacing, the rounded magnitude, zeros, and the overflows and special inputs of Table 06-2. -/
def Says.FloatRounding : Prop := ∀ (f : Fmt) (w fr bias : Nat) (max : ℚ) (inf : Bool) (nan : Nat),
  (f, w, fr, bias, max, inf, nan) ∈ [(Fmt.f32, 32, 23, 127, (2 - (2 : ℚ) ^ (-23 : ℤ)) * 2 ^ (127 : ℤ), true, 0x7FC00000),
    (Fmt.f16, 16, 10, 15, 65504, true, 0x7E00), (Fmt.bf16, 16, 7, 127, (2 - (2 : ℚ) ^ (-7 : ℤ)) * 2 ^ (127 : ℤ), true, 0x7FC0),
    (Fmt.e5m2, 8, 2, 15, 57344, true, 0x7E), (Fmt.e4m3, 8, 3, 7, 448, false, 0x7F), (Fmt.e2m1, 4, 1, 1, 6, false, 0)] →
  ∀ (mode : Rnd) (sat neg : Bool) (g : Nat), mode ∈ [Rnd.rn, .rz, .rd, .ru, .sr] → g < 65536 →
  let top (c : Nat) : Prop := FINITE (f.decode c) ∧ RAT (f.decode c) = (if neg then -1 else 1) * max
  (∀ (m : Nat) (e : ℤ), m ≠ 0 →
  let x : ℚ := (m : ℚ) * 2 ^ e
  let q : ℚ := 2 ^ (Max.max (Int.log 2 x - fr) (1 - bias - fr))
  let c := convert (.fin neg m e) f mode sat g
  c < 2 ^ w ∧ ∃ n : ℤ, ROUNDSG mode neg (x / q) g n
    ∧ (n * q ≤ max → FINITE (f.decode c) ∧ RAT (f.decode c) = (if neg then -1 else 1) * n * q ∧ SIGN (f.decode c) = neg)
    ∧ (max < n * q →
      let stays := sat || mode == .rz || (mode == .rd && !neg) || (mode == .ru && neg) || f == .e2m1
      if inf then
        if stays then top c else f.decode c = .inf neg
      else if f = .e4m3 ∧ sat = false then c = nan else top c))
  ∧ (∀ e, let c := convert (.fin neg 0 e) f mode sat g
    FINITE (f.decode c) ∧ RAT (f.decode c) = 0 ∧ SIGN (f.decode c) = neg)
  ∧ convert .nan f mode sat g = nan
  ∧ let c := convert (.inf neg) f mode sat g
    if inf = true ∧ sat = false then f.decode c = .inf neg else if f = .e4m3 ∧ sat = false then c = nan else top c

/-- R147: CONVERT to an integer format rounds and clamps; NaN gives 0. -/
def Says.IntegerRounding : Prop := ∀ (f : Fmt) (w : Nat) (lo hi : ℤ),
  (f, w, lo, hi) ∈ [(Fmt.i8, 8, -128, 127), (Fmt.i4, 4, -8, 7), (Fmt.i32, 32, -2147483648, 2147483647),
    (Fmt.n32, 32, 0, 4294967295)] →
  ∀ (mode : Rnd) (sat neg : Bool) (g : Nat), mode ∈ [Rnd.rn, .rz, .rd, .ru, .sr] → g < 65536 →
  (∀ m e, let c := convert (.fin neg m e) f mode sat g
    c < 2 ^ w ∧ ∃ n : ℤ, ROUNDSG mode neg ((m : ℚ) * 2 ^ e) g n
      ∧ RAT (f.decode c) = ((max lo (min hi (if neg then -n else n)) : ℤ) : ℚ))
  ∧ convert .nan f mode sat g = 0
  ∧ RAT (f.decode (convert (.inf neg) f mode sat g)) = ((if neg then lo else hi : ℤ) : ℚ)

/-- R145, R155, R156: FP32 arithmetic: the exact result, converted once; a type, rounding or code that an entry does not accept
traps. -/
def Obligations.FloatArithmetic : Prop := ∀ (s : State) (k : Issuer) (o : OpA),
  let a l := f32 (k.src o o.a l)
  let b l := f32 (k.src o o.b l)
  let c l := f32 (k.src o o.c l)
  let neg (x : FVal) : FVal := match x with
    | .fin n m e => .fin (!n) m e
    | .inf n => .inf !n
    | .nan => .nan
  let once (z : FVal) (w : Word) : Prop := w = BitVec.ofNat 32 (convert z .f32 o.rnd false 0)
  let nan : Word := 0x7FC00000
  let pick (less : Bool) (u v w : Word) : Prop :=
    (f32 u = .nan ∧ f32 v = .nan ∧ w = nan) ∨ (f32 u = .nan ∧ f32 v ≠ .nan ∧ w = v) ∨ (f32 u ≠ .nan ∧ f32 v = .nan ∧ w = u)
    ∨ (w = u ∨ w = v) ∧ f32 u ≠ .nan ∧ f32 v ≠ .nan
      ∧ ¬ (if less then FLESS (f32 u) (f32 w) ∨ FLESS (f32 v) (f32 w) else FLESS (f32 w) (f32 u) ∨ FLESS (f32 w) (f32 v))
      ∧ (FSAME (f32 u) (f32 v) → w.msb = if less then u.msb || v.msb else u.msb && v.msb)
  (Accepted (.fadd o) s k → LaneSuch (.fadd o) o s k fun l w => ∃ z, IsSum o.rnd (a l) (b l) z ∧ once z w)
  ∧ (Accepted (.fsub o) s k → LaneSuch (.fsub o) o s k fun l w => ∃ z, IsSum o.rnd (a l) (neg (b l)) z ∧ once z w)
  ∧ (Accepted (.fmul o) s k → LaneSuch (.fmul o) o s k fun l w => ∃ z, IsProduct (a l) (b l) z ∧ once z w)
  ∧ (Accepted (.ffma o) s k → LaneSuch (.ffma o) o s k fun l w => ∃ y z, IsProduct (a l) (b l) y
      ∧ IsSum o.rnd (if o.sub.getLsbD 0 then neg y else y) (c l) z ∧ once z w)
  ∧ (Accepted (.fmin o) s k → LaneSuch (.fmin o) o s k fun l w => pick true (k.src o o.a l) (k.src o o.b l) w)
  ∧ (Accepted (.fmax o) s k → LaneSuch (.fmax o) o s k fun l w => pick false (k.src o o.a l) (k.src o o.b l) w)
  ∧ ∀ (i : OpA → Instr) (rnds last : Nat),
    (i, rnds, last) ∈ [(Instr.fadd, 3, 0), (.fsub, 3, 0), (.fmul, 3, 0), (.ffma, 3, 1), (.fmin, 0, 0), (.fmax, 0, 0)] → s.issuer = some k →
    (o.typ.isRsv = false → o.typ ∉ [.dflt, .f32] → Traps (i o) s k s { cause := 0x01 })
    ∧ (o.rnd.isRsv = false → rnds < o.rnd.code → Traps (i o) s k s { cause := 0x01 })
    ∧ (encCheck (i { o with sub := 0 }) = none → last < o.sub.toNat → Traps (i o) s k s { cause := 0x02 })

/-- R157, R158, R159: comparison, classification, integral values, integers, exponents and mantissas; a type, rounding or code
that an entry does not accept traps. -/
def Obligations.FloatCompareConvert : Prop := ∀ (s : State) (k : Issuer) (o : OpA),
  let u := k.src o o.a
  let a l := f32 (u l)
  let b l := f32 (k.src o o.b l)
  (Accepted (.fcmp o) s k → LaneSuch (.fcmp o) o s k fun l w =>
      let yes : Prop := match o.sub.toNat with
        | 0 => FSAME (a l) (b l) | 1 => ¬ FSAME (a l) (b l) | 2 => FLESS (a l) (b l)
        | 3 => FLESS (a l) (b l) ∨ FSAME (a l) (b l) | 4 => FLESS (b l) (a l) | 5 => FLESS (b l) (a l) ∨ FSAME (a l) (b l)
        | _ => a l = .nan ∨ b l = .nan
      (yes ∧ w = 1) ∨ (¬ yes ∧ w = 0))
  ∧ (Accepted (.fclass o) s k → LaneSuch (.fclass o) o s k fun l w =>
      let n := |RAT (a l)|
      w = match a l with
        | .inf true => 1
        | .inf false => 128
        | .nan => if (u l).getLsbD 22 then 512 else 256
        | .fin neg _ _ => if n = 0 then (if neg then 8 else 16) else if n < 2 ^ (-126 : ℤ) then (if neg then 4 else 32)
          else (if neg then 2 else 64))
  ∧ (Accepted (.frnd o) s k → LaneSuch (.frnd o) o s k fun l w => match a l with
      | .nan => w = 0x7FC00000
      | .inf _ => w = u l
      | x => SIGN (f32 w) = SIGN x ∧ FINITE (f32 w) ∧ ∃ n : ℤ, ROUNDS o.rnd (SIGN x) |RAT x| n ∧ |RAT (f32 w)| = n)
  ∧ (Accepted (.ftoi o) s k → LaneSuch (.ftoi o) o s k fun l w => match a l with
      | .nan => w = 0
      | .inf neg => VAL o w = if neg then LO o else HI o
      | x => ∃ n : ℤ, ROUNDS o.rnd (SIGN x) |RAT x| n ∧ VAL o w = max (LO o) (min (HI o) (if SIGN x then -n else n)))
  ∧ (Accepted (.itof o) s k → LaneSuch (.itof o) o s k fun l w => ∃ z, FINITE z ∧ RAT z = (VAL o (u l) : ℚ)
      ∧ SIGN z = decide (VAL o (u l) < 0) ∧ w = BitVec.ofNat 32 (convert z .f32 o.rnd false 0))
  ∧ (Accepted (.fexp o) s k → LaneSuch (.fexp o) o s k fun l w => match a l with
      | .fin _ m _ => if m = 0 then w = 0x80000000 else w.toInt = Int.log 2 |RAT (a l)|
      | _ => w = 0x7FFFFFFF)
  ∧ (Accepted (.fmant o) s k → LaneSuch (.fmant o) o s k fun l w => match a l with
      | .nan => w = 0x7FC00000
      | .inf _ => w = u l
      | x => if RAT x = 0 then w = u l else SIGN (f32 w) = SIGN x ∧ RAT (f32 w) = RAT x / 2 ^ Int.log 2 |RAT x|)
  ∧ (Accepted (.ldexp o) s k → LaneSuch (.ldexp o) o s k fun l w => match a l with
      | .nan => w = 0x7FC00000
      | .inf _ => w = u l
      | x => ∃ z, FINITE z ∧ SIGN z = SIGN x ∧ RAT z = RAT x * 2 ^ (k.src o o.b l).toInt
          ∧ w = BitVec.ofNat 32 (convert z .f32 o.rnd false 0))
  ∧ ∀ (i : OpA → Instr) (types : List Ty) (rnds last : Nat),
    (i, types, rnds, last) ∈ [(Instr.fcmp, [.f32], 0, 6), (.fclass, [.f32], 0, 0), (.frnd, [.f32], 3, 0), (.ftoi, [.i32, .n32], 3, 0),
      (.itof, [.i32, .n32], 3, 0), (.fexp, [.f32], 0, 0), (.fmant, [.f32], 0, 0), (.ldexp, [.f32], 3, 0)] → s.issuer = some k →
    (o.typ.isRsv = false → o.typ ∉ .dflt :: types → Traps (i o) s k s { cause := 0x01 })
    ∧ (o.rnd.isRsv = false → rnds < o.rnd.code → Traps (i o) s k s { cause := 0x01 })
    ∧ (encCheck (i { o with sub := 0 }) = none → last < o.sub.toNat → Traps (i o) s k s { cause := 0x02 })

/-- R160, R161: the seeds with their special values, the reciprocal seed exactly, and the exact reductions. That the model's
finite LG2SEED and EX2SEED and the digits of π and ln 2 are the rounded exact functions is log 12. -/
def Obligations.SeedsAndReductions : Prop := ∀ (s : State) (k : Issuer) (o : OpA),
  let u := k.src o o.a
  let a l := f32 (u l)
  let s12 (w : Word) : Prop := w.toNat % 4096 = 0
  let reduced (c : Nat) (x : FVal) (j : ℤ) : Prop := 2 * |RAT x * 2 ^ (384 : ℤ) - j * c| ≤ c
  (Accepted (.rcpseed o) s k → LaneSuch (.rcpseed o) o s k fun l w => s12 w ∧ match a l with
      | .nan => w = 0x7FC00000
      | .inf neg => w = if neg then 0x80000000 else 0
      | x => if RAT x = 0 then w = if SIGN x then 0xFF800000 else 0x7F800000
        else ((2 : ℚ) ^ (-126 : ℤ) ≤ |RAT x| → |RAT x| ≤ 2 ^ (126 : ℤ) → FINITE (f32 w) ∧ SIGN (f32 w) = SIGN x
          ∧ |RAT (f32 w) * RAT x - 1| ≤ 2 ^ (-12 : ℤ)
          ∧ ∀ v, s12 v → FINITE (f32 v) → |RAT (f32 w) - 1 / RAT x| ≤ |RAT (f32 v) - 1 / RAT x|))
  ∧ (Accepted (.rsqseed o) s k → LaneSuch (.rsqseed o) o s k fun l w => s12 w ∧ match a l with
      | .nan => w = 0x7FC00000
      | .inf neg => w = if neg then 0x7FC00000 else 0
      | x => if RAT x = 0 then w = if SIGN x then 0xFF800000 else 0x7F800000
        else if SIGN x then w = 0x7FC00000
        else FINITE (f32 w) ∧ SIGN (f32 w) = false
          ∧ (1 - (2 : ℚ) ^ (-12 : ℤ)) ^ 2 ≤ RAT (f32 w) ^ 2 * RAT x ∧ RAT (f32 w) ^ 2 * RAT x ≤ (1 + (2 : ℚ) ^ (-12 : ℤ)) ^ 2)
  ∧ (Accepted (.lg2seed o) s k → LaneSuch (.lg2seed o) o s k fun l w => s12 w ∧ match a l with
      | .nan => w = 0x7FC00000
      | .inf neg => w = if neg then 0x7FC00000 else 0x7F800000
      | x => if RAT x = 0 then w = 0xFF800000 else if SIGN x then w = 0x7FC00000
        else (RAT x = 1 → w = 0) ∧ ∀ j : ℤ, -149 ≤ j → j ≤ 127 → RAT x = 2 ^ j → RAT (f32 w) = j)
  ∧ (Accepted (.ex2seed o) s k → LaneSuch (.ex2seed o) o s k fun l w => s12 w ∧ match a l with
      | .nan => w = 0x7FC00000
      | .inf neg => w = if neg then 0 else 0x7F800000
      | x => (RAT x = 0 → w = 0x3F800000) ∧ ∀ j : ℤ, -126 ≤ j → j ≤ 127 → RAT x = j → RAT (f32 w) = 2 ^ j)
  ∧ (∀ (i : Instr) (c : Nat), (i, c) ∈ [(Instr.rrpi o, halfPi), (.rrln2 o, ln2)] → Accepted i s k →
      LaneSuch i o s k fun l w => match a l with
        | .fin _ m _ => ∃ j : ℤ, reduced c (a l) j ∧
          if o.sub.getLsbD 0 then (if c = halfPi then w.toNat = j % 4 else w.toInt = max (-2147483648) (min 2147483647 j))
          else if m = 0 then w = u l
          else ∃ z, FINITE z ∧ RAT z = RAT (a l) - j * c / 2 ^ (384 : ℤ) ∧ w = BitVec.ofNat 32 (convert z .f32 .rn false 0)
        | x => if o.sub.getLsbD 0 then
            w = if c = ln2 then (if x = .nan then 0 else if x = .inf true then 0x80000000 else 0x7FFFFFFF) else 0
          else w = 0x7FC00000)

/-- R150, R151, Table 06-5: a launch's format slots, their fields and their validity. -/
def Says.FormatSlots : Prop := ∀ (s : State) (k : Issuer) (l : Launch) (n : Nat) (elems : List Nat),
  s.launch? k.c.lid = some l → n < 8 →
  let raw := l.record.toNat / 2 ^ (512 + 64 * n) % 2 ^ 64
  let b (hi lo : Nat) := raw / 2 ^ lo % 2 ^ (hi + 1 - lo)
  let f := s.slot k n
  let valid : Prop := 1 ≤ b 7 0 ∧ b 7 0 ≤ 8 ∧ b 15 8 ≤ 1 ∧ (b 15 8 = 1 → b 7 0 = 4 ∨ b 7 0 = 5 ∨ b 7 0 = 6)
    ∧ (b 15 8 = 0 → b 23 16 = 0) ∧ (b 15 8 = 1 → 3 ≤ b 23 16 ∧ b 23 16 ≤ 5) ∧ b 26 24 ≤ 4 ∧ b 33 32 ≠ 3
    ∧ b 31 27 = 0 ∧ b 39 35 = 0 ∧ b 63 46 = 0
  f.elem = b 7 0 ∧ f.scale = b 15 8 ∧ f.blk = b 23 16 ∧ f.rnd = b 26 24 ∧ f.stoch = b 33 32
  ∧ (f.sat = true ↔ b 34 34 = 1) ∧ f.phase = b 45 40
  ∧ (s.slotOk k n elems = some f ↔ valid ∧ f.elem ∈ elems) ∧ (s.slotOk k n elems = none ↔ ¬ (valid ∧ f.elem ∈ elems))
  ∧ f.conv.sat = f.sat ∧ (f.rnd = 4 → f.conv.mode = if f.stoch = 2 then .rn else .sr)
  ∧ (f.rnd < 4 → f.conv.mode ∈ [Rnd.rn, .rz, .rd, .ru] ∧ f.conv.mode.code = f.rnd)
  ∧ f.conv.dith = if f.stoch = 1 then some f.phase else none

/-- R148, R149, R152, R162, R163: CVT, PK and UNPK, with the source of the random value. A slot that is invalid or not
accepted traps with cause 0x11, and an element number beyond a slot's width with cause 0x02. -/
def Says.Conversions : Prop := ∀ (s : State) (k : Issuer) (o : OpA),
  let n := o.sub.toNat % 8
  let p := o.sub.toNat / 8
  let explicit : Conv := { fmt := .f32, mode := o.rnd, sat := o.sub.getLsbD 0, dith := none }
  let dst (dflt : Fmt) : Fmt := match o.typ with
    | .f32 => .f32 | .f16 => .f16 | .bf16 => .bf16 | .e4m3 => .e4m3 | .e5m2 => .e5m2 | .e2m1 => .e2m1 | .i8 => .i8
    | _ => dflt
  let how (dflt : Fmt) (elems : List Nat) (c : Conv) : Prop :=
    (o.typ ≠ .slot ∧ c = { explicit with fmt := dst dflt })
    ∨ o.typ = .slot ∧ ∃ f, s.slotOk k n elems = some f ∧ c = f.conv
  let src (x : Word) : FVal := match p with
    | 0 => Fmt.f32.decode x.toNat | 1 => Fmt.f16.decode x.toNat | 2 => Fmt.bf16.decode x.toNat | 3 => Fmt.e4m3.decode x.toNat
    | 4 => Fmt.e5m2.decode x.toNat | 5 => Fmt.e2m1.decode x.toNat | _ => Fmt.i8.decode x.toNat
  let elem (c : Conv) (v : Nat → FVal) (l j e : Nat) : Prop := ∃ g, e = convert (v l) c.fmt c.mode c.sat g
    ∧ (c.mode = .sr → match c.dith with
      | some phase => g = 1024 * nth 0 ditherD ((8 * (if o.s then 0 else l) + j + phase) % 64) + 512
      | none => ∃ F : Nat → Nat, (∀ m, if o.s = false ∧ k.p.exec.getLsbD m then DISCARD (v m) c.fmt (F m) else F m = 0)
          ∧ g = HASH F (if o.s then 0 else l) j)
  let put (f : Fmt) (w w' : Word) (j e : Nat) : Prop := ∀ i, elemAt f w' i = if i = j ∧ i < 32 / f.width then e else elemAt f w i
  let refused (i : Instr) (elems : List Nat) : Prop :=
    o.typ = .slot → s.slotOk k n elems = none → Traps i s k s { cause := 0x11 }
  (Accepted (.cvt o) s k → refused (.cvt o) [1, 2, 3, 4, 5, 6, 7] ∧ ∀ c, how .f32 [1, 2, 3, 4, 5, 6, 7] c →
      LaneSuch (.cvt o) o s k fun l w => ∃ e, elem c (fun m => src (k.src o o.a m)) l 0 e ∧ w = BitVec.ofNat 32 e)
  ∧ (Accepted (.pk o) s k → refused (.pk o) [2, 3, 4, 5, 6, 7, 8] ∧ ∀ c, how .bf16 [2, 3, 4, 5, 6, 7, 8] c →
      if 32 ≤ 2 * p * c.fmt.width then Traps (.pk o) s k s { cause := 0x02 }
      else LaneSuch (.pk o) o s k fun l w => ∃ e e' w', elem c (fun m => f32 (k.src o o.a m)) l (2 * p) e
        ∧ elem c (fun m => f32 (k.src o o.b m)) l (2 * p + 1) e'
        ∧ put c.fmt (k.src o o.c l) w' (2 * p) e ∧ put c.fmt w' w (2 * p + 1) e')
  ∧ (Accepted (.unpk o) s k → refused (.unpk o) [2, 3, 4, 5, 6, 7, 8] ∧ ∀ c, how .bf16 [2, 3, 4, 5, 6, 7, 8] c →
      if 32 ≤ p * c.fmt.width then Traps (.unpk o) s k s { cause := 0x02 }
      else LaneSuch (.unpk o) o s k fun l w =>
        let x := c.fmt.decode (elemAt c.fmt (k.src o o.a l) p)
        match x with
        | .nan => w = 0x7FC00000
        | .inf neg => w = if neg then 0xFF800000 else 0x7F800000
        | x => if c.fmt = .i8 ∨ c.fmt = .i4 then (w.toInt : ℚ) = RAT x
          else FINITE (f32 w) ∧ RAT (f32 w) = RAT x ∧ SIGN (f32 w) = SIGN x)

/-- R153, R164, R165, R144, R166: packed arithmetic, dot products under the sum rule, scales and quantisation. -/
def Says.PackedArithmetic : Prop := ∀ (s : State) (k : Issuer) (o : OpA),
  let t : Fmt := if o.typ = .bf16 then .bf16 else .f16
  let el (x : Word) (j : Nat) : FVal := t.decode (elemAt t x j)
  let half (w : Word) (j : Nat) (z : FVal) : Prop := elemAt t w j = convert z t o.rnd false 0
  let a := k.src o o.a
  let b := k.src o o.b
  let c := k.src o o.c
  let n := o.sub.toNat % 8
  let dot (i : Instr) (dflt : Fmt) (elems : List Nat) : Prop := Accepted i s k →
    (o.typ = .slot → s.slotOk k n elems = none → Traps i s k s { cause := 0x11 })
    ∧ ∀ (f : Fmt) (sat : Bool), (o.typ ≠ .slot ∧ f = tyFmt dflt o.typ ∧ sat = o.sub.getLsbD 0
        ∨ o.typ = .slot ∧ ∃ g, s.slotOk k n elems = some g ∧ f = elemFmt g.elem ∧ sat = g.sat) →
      LaneSuch i o s k fun l w =>
        let js := List.range (32 / f.width)
        if f = .i8 ∨ f = .i4 then
          let x := (c l).toInt + (js.map fun j => sgn f.width (elemAt f (a l) j) * sgn f.width (elemAt f (b l) j)).sum
          if sat then w.toInt = max (-2147483648) (min 2147483647 x) else w = BitVec.ofInt 32 x
        else ∃ ts : List FVal, ts.length = js.length + 1 ∧ ts.head? = some (f32 (c l))
          ∧ (∀ j ∈ js, IsProduct (f.decode (elemAt f (a l) j)) (f.decode (elemAt f (b l) j)) (nth .nan ts (j + 1)))
          ∧ if .nan ∈ ts ∨ (.inf true ∈ ts ∧ .inf false ∈ ts) then w = 0x7FC00000
            else if .inf true ∈ ts then w = 0xFF800000
            else if .inf false ∈ ts then w = 0x7F800000
            else SUMS ts w.toNat
  (Accepted (.hadd2 o) s k → LaneSuch (.hadd2 o) o s k fun l w => ∀ j < 2, ∃ z,
      IsSum o.rnd (el (a l) j) (el (b l) j) z ∧ half w j z)
  ∧ (Accepted (.hmul2 o) s k → LaneSuch (.hmul2 o) o s k fun l w => ∀ j < 2, ∃ z,
      IsProduct (el (a l) j) (el (b l) j) z ∧ half w j z)
  ∧ (Accepted (.hfma2 o) s k → LaneSuch (.hfma2 o) o s k fun l w => ∀ j < 2, ∃ y z,
      IsProduct (el (a l) j) (el (b l) j) y ∧ IsSum o.rnd y (el (c l) j) z ∧ half w j z)
  ∧ dot (.dot4 o) .e4m3 [4, 5, 7] ∧ dot (.dot8 o) .e2m1 [6, 8] ∧ dot (.dots o) .bf16 [2, 3]
  ∧ (Accepted (.scale o) s k → LaneSuch (.scale o) o s k fun l w =>
      let e := (b l).toNat / 256 ^ (o.sub.toNat / 8) % 256
      match f32 (a l) with
      | .nan => w = 0x7FC00000
      | .inf neg => w = if e = 255 then 0x7FC00000 else if neg then 0xFF800000 else 0x7F800000
      | x => if e = 255 then w = 0x7FC00000 else ∃ z, FINITE z ∧ SIGN z = SIGN x ∧ RAT z = RAT x * 2 ^ ((e : ℤ) - 127)
          ∧ w = BitVec.ofNat 32 (convert z .f32 o.rnd false 0))
  ∧ (Accepted (.amaxb o) s k → LaneSuch (.amaxb o) o s k fun l w =>
      let block := if o.s then [0] else k.lanes.filter fun m => m / 2 ^ o.sub.toNat == l / 2 ^ o.sub.toNat
      if ∃ m ∈ block, f32 (a m) = .nan then w = 0x7FC00000
      else (∀ m ∈ block, (a m).toNat % 2147483648 ≤ w.toNat) ∧ (w = 0 ∨ ∃ m ∈ block, w.toNat = (a m).toNat % 2147483648))
  ∧ (Accepted (.qnt o) s k →
      let p := o.sub.toNat / 8
      ((∀ f, s.slotOk k n [4, 5, 6] = some f → f.scale ≠ 1) → Traps (.qnt o) s k s { cause := 0x11 })
      ∧ ∀ f, s.slotOk k n [4, 5, 6] = some f → f.scale = 1 →
        let fmt := elemFmt f.elem
        let emax : ℤ := if fmt = .e4m3 then 8 else if fmt = .e5m2 then 15 else 2
        let scaledTo (m : Nat) (z : FVal) : Prop := match f32 (b m) with
          | .nan | .inf _ => z = .nan
          | y => match f32 (a m) with
            | .nan => z = .nan
            | .inf neg => z = .inf neg
            | x => FINITE z ∧ SIGN z = SIGN x ∧ RAT z = RAT x * 2 ^ (-(if RAT y = 0 then -127
                else max (-127) (min 127 (Int.log 2 |RAT y| - emax))))
        if 32 ≤ p * fmt.width then Traps (.qnt o) s k s { cause := 0x02 }
        else LaneSuch (.qnt o) o s k fun l w => (∀ i, i ≠ p → elemAt fmt w i = elemAt fmt (c l) i)
          ∧ match f32 (b l) with
            | .nan | .inf _ => elemAt fmt w p = fmt.nanEnc
            | _ => ∃ (V : Nat → FVal) (g : Nat), (∀ m, scaledTo m (V m)) ∧ elemAt fmt w p = convert (V l) fmt f.conv.mode true g
              ∧ (f.conv.mode = .sr → match f.conv.dith with
                | some phase => g = 1024 * nth 0 ditherD ((8 * (if o.s then 0 else l) + p + phase) % 64) + 512
                | none => ∃ F : Nat → Nat,
                    (∀ m, if o.s = false ∧ k.p.exec.getLsbD m then DISCARD (V m) fmt (F m) else F m = 0)
                    ∧ g = HASH F (if o.s then 0 else l) p))

/-- R34, R35: a walk from the root with no translation cached. `node j` is the table of level `j` (3 is the root's), `lev`
the level at which the walk ends. Entries it passed get ACC, and no other byte changes, where the homes of their lines are free;
at a home that is not, the OR waits its turn. -/
def Says.TranslationWalk : Prop := ∀ (s : State) (ctx va : Nat) (need : Need) (lev : Nat) (node : Nat → Nat),
  va < 3 * 2 ^ 53 → (s.ctx ctx).tlb = [] → lev ≤ 3 → node 3 = (s.ctx ctx).root →
  (∀ j, lev ≤ j → j ≤ 3 → node j + 8192 ≤ 0xC000000000) →
  let ent j := node j + 8 * (va / 24576 / 1024 ^ j % 1024)
  let e j := s.rdN (ent j) 8
  let b j i := (e j).testBit i
  let frame j := e j / 4096 % 2 ^ 39
  let zero j := e j / 2 ^ 51 = 0 ∧ e j / 128 % 32 = 0
  (∀ j, lev < j → j ≤ 3 → b j 0 = true ∧ zero j ∧ b j 3 = false ∧ b j 4 = false ∧ node (j - 1) = frame j * 8192) →
  let size := 24576 * 1024 ^ lev
  let base := frame lev * size
  let pa := base + va % size
  let r := s.translate ctx va need
  let passed (a : Nat) : Prop := (∃ j, lev < j ∧ j ≤ 3 ∧ a = ent j)
  let idle (line : Nat) : Prop := (s.dirAt line).st = .u ∧ (s.dirAt line).txn = none ∧ (s.dirAt line).queue = []
  let free : Prop := ∀ j, lev ≤ j → j ≤ 3 → idle (ent j / 192)
  (b lev 0 = false → r.1 = .error 0x05
      ∧ (free → ∀ a, (passed a → r.2.rdB a = s.rdB a ||| 32) ∧ (¬ passed a → r.2.rdB a = s.rdB a)))
  ∧ (b lev 0 = true → (¬ zero lev ∨ (b lev 4 = true ∧ lev = 3) ∨ (b lev 4 = false ∧ lev = 0) ∨ (b lev 3 = true ∧ b lev 4 = false)) →
      r.1 = .error 0x06)
  ∧ (b lev 0 = true → zero lev → b lev 4 = true → lev < 3 →
      ¬ (base + size ≤ 0x10000000000000 ∧ rangeOf base = rangeOf (base + size - 1)) → r.1 = .error 0x06)
  ∧ (b lev 0 = true → zero lev → b lev 4 = true → lev < 3 → base + size ≤ 0x10000000000000 →
      rangeOf base = rangeOf (base + size - 1) →
      r.1 = (if (need = .write ∧ b lev 1 = false) ∨ (need = .fetch ∧ b lev 2 = false) ∨ rangeOf base = .reserved
          ∨ (rangeOf base = .fabric ∧ s.routed pa = false) then .error 0x06
        else .ok { pa := pa, nc := b lev 3 && decide (rangeOf base = .device), ent := ent lev })
      ∧ (free → ∀ a, (passed a ∨ a = ent lev → r.2.rdB a = s.rdB a ||| 32) ∧ (¬ passed a → a ≠ ent lev → r.2.rdB a = s.rdB a)))
  ∧ ∀ a bit, a < 0xC000000000 → bit < 8 → let e := s.dirAt (a / 192)
    ((s.rdB a).getLsbD bit = true → s.orEntry a bit = s)
    ∧ ((s.rdB a).getLsbD bit = false → e.st = .k ∨ e.txn ≠ none ∨ e.queue ≠ [] → .orB a bit ∉ e.queue →
      (∀ x, e.txn = some x → x.req ≠ .orB a bit) → s.orEntry a bit = s.setDir (a / 192) { e with queue := e.queue ++ [.orB a bit] })

/-- R34: an address at or beyond the end of the virtual address space does not translate. -/
def Says.VirtualAddressEnd : Prop := ∀ (s : State) (ctx va : Nat) (need : Need), 3 * 2 ^ 53 ≤ va →
  s.translate ctx va need = (.error 0x05, s)

/-- R172, R176, R183, R184, R185, R52: the checks of a memory access, for one lane and over lanes: the alignment of every
lane first; then each lane's translation and protection, the lowest failing lane named; a load or an atomic that would read a
poisoned sector consumes an uncorrectable error, before the fault of another lane where the access is an LD, and after it in a
scratchpad load, which a failing lane leaves unmade. -/
def Obligations.AccessChecks : Prop := ∀ (s : State) (c : Crew) (kind : Acc1) (aop n : Nat) (scr : Bool) (eas : List (Nat × Nat)),
  (∀ pre l a post, eas = pre ++ (l, a) :: post → (∀ e ∈ pre, e.2 % n = 0) → a % n ≠ 0 →
    s.checkAccess c kind aop n scr eas = (.error { cause := 0x04, lane := l, taddr := BitVec.ofNat 64 a }, s))
  ∧ (∀ sp t s1, (∀ e ∈ eas, e.2 % n = 0) → s.spots c kind aop n scr eas = (sp, some t, s1) →
      (kind = .load → scr = false → s1.poisonedSpot c n sp = none) → s.checkAccess c kind aop n scr eas = (.error t, s1))
  ∧ (∀ sp t s1 x, (∀ e ∈ eas, e.2 % n = 0) → s.spots c .load aop n false eas = (sp, some t, s1) → s1.poisonedSpot c n sp = some x →
      s.checkAccess c .load aop n false eas
        = (.error { cause := 0x07, lane := x.lane, taddr := BitVec.ofNat 64 x.va, inside := x.place.inside }, s1))
  ∧ (∀ sp s1 x, (∀ e ∈ eas, e.2 % n = 0) → s.spots c kind aop n scr eas = (sp, none, s1) → kind ≠ .store → (kind = .red → c.versioned = false) →
      s1.poisonedSpot c n sp = some x → s.checkAccess c kind aop n scr eas
        = (.error { cause := 0x07, lane := x.lane, taddr := BitVec.ofNat 64 x.va, inside := x.place.inside }, s1))
  ∧ (∀ l va pre, eas = (l, va) :: pre → ∀ sp t s1 s2,
      (∀ z, s.spotOf c kind aop n scr l va = (.ok z, s1) → s1.spots c kind aop n scr pre = (sp, t, s2) →
        s.spots c kind aop n scr eas = (z :: sp, t, s2))
      ∧ (∀ z, s.spotOf c kind aop n scr l va = (.error z, s1) → s1.spots c kind aop n scr pre = (sp, t, s2) →
        s.spots c kind aop n scr eas = (sp, some z, s2)))
  ∧ (∀ l va b, scr = true ∨ (kind.rmw = true ∧ 0xFFFFFFFF00000000 ≤ va) → va < 2 ^ 64 →
      b = (if scr then va else va % 2 ^ 32) →
      (c.scratchSize < b + n → s.spotOf c kind aop n scr l va
        = (.error { cause := 0x06, lane := l, taddr := BitVec.ofNat 64 va }, s))
      ∧ (b + n ≤ c.scratchSize → kind ≠ .load → s.hitsLive c b n = true → s.spotOf c kind aop n scr l va
        = (.error { cause := 0x08, lane := l, taddr := BitVec.ofNat 64 va }, s))
      ∧ (b + n ≤ c.scratchSize → (kind = .load ∨ s.hitsLive c b n = false) → s.spotOf c kind aop n scr l va
        = (.ok { lane := l, va := va, place := .scratch b, ent := 0 }, s)))
  ∧ (∀ l va e s1, scr = false → (kind.rmw = true → va / 2 ^ 32 ≠ 0xFFFFFFFF) →
      s.translate c.ctx va (if kind = .load then .read else .write) = (.error e, s1) →
      s.spotOf c kind aop n scr l va
        = (.error { cause := e, lane := l, taddr := BitVec.ofNat 64 va, write := kind != .load }, s1))
  ∧ (∀ l va x s1, scr = false → (kind.rmw = true → va / 2 ^ 32 ≠ 0xFFFFFFFF) →
      s.translate c.ctx va (if kind = .load then .read else .write) = (.ok x, s1) →
      s.spotOf c kind aop n scr l va =
        (if (kind = .atom ∧ c.versioned = true)
            ∨ (rangeOf x.pa ≠ .device ∧ kind.rmw = true ∧ aop ≠ 0 ∧ aop ≠ 8 ∧ aop ≠ 9)
            ∨ (rangeOf x.pa ≠ .device ∧ kind = .atom ∧ (s.replayLaunch c).isSome = true)
            ∨ (kind = .store ∧ c.versioned = true ∧ x.nc = true)
          then .error { cause := 0x06, lane := l, taddr := BitVec.ofNat 64 va, write := kind != .load }
          else .ok { lane := l, va := va, place := .phys x.pa x.nc, ent := x.ent }, s1))

/-- R168 to R187: what the instructions of block 0x70 that access memory do at issue. Every active lane's address is formed
and checked, a failing check traps, and otherwise the operation is outstanding; a write through a leaf sets its DIRTY bit. An
LD of which a lane fails still reads the lanes that translate: it waits for their lines, and traps once it has fetched them. -/
def Says.MemoryIssue : Prop := ∀ (s : State) (k : Issuer) (o : OpM), Room s k →
  let n := wtBytes o.wt
  let r := wtRegs o.wt
  let ea l := ((if o.bs then k.s64 o.b else k.g.rdV64 o.b l) + BitVec.signExtend 64 o.off).toNat
  let eas := k.lanes.map fun l => (l, ea l)
  let aligned := ∀ e ∈ eas, e.2 % n = 0
  let lds (sp : List Spot) : List LaneAcc := sp.map fun x =>
    { lane := x.lane, va := x.va, place := x.place, data := k.g.rdN o.d r x.lane % 256 ^ n, cmp := 0, ent := x.ent }
  let ops (sp : List Spot) : List LaneAcc := sp.map fun x =>
    { lane := x.lane, va := x.va, place := x.place
      data := k.g.rdN (if o.aop = 9 then o.d + r else o.d) r x.lane % 256 ^ n
      cmp := if o.aop = 9 then k.g.rdN o.d r x.lane else 0, ent := x.ent }
  let dirtied (t : State) (sp : List Spot) := (sp.filter fun x => x.place.pa?.isSome).foldl (fun t x => t.setDirty x.ent) t
  let plain := k.c.versioned = false ∧ s.replayLaunch k.c = none
  (∀ i scr, (i = .ld o ∧ scr = false) ∨ (i = .lds o ∧ scr = true) → Accepted i s k →
    (∀ t s1, s.checkAccess k.c .load 0 n scr eas = (.error t, s1) →
      scr = true ∨ ¬ aligned ∨ (s.spots k.c .load 0 n false eas).2.1 = none → Traps i s k s1 t)
    ∧ (∀ sp e s1, scr = false → aligned → s.spots k.c .load 0 n false eas = (sp, some e, s1) →
      (s.accReady k.c (lds sp) false false = false → Holds i s (s.askEntries k.c false (lds sp)))
      ∧ (s.accReady k.c (lds sp) false false = true → ∀ t s2, s.checkAccess k.c .load 0 n false eas = (.error t, s2) →
          Traps i s k (s2.touchLanes k.c n o.cp (lds sp)) t))
    ∧ (∀ sp s1, aligned → s.spots k.c .load 0 n scr eas = (sp, none, s1) → s1.poisonedSpot k.c n sp = none →
        Issues i s k s1 (.load o.d o.wt (o.wt == 1 || o.wt == 3) (lds sp) o.cp)))
  ∧ (∀ i scr, (i = .st o ∧ scr = false) ∨ (i = .sts o ∧ scr = true) → Accepted i s k →
    (∀ t s1, s.checkAccess k.c .store 0 n scr eas = (.error t, s1) → Traps i s k s1 t)
    ∧ (∀ sp s1, aligned → s.spots k.c .store 0 n scr eas = (sp, none, s1) → plain →
        Issues i s k (dirtied s1 sp) (.store o.wt (lds sp) o.cp)))
  ∧ (∀ i kind, (i = .atom o ∧ kind = .atom) ∨ (i = .red o ∧ kind = .red) → Accepted i s k →
    (∀ t s1, s.checkAccess k.c kind o.aop n false eas = (.error t, s1) → Traps i s k s1 t)
    ∧ (∀ sp s1, aligned → s.spots k.c kind o.aop n false eas = (sp, none, s1) → s1.poisonedSpot k.c n sp = none → plain →
        Issues i s k (dirtied s1 sp) (.atom (kind == .atom) o.d o.wt o.aop (s.prime k) (ops sp))))
  ∧ (∀ i, i = .pref o ∨ i = .cwb o ∨ i = .cinv o → Accepted i s k → ∀ sp t s1,
      s.spots k.c .load 0 1 false eas = (sp, t, s1) →
      let lines := sp.filterMap fun x => match x.place with
        | .phys pa nc => if rangeOf pa = .device then some (pa / 192, nc) else none
        | .scratch _ => none
      (i ≠ .pref o → ∀ e, t = some e → Traps i s k s1 e)
      ∧ ((i = .pref o ∨ t = none) → ∃ acc,
          Issues i s k s1 (if i = .pref o then .pref acc o.cp else .cwb (i == .cinv o) acc)
          ∧ ((acc.map fun a => match a.place with
              | .phys pa nc => (pa / 192, nc)
              | .scratch _ => (0, false)).Nodup)
          ∧ ∀ e, e ∈ lines ↔ ∃ a ∈ acc, ∃ pa nc, a.place = .phys pa nc ∧ rangeOf pa = .device ∧ (pa / 192, nc) = e))

/-- R88: while a flag of the clause stands at 63, a store or an atomic is held before its checks, a load after them. -/
def Says.MemoryIssueHeld : Prop := ∀ (s : State) (k : Issuer) (o : OpM), ¬ Room s k →
  (∀ i, i = .st o ∨ i = .sts o ∨ i = .atom o ∨ i = .red o → Accepted i s k → Holds i s s)
  ∧ ∀ i scr sp s1, (i = .ld o ∧ scr = false) ∨ (i = .lds o ∧ scr = true) → Accepted i s k →
    s.checkAccess k.c .load 0 (wtBytes o.wt) scr (k.eas o) = (.ok sp, s1) → Holds i s s1

/-- R173, R174, R176: the completion of loads and stores of an unversioned unit, on coherent device memory and in the
scratchpad: what each lane reads or writes, the last lane's byte where lanes overlap, and nothing else in memory or in the
group's registers; and while a line cannot be accessed, the operation waits and asks for the snoop-filter entries that its
accesses need (R49). -/
def Says.LoadStoreCompletion : Prop := ∀ (s : State) (op : Nat) (o : Op) (g : Group) (c : Crew), InFlight s op o g c →
  c.versioned = false →
  let word (wt v i : Nat) : Word := match wt with
    | 1 => BitVec.signExtend 32 (BitVec.ofNat 8 v)
    | 3 => BitVec.signExtend 32 (BitVec.ofNat 16 v)
    | _ => BitVec.ofNat 32 (v / 2 ^ (32 * i))
  let lanesOk (acc : List LaneAcc) := (acc.map fun a => a.lane).Nodup ∧ ∀ a ∈ acc, a.lane < 96
  let inMem (n : Nat) (acc : List LaneAcc) := ∀ a ∈ acc, ∃ pa, a.place = .phys pa false ∧ pa + n ≤ 0xC000000000
  let inScr (n : Nat) (acc : List LaneAcc) := ∀ a ∈ acc, ∃ b, a.place = .scratch b ∧ (s.scratchKeys c b n).Nodup
  (∀ w acc, ((∃ d wt sg cp, o.kind = .load d wt sg acc cp ∧ w = false) ∨ ∃ wt cp, o.kind = .store wt acc cp ∧ w = true) →
    inMem 1 acc → s.accReady c acc w false = false → exec (.operationComplete op) s = .next (s.askEntries c w acc))
  ∧ (∀ d wt sg acc cp, o.kind = .load d wt sg acc cp → lanesOk acc → inMem (wtBytes wt) acc →
    s.accReady c acc false false = true → s.accPoisoned c (wtBytes wt) acc = none →
    (∀ l ∈ (s.cluster c.cluster).cache, l.dirty = 0) →
    ∃ t g', Performs op s o t ∧ t.group? o.gid = some g' ∧ (∀ a, t.rdB a = s.rdB a)
      ∧ RegsKept g g' (fun r l => d ≤ r ∧ r < d + wtRegs wt ∧ ∃ a ∈ acc, a.lane = l)
      ∧ ∀ a ∈ acc, ∀ pa, a.place = .phys pa false → ∀ i < wtRegs wt,
        g'.rdV (d + i) a.lane = word wt (ofBytes ((List.range (wtBytes wt)).map fun j => s.rdB (pa + j))) i)
  ∧ (∀ d wt sg acc cp, o.kind = .load d wt sg acc cp → lanesOk acc → inScr (wtBytes wt) acc →
    s.accPoisoned c (wtBytes wt) acc = none →
    ∃ g', Performs op s o (s.setGroup g') ∧ g'.gid = g.gid
      ∧ RegsKept g g' (fun r l => d ≤ r ∧ r < d + wtRegs wt ∧ ∃ a ∈ acc, a.lane = l)
      ∧ ∀ a ∈ acc, ∀ b, a.place = .scratch b → ∀ i < wtRegs wt, g'.rdV (d + i) a.lane
        = word wt (ofBytes ((s.scratchKeys c b (wtBytes wt)).map fun x => NMap.get 0 (s.cluster c.cluster).scratch x)) i)
  ∧ (∀ wt acc cp, o.kind = .store wt acc cp → inMem (wtBytes wt) acc → s.accReady c acc true false = true →
    ∃ t g', Performs op s o t ∧ t.group? o.gid = some g' ∧ g'.v = g.v ∧ g'.sr = g.sr
      ∧ (∀ x, (∀ a ∈ acc, ∀ pa, a.place = .phys pa false → x < pa ∨ pa + wtBytes wt ≤ x) → t.rdB x = s.rdB x)
      ∧ ∀ pre a post pa i, acc = pre ++ a :: post → a.place = .phys pa false → i < wtBytes wt →
        (∀ b ∈ post, ∀ pb, b.place = .phys pb false → pa + i < pb ∨ pb + wtBytes wt ≤ pa + i) →
        t.rdB (pa + i) = byteAt a.data i)
  ∧ (∀ wt acc cp, o.kind = .store wt acc cp → inScr (wtBytes wt) acc →
    ∃ t, Performs op s o t ∧ { t with clusters := [] } = { s with clusters := [] }
      ∧ (∀ d, d ≠ c.cluster → t.cluster d = s.cluster d)
      ∧ { t.cluster c.cluster with scratch := [] } = { s.cluster c.cluster with scratch := [] }
      ∧ (∀ x, (∀ a ∈ acc, ∀ b, a.place = .scratch b → x ∉ s.scratchKeys c b (wtBytes wt)) →
        NMap.get 0 (t.cluster c.cluster).scratch x = NMap.get 0 (s.cluster c.cluster).scratch x)
      ∧ ∀ pre a post b i, acc = pre ++ a :: post → a.place = .scratch b → i < wtBytes wt →
        (∀ z ∈ post, ∀ bz, z.place = .scratch bz → s.scratchAt c (b + i) ∉ s.scratchKeys c bz (wtBytes wt)) →
        NMap.get 0 (t.cluster c.cluster).scratch (s.scratchAt c (b + i)) = byteAt a.data i)

/-- R178 to R182, Table 07-5: the value each atomic operation makes, and a whole ATOM or RED of an unversioned unit on device
memory: the lanes in ascending order, each finding what the lanes before it left; a packed pair in two events, one for each half
(which comes first is log 96's), whose old values its result joins. -/
def Obligations.AtomicCompletion : Prop :=
  (∀ n p m d c, (n = 4 ∨ n = 8) → m < 256 ^ n → d < 256 ^ n →
    let v a := atomNew a n p m d c
    v 0 = (m + d) % 256 ^ n ∧ sgn (8 * n) (v 1) = min (sgn (8 * n) m) (sgn (8 * n) d) ∧ v 2 = min m d
    ∧ sgn (8 * n) (v 3) = max (sgn (8 * n) m) (sgn (8 * n) d) ∧ v 4 = max m d
    ∧ (∀ j, (v 5).testBit j = (m.testBit j && d.testBit j)) ∧ (∀ j, (v 6).testBit j = (m.testBit j || d.testBit j))
    ∧ (∀ j, (v 7).testBit j = (m.testBit j != d.testBit j)) ∧ v 8 = d ∧ v 9 = (if m = c then d else m)
    ∧ (∃ z, IsSum .rn (Fmt.f32.decode m) (Fmt.f32.decode d) z ∧ v 10 = convert z .f32 .rn false 0)
    ∧ (∀ a f, (a = 11 ∧ f = Fmt.bf16) ∨ (a = 12 ∧ f = Fmt.f16) → ∃ z w,
        IsSum .rn (f.decode (m % 65536)) (f.decode (d % 65536)) z
        ∧ IsSum .rn (f.decode (m / 65536)) (f.decode (d / 65536)) w
        ∧ v a = convert z f .rn false 0 + 65536 * convert w f .rn false 0)
    ∧ (0 < p → v 13 % 2 ^ 32 + v 13 / 2 ^ 32 * p
        = (m % 2 ^ 32 + m / 2 ^ 32 * p + d % 2 ^ 32 + d / 2 ^ 32 * p) % (p * p) ∨ 2 ^ 32 < p))
  ∧ (∀ (f : Fmt) (m d : Nat), ∃ z, IsSum .rn (f.decode m) (f.decode d) z ∧ floatSum f m d = convert z f .rn false 0)
  ∧ ∀ (s : State) (op : Nat) (o : Op) (g : Group) (c : Crew) ret d wt aop p acc, InFlight s op o g c → c.versioned = false →
    (wt = 4 ∨ wt = 5) → (acc.map fun a => a.lane).Nodup → (∀ a ∈ acc, a.lane < 96) →
    (∀ a ∈ acc, ∃ pa nc, a.place = .phys pa nc ∧ pa + wtBytes wt ≤ 0xC000000000) →
    s.accReady c acc true true = true → s.accPoisoned c (wtBytes wt) acc = none →
    (o.kind = .atom ret d wt aop p acc → aop ≠ 11 → aop ≠ 12 →
      let r := AtomFold (fun a m => atomNew aop (wtBytes wt) p m a.data a.cmp) (wtBytes wt) acc s.rdB
      ∃ t g', Performs op s o t ∧ t.group? o.gid = some g' ∧ (∀ x, t.rdB x = r.2 x)
        ∧ RegsKept g g' (fun x l => ret = true ∧ d ≤ x ∧ x < d + wtRegs wt ∧ ∃ a ∈ acc, a.lane = l)
        ∧ (ret = true → ∀ e ∈ r.1, ∀ i < wtRegs wt, g'.rdV (d + i) e.1 = BitVec.ofNat 32 (e.2 / 2 ^ (32 * i))))
    ∧ (wt = 4 → (aop = 11 ∨ aop = 12) →
      let part (h : Nat) := AtomFold (fun a m => floatSum (if aop = 11 then .bf16 else .f16) m (a.data / 2 ^ (16 * h) % 65536)) 2
        (acc.map fun a => { a with place := a.place.plus (2 * h) }) s.rdB
      (o.kind = .atom ret d wt aop p acc → ∃ h, h < 2 ∧ ∃ t g', exec (.operationComplete op) s = .next t ∧ t.group? o.gid = some g'
        ∧ g'.v = g.v ∧ g'.sr = g.sr ∧ (∀ x, t.rdB x = (part h).2 x)
        ∧ t.op? op = some { o with kind := .pair ret d aop (1 - h) acc (part h).1 })
      ∧ ∀ h got, h < 2 → o.kind = .pair ret d aop h acc got → got.map Prod.fst = acc.map (fun a => a.lane) →
        ∃ t g', Performs op s o t ∧ t.group? o.gid = some g' ∧ (∀ x, t.rdB x = (part h).2 x)
        ∧ RegsKept g g' (fun x l => ret = true ∧ x = d ∧ ∃ a ∈ acc, a.lane = l)
        ∧ (ret = true → ∀ (l a b : Nat), (l, a) ∈ got → (l, b) ∈ (part h).1 →
          g'.rdV d l = BitVec.ofNat 32 (if h = 1 then a + b * 65536 else b + a * 65536)))

/-- R53, R186: the completion of a prefetch, and of CWB and CINV on a line: the dirty sectors of an NC line go to its home,
and CINV drops the cluster's copy. -/
def Says.MaintenanceCompletion : Prop := ∀ (s : State) (op : Nat) (o : Op) (g : Group) (c : Crew), InFlight s op o g c →
  (∀ acc cp, o.kind = .pref acc cp → (∀ l ∈ (s.cluster c.cluster).cache, l.dirty = 0) →
    ∃ t, Performs op s o t ∧ ∀ a, t.rdB a = s.rdB a)
  ∧ (∀ inv a pa nc, o.kind = .cwb inv [a] → a.place = .phys pa nc →
    ((s.cluster c.cluster).holds (pa / 192) nc = none → Performs op s o s)
    ∧ (∀ l, (s.cluster c.cluster).holds (pa / 192) nc = some l → l.data.length ≤ 192 → s.canWriteBack l = true →
      ∃ t, Performs op s o t
        ∧ (inv = true → (t.cluster c.cluster).holds (pa / 192) nc = none)
        ∧ (∀ i b, l.data[i]? = some b → l.dirty.getLsbD (i / 48) = true → t.rdB (192 * (pa / 192) + i) = b)
        ∧ ∀ x, (∀ i b, l.data[i]? = some b → l.dirty.getLsbD (i / 48) = true → x ≠ 192 * (pa / 192) + i) → t.rdB x = s.rdB x))

/-- R188 to R192: bank modes and FIFO slots, at issue and at completion. A slot's turn is an operation's when its FULL and PH
are as the operation waits for and no earlier operation on the slot could be served; until then the operation waits. The hold of
an access while a BANKCFG names its bank, and the effect of an empty EXEC, are log 32's. -/
def Obligations.BanksAndFifos : Prop := ∀ (s : State) (k : Issuer), Room s k →
  let bank (i : Nat) := (s.cluster k.c.cluster).bank i
  (∀ o : OpE, Accepted (.bankcfg o) s k →
    let mask := k.s o.a
    let m := bankModeOf (o.bits 1 0)
    let others := s.crews.any fun c => c.cluster == k.c.cluster && c.ctx != k.c.ctx && s.groups.any fun g => g.cid == c.cid && !g.retired
    let foreign := (List.range 32).any fun i => mask.getLsbD i && (bank i).mode == .fifo && (bank i).owner != some k.c.ctx
    let count (f : Nat → BankMode) := ((List.range 32).filter fun i => f i == .scratch).length
    let moved := count (fun i => if mask.getLsbD i then m else (bank i).mode) ≠ count (fun i => (bank i).mode)
      ∧ ∃ c ∈ s.crews, c.cluster = k.c.cluster ∧ 0 < c.scratchSize
    let full := ∃ i < 32, mask.getLsbD i = true ∧ (bank i).mode = .fifo ∧ m ≠ .fifo
      ∧ ((bank i).slots.any (fun e => e.2.full) = true ∨ s.fifoBusy k.c.cluster i = true)
    (s.bankBusy k.c.cluster ≠ none → Holds (.bankcfg o) s s)
    ∧ (s.bankBusy k.c.cluster = none →
      (others = true ∨ foreign = true → Traps (.bankcfg o) s k s { cause := 0x06 })
      ∧ (others = false → foreign = false → moved ∨ full → Traps (.bankcfg o) s k s { cause := 0x10 })
      ∧ (others = false → foreign = false → ¬ moved → ¬ full → Issues (.bankcfg o) s k s (.bankcfg mask (o.bits 1 0)))))
  ∧ (∀ (o : OpM) i kind, (i = .fpush o ∧ kind = fun b sl ph => OpKind.fpush b sl ph (k.lanes.map fun l => (l, k.g.rdV o.d l)))
        ∨ (i = .fpop o ∧ kind = fun b sl ph => OpKind.fpop b sl ph o.d k.p.exec) → Accepted i s k →
    let b := o.off.toNat % 32
    let it := (k.s64 o.b).toNat
    (k.p.exec = 0 → Issues i s k s .done)
    ∧ (k.p.exec ≠ 0 → (∃ m, s.bankBusy k.c.cluster = some m ∧ m.getLsbD b = true) → Holds i s s)
    ∧ (k.p.exec ≠ 0 → (∀ m, s.bankBusy k.c.cluster = some m → m.getLsbD b = false) →
      ((bank b).mode ≠ .fifo → Traps i s k s { cause := 0x10 })
      ∧ ((bank b).mode = .fifo → (bank b).owner ≠ some k.c.ctx → Traps i s k s { cause := 0x06 })
      ∧ ((bank b).mode = .fifo → (bank b).owner = some k.c.ctx → Issues i s k s (kind b (it % 128) (it / 128 % 2)))))
  ∧ ∀ (op : Nat) (o : Op) (g : Group) (c : Crew), InFlight s op o g c →
    let cl := s.cluster c.cluster
    cl.banks.length = 32 →
    let fits (x : Op) (b i : Nat) : Prop := (∃ ph data, x.kind = .fpush b i ph data ∧ ((cl.bank b).slot i).full = false
        ∧ ((cl.bank b).slot i).ph.toNat = ph)
      ∨ ∃ ph d lanes, x.kind = .fpop b i ph d lanes ∧ ((cl.bank b).slot i).full = true ∧ ((cl.bank b).slot i).ph.toNat = ph
    (∀ b i, (∃ ph data, o.kind = .fpush b i ph data) ∨ (∃ ph d lanes, o.kind = .fpop b i ph d lanes) →
      (s.fifoTurn c.cluster o = true ↔ fits o b i ∧ ∀ x ∈ s.ops, x.id < o.id → (∀ g' c', s.group? x.gid = some g' →
        s.crew? g'.cid = some c' → c'.cluster = c.cluster → ¬ fits x b i))
      ∧ (s.fifoTurn c.cluster o = false → exec (.operationComplete op) s = .next s))
    ∧ (∀ mask mode, o.kind = .bankcfg mask mode → (∀ l ∈ cl.cache, l.dirty = 0) → ∃ t, Performs op s o t
      ∧ (∀ a, t.rdB a = s.rdB a)
      ∧ (∀ i < 32, mask.getLsbD i = true → ((t.cluster c.cluster).bank i).mode = bankModeOf mode
          ∧ ((t.cluster c.cluster).bank i).auto = false)
      ∧ (∀ i < 32, mask.getLsbD i = false → (t.cluster c.cluster).bank i = cl.bank i)
      ∧ (∀ l, l ∈ (t.cluster c.cluster).cache ↔ l ∈ cl.cache ∧ ¬ (l.way < 32 ∧ mask.getLsbD l.way = true
          ∧ (cl.bank l.way).mode = .cache ∧ bankModeOf mode ≠ .cache))
      ∧ ∀ x, NMap.get 0 (t.cluster c.cluster).scratch x =
        if x / 49152 < 32 ∧ mask.getLsbD (x / 49152) = true ∧ (cl.bank (x / 49152)).mode ≠ bankModeOf mode then 0
        else NMap.get 0 cl.scratch x)
    ∧ (∀ b i ph data, o.kind = .fpush b i ph data → b < 32 → (data.map Prod.fst).Nodup → s.fifoTurn c.cluster o = true →
      ∃ t, Performs op s o t ∧ { t with clusters := [] } = { s with clusters := [] }
        ∧ let x := ((t.cluster c.cluster).bank b).slot i
          x.full = true ∧ x.ph = ((cl.bank b).slot i).ph ∧ (∀ e ∈ data, NMap.get 0 x.words e.1 = e.2)
          ∧ (∀ l, l ∉ data.map Prod.fst → NMap.get 0 x.words l = NMap.get 0 ((cl.bank b).slot i).words l)
          ∧ ∀ b' i', (b', i') ≠ (b, i) → ((t.cluster c.cluster).bank b').slot i' = (cl.bank b').slot i')
    ∧ (∀ b i ph d lanes, o.kind = .fpop b i ph d lanes → b < 32 → s.fifoTurn c.cluster o = true →
      ∃ t g', Performs op s o t ∧ { t with clusters := [], groups := [] } = { s with clusters := [], groups := [] }
        ∧ t.group? o.gid = some g' ∧ RegsKept g g' (fun r l => r = d ∧ lanes.getLsbD l = true)
        ∧ (∀ l < 96, lanes.getLsbD l = true → g'.rdV d l = NMap.get 0 ((cl.bank b).slot i).words l)
        ∧ let x := ((t.cluster c.cluster).bank b).slot i
          x.full = false ∧ x.ph = (!((cl.bank b).slot i).ph) ∧ x.words = ((cl.bank b).slot i).words)

/-! ### Encoding -/

/-- Words of the spec's own examples (chapters 04 to 16) and what they decode to. -/
def Obligations.SpecWordsDecode : Prop :=
  decode 0x4220601F7E000000 0x3FC00000 = .ok (.fmul
      { s := false, keep := 1, d := 6, a := .reg 7, b := .code 0x17E,
        c := .reg 0, rnd := .rn, typ := .dflt, sub := 0, lit := 0x3FC00000 })
  ∧ decode 0x00003004020001C1 0 = .ok (.iadd
      { s := false, keep := 0, d := 3, a := .reg 1, b := .reg 2, c := .reg 0,
        rnd := .rn, typ := .n32, sub := 1, lit := 0 })
  ∧ decode 0x54004004000023C0 0 = .ok (.cvt
      { s := false, keep := 0, d := 4, a := .reg 1, b := .reg 0, c := .reg 0,
        rnd := .sr, typ := .bf16, sub := 0, lit := 0 })
  ∧ decode 0x7002030000081200 0 = .ok (.ld
      { d := 4, b := 12, bs := false, off := 0x40, wt := 4, sc := 4, cp := 0, aop := 0,
        rsv := false })
  ∧ decode 0x7402018000001216 0 = .ok (.atom
      { d := 4, b := 6, bs := false, off := 0, wt := 4, sc := 4, cp := 0, aop := 11,
        rsv := false })
  ∧ decode 0x2801000000000005 0 = .ok (.brc
      { reg := 2, rk := false, cond := 0, rsv := 0, disp := 5 })
  ∧ decode 0x2E0F800000000000 0 = .ok (.rep
      { n := 3, step := 14, rsv := 0 })
  ∧ decode 0x9201800000000043 0 = .ok (.nbarinit
      { d := 3, a := 0, b := 0, c := 0, fs := 0, mode := 0x43 })
  ∧ decode 0xA100801000000003 0 = .ok (.hdec
      { s := false, keep := 0, d := 8, a := .reg 4, b := .reg 0, c := .reg 0,
        rnd := .rn, typ := .dflt, sub := 3, lit := 0 })
  ∧ decode 0xB703010000720004 0 = .ok (.cmpr
      { d := 6, a := 4, b := 0, c := 7, fs := 1, mode := 4 })
  ∧ decode 0xC90A014001600001 0 = .ok (.cbstatLife
      { d := 20, a := 5, b := 0, c := 22, fs := 0, mode := 1 })
  ∧ decode 0xC80A020140C60005 0 = .ok (.cbmvm
      { d := 20, a := 8, b := 10, c := 12, fs := 3, mode := 5 })
  ∧ decode 0xD102828180000000 0 = .ok (.cpyl
      { d := 5, a := 10, b := 12, c := 0, fs := 0, mode := 0 })

/-- R90 to R100, R112, Tables 04-4 to 04-12: every instruction whose fields fit its format decodes from its own words, with
every operand at every value the encoding admits. -/
def Obligations.DecodeOfEncode : Prop := ∀ i : Instr, i.encodable = true → decodeWords (encode i) = some i

/-- Every word (with the word after it, where it carries a literal) that decodes is the encoding of the instruction it
decodes to: no bit of a word is dropped. -/
def Says.EncodeOfDecode : Prop := ∀ (w lit : DWord) (i : Instr), decode w lit = .ok i →
  i.encodable = true ∧ encode i = if carriesLit w then [w, lit] else [w]

/-- R102, Table 04-14: every unassigned opcode is rejected by name and takes cause 0x01, an assigned opcode decodes to an
instruction of that opcode, or is rejected as a selector without a row, which takes
cause 0x02, or 0x01 where a field of every row fails first. -/
def Says.UnassignedWords : Prop := ∀ (w lit : DWord),
  let op := w.toNat / 2 ^ 56
  let free : Prop := (0x35 ≤ op ∧ op ≤ 0x3F) ∨ (0x60 ≤ op ∧ op ≤ 0x6F) ∨ (0x7C ≤ op ∧ op ≤ 0x8F) ∨ (0x99 ≤ op ∧ op ≤ 0x9F)
    ∨ (0xAB ≤ op ∧ op ≤ 0xAF) ∨ (0xB9 ≤ op ∧ op ≤ 0xBF) ∨ (0xCA ≤ op ∧ op ≤ 0xCF) ∨ (0xDB ≤ op ∧ op ≤ 0xDF)
    ∨ (0xE3 ≤ op ∧ op ≤ 0xE7) ∨ (0xF3 ≤ op ∧ op ≤ 0xF7)
  (free → decode w lit = .error (.unassigned op) ∧ (Reject.unassigned op).cause = 0x01)
  ∧ (¬ free → (∃ i, decode w lit = .ok i ∧ i.opcode = some op)
    ∨ ∃ c, decode w lit = .error (.selector op c) ∧ (c = 0x01 ∨ c = 0x02))

/-- R104, Table 04-16: orders 5 to 7 of the checks, for every instruction: a failing encoding check traps with its cause
before anything else happens, and a register at or beyond its bound with cause 0x03. -/
def Obligations.EncodingTraps : Prop := ∀ (i : Instr) (s : State) (k : Issuer), i.opcode ≠ none → s.issuer = some k →
  (∀ c, encCheck i = some c → Traps i s k s { cause := c } ∧ (c = 0x01 ∨ c = 0x02))
  ∧ (encCheck i = none → boundBad i k.g.count = true → Traps i s k s { cause := 0x03 })

/-! ### Steps -/

/-- R85, R99: a step that is a split's turn within a clause (given by name, or chosen) runs the instruction that its word
decodes to, its fields stepped in a repeat; a word that decodes to none traps. -/
def Says.StepDecodes : Prop := ∀ (s s0 : State) (g n : Nat) (x : Group) (p : Split) (c : Clause), Turn s g n s0 →
  s0.group? g = some x → x.split? n = some p → p.cl = some c →
  let w := nth 0 c.words (p.widx - 1)
  let lit := nth 0 c.words p.widx
  (∀ i, decode w lit = .ok i → p.rep.act = false → step s = exec i s0)
  ∧ (∀ i j cr, decode w lit = .ok i → p.rep.act = true → s0.crew? x.cid = some cr →
      decodeWith (p.rep.bump (s0.widths cr i)) w lit = .ok j → step s = exec j s0)
  ∧ (∀ e, decode w lit = .error e → step s = .next (s0.raise g n { cause := e.cause, opc := w.toNat / 2 ^ 56 }))

/-- R85, R87, R104: a step that is the turn of a split at a clause boundary (one split, nothing owed, nothing to pop or merge)
reads the clause's words from memory through its context's translation and checks the clause, which traps where a check fails;
where no flag of WAIT is set it runs the first instruction in the same step, and else it changes nothing. -/
def Says.StepStartsClause : Prop := ∀ (s s0 : State) (g n : Nat) (x : Group) (p : Split) (c : Crew) (h : DWord)
    (ws : List DWord) (at_ : Nat → Xlate), Turn s g n s0 →
  s0.group? g = some x → x.splits = [p] → p.num = n →
  s0.crew? x.cid = some c → x.runs = true → x.endReq = false → (s0.ctx c.ctx).halt = none →
  p.cl = none → p.retained = none → p.hold = .none → p.owed = [] → p.stack = [] → p.entry = 0 → p.rep.act = false →
  let s1 := s0.setGroup x
  (∀ j ≤ ws.length, s1.translate c.ctx (p.pc + BitVec.ofNat 64 (8 * j)).toNat .fetch = (.ok (at_ j), s1)) →
  (∀ j ≤ ws.length, s1.poisoned (at_ j).pa 8 = false) →
  (∀ j ≤ ws.length, s1.rdN (at_ j).pa 8 = (nth 0 (h :: ws) j).toNat) → hdrLen h = ws.length →
  (∀ cause, clauseFault h ws 0 = some cause → let t := s1.raise g n { cause := cause, fetch := true }
    exec (.clauseStart g n) s0 = .next t ∧ step s = .next t)
  ∧ (clauseFault h ws 0 = none →
    let inside := s1.setGroup { x with splits := [{ p with cl := some { hdr := h, words := ws }, widx := 1, yieldTo := [] }] }
    (s1.waitMet g n h = true → exec (.clauseStart g n) s0 = .next inside
      ∧ ∀ i, decode (nth 0 ws 0) (nth 0 ws 1) = .ok i → step s = exec i inside)
    ∧ (s1.waitMet g n h = false → exec (.clauseStart g n) s0 = .next s1 ∧ step s = .next s1))

/-- R87, R88, R100, R104: the checks of a clause before its first instruction issues (orders 2 and 3 of Table 04-16): the
signature, LEN, the SET fields, clause enders and REP in their places, and the reserved bits; and WAIT: no operation of the
split counts against a flag that it names. -/
def Says.ClauseChecks : Prop := ∀ (h : DWord) (ws : List DWord),
  let sets (f : Nat) := f = 12 ∨ f = 13 ∨ f = 14
  (h.toNat / 2 ^ 56 ≠ 0xCA ∨ h.toNat % 16 = 0 ∨ sets (h.toNat / 2 ^ 16 % 16) ∨ sets (h.toNat / 2 ^ 20 % 16) →
    clauseFault h ws 0 = some 0x0F)
  ∧ (wordsOk ws false = false → clauseFault h ws 0 = some 0x0F)
  ∧ (h.toNat / 2 ^ 56 = 0xCA → h.toNat % 16 ≠ 0 → ¬ sets (h.toNat / 2 ^ 16 % 16) → ¬ sets (h.toNat / 2 ^ 20 % 16) →
    wordsOk ws false = true → clauseFault h ws 0 = if h.toNat / 2 ^ 25 % 2 ^ 31 = 0 then none else some 0x02)
  ∧ (∀ w v us, carriesLit w = false → (0x27 ≤ w.toNat / 2 ^ 56 ∧ w.toNat / 2 ^ 56 ≤ 0x2D) ∨ w.toNat / 2 ^ 56 = 0xF9 →
    wordsOk (w :: v :: us) false = false)
  ∧ (∀ w, w.toNat / 2 ^ 56 = 0x2E → wordsOk [w] false = false)
  ∧ (∀ w v us, w.toNat / 2 ^ 56 = 0x2E → v.toNat / 2 ^ 56 = 0x2E → wordsOk (w :: v :: us) false = false)
  ∧ (∀ w, carriesLit w = true → wordsOk [w] false = false)
  ∧ (∀ w lit us, carriesLit w = true → wordsOk (w :: lit :: us) false = wordsOk us false)
  ∧ (∀ w us, carriesLit w = false → w.toNat / 2 ^ 56 ≠ 0x2E → w.toNat / 2 ^ 56 ≠ 0xF9 →
    (w.toNat / 2 ^ 56 < 0x27 ∨ 0x2D < w.toNat / 2 ^ 56) → wordsOk (w :: us) false = wordsOk us false)
  ∧ ∀ (s : State) (g n : Nat),
    (s.waitMet g n h = true ↔ ∀ f < 12, (h.toNat / 2 ^ 4 % 2 ^ 12).testBit f = true → s.flagCount g n f = 0)
    ∧ ∀ f, (s.flagCount g n f = 0 ↔ ∀ o ∈ s.ops, o.gid = g → (n, f) ∉ o.charges)

/-- R10, R30, R88, R89, R119, R382, R388, R401, R415, R424, R429: a split is chosen only where its group is neither parked,
stopped nor retired, no hold keeps it, no split that it gives way to or that was passed over before it is to go first, and, at
a clause boundary with nothing owed, it has a pop to make, or another split to merge with (R20), or its next clause faults, or no
flag that the clause's WAIT names is set; nor is one chosen while a slice holds more than its 65,536 lines (R2, log 119); a device
whose clocks are stopped, that is contained, or that has failed its boot chooses none. Where the context is
halted, the turn of a split at its clause boundary stops it. The order of turns is log 1's. -/
def Obligations.IssueOnlyWhenReady : Prop := ∀ (s : State) (g n : Nat), s.next = some (.split g n) →
  (s.tripped = false ∧ s.contained = none ∧ s.bootFailed = false ∧ ∃ x ∈ s.groups, ∃ p ∈ x.splits, x.gid = g ∧ p.num = n
    ∧ x.retired = false ∧ x.parked = none ∧ x.stopped = false ∧ p.retained = none ∧ p.hold.stops = false
    ∧ (∀ e, e ∈ p.yieldTo → ∀ y q, s.group? e.1 = some y → y.split? e.2 = some q → s.ready y (s.ctxOf y) q = false)
    ∧ (∀ e, e ∈ p.passed → ∀ y q, s.group? e.1 = some y → y.split? e.2 = some q → s.ready y (s.ctxOf y) q = true →
      ∃ f ∈ q.yieldTo, ∃ z r, s.group? f.1 = some z ∧ z.split? f.2 = some r ∧ s.ready z (s.ctxOf z) r = true)
    ∧ (p.cl = none → p.owed = [] → x.endReq = false → p.popped = p → x.paused p = false
      ∧ ((∃ q ∈ x.splits, q.num ≠ n ∧ q.pc = p.pc ∧ q.stack.length = p.stack.length ∧ q.cl = none ∧ q.retained = none ∧ q.owed = []
          ∧ ∀ r, r = p ∨ r = q → r.rep.act = false ∧ r.hmode = false)
        ∨ ∀ c, s.nextClause (s.ctxOf x) p = .ok c → ∀ f < 12, (c.hdr.toNat / 2 ^ 4 % 2 ^ 12).testBit f = true →
          s.flagCount g n f = 0))
    ∧ ∀ sl < 32, (s.sliceHeld sl).length ≤ 65536)
  ∧ ∀ x p c, s.agenda = [] → s.group? g = some x → x.split? n = some p → s.crew? x.cid = some c → x.runs = true → p.cl = none →
    p.retained = none → p.hold = .none → (s.ctx c.ctx).halt ≠ none →
    ∃ t y q, step s = .next t ∧ t.mem = s.mem ∧ t.group? g = some y ∧ y.split? n = some q ∧ q.hold = .halted ∧ q.cl = none
      ∧ q.pc = p.pc ∧ q.exec = p.exec ∧ y.sr = x.sr ∧ y.v = x.v

/-- Every instruction and event has a meaning: the machine goes on from every state, and the one stop is an instruction that
nobody issues (log 28). So a step goes on wherever the instruction that it executes has an issuer: at the turn of a split
whose crew is resident, and at every event. -/
def Obligations.NothingIsRefused : Prop :=
  (∀ (i : Instr) (s : State), Goes (exec i s) ∨ (exec i s = .fault .noIssuer ∧ s.issuer = none ∧ i.opcode ≠ none))
  ∧ ∀ s : State, (Goes (step s) ∨ step s = .fault .noIssuer)
    ∧ (∀ g n s0 x c, Turn s g n s0 → s0.group? g = some x → s0.crew? x.cid = some c → Goes (step s))
    ∧ (∀ i l, s.agenda = i :: l → i.opcode = none → (∀ g n, i ≠ .clauseStart g n) → Goes (step s))
    ∧ (∀ c, s.agenda = [] → s.next = some c → (∀ g n, c ≠ .split g n) → (∀ i, c = .event i → i.opcode = none) → Goes (step s))
    ∧ (s.agenda = [] → s.next = none → Goes (step s))

/-- R14, R30, R415, R424, R429: the agenda's first event is the next step's, what is chosen is done (an event, an answer of a
home, an early write, a request at the host's port), and a machine with nothing to do stays as it is; in containment and in
boot failure only the reference periods and the host's port go on.
What has been passed over for longer than the device's patience comes first, and what must happen and was passed over has
waited one step longer, so that it happens in finite time (log 1). -/
def Says.StepEvents : Prop := ∀ (s : State),
  (∀ i l, s.agenda = i :: l → (∀ g n, i ≠ .clauseStart g n) → step s = exec i { s with agenda := l, tick := s.tick + 1 })
  ∧ (∀ c, s.agenda = [] → s.next = some c → let s1 := { s.aged c with tick := s.tick + 1 }
      match c with
      | .event i => step s = exec i s1
      | .wake g n => step s = exec (.spuriousWake g n) s1
      | .drift x b => step s = exec (.driftMonitor x b) s1
      | .retain k => step s = exec (.retentionEnter k) s1
      | .home l => step s = .next (s1.homeGo l)
      | .early o => step s = .next (s1.early o)
      | .inbound => step s = .next s1.inboundGo
      | .replay l => step s = .next (s1.replayOn l)
      | .split _ _ => True)
  ∧ (s.agenda = [] → s.next = none → step s = .next s)
  ∧ (s.agenda = [] → s.tripped = true → step s = .next s)
  ∧ (∀ c, s.contained ≠ none ∨ s.bootFailed = true → s.next = some c → c = .inbound ∨ ∃ k, c = .event (.ebudgetRefill k))
  ∧ (∀ c, s.next = some c → c ∈ s.possible)
  ∧ (∀ c ∈ s.possible, Config.patience < s.waited c → ∃ x, s.next = some x ∧ s.waited c ≤ s.waited x)
  ∧ (∀ c x, x ∈ s.possible ∨ x ∈ s.allowed → x ≠ c → x.optional = false → (s.aged c).waited x = s.waited x + 1)

/-! ### Memory and reset -/

/-- R3, R32: bytes and little-endian numbers of memory read back as written, every other byte stays, and the form of the
memory is kept. -/
def Says.MemoryReadWrite : Prop := ∀ (s : State) (pa n v : Nat) (bs : List Byte),
  (∀ i b, bs[i]? = some b → (s.wrBytes pa bs).rdB (pa + i) = b)
  ∧ (∀ a, a < pa ∨ pa + bs.length ≤ a → (s.wrBytes pa bs).rdB a = s.rdB a)
  ∧ (s.wrN pa n v).rdN pa n = v % 256 ^ n
  ∧ (s.rdN pa n < 256 ^ n ∧ ∀ i < n, s.rdN pa n / 256 ^ i % 256 = (s.rdB (pa + i)).toNat)
  ∧ (Memory.wf s.mem = true → Memory.wf (s.wrBytes pa bs).mem = true)
  ∧ { s.wrBytes pa bs with mem := [] } = { s with mem := [] }

/-- Equal memories are equal data: two memories in the canonical form that read alike everywhere are the same list. -/
def Says.MemoryCanonical : Prop := ∀ m m' : List Host.Cell, Memory.wf m = true → Memory.wf m' = true →
  (∀ a, NMap.get unlisted m a = NMap.get unlisted m' a) → m = m'

/-- Every step keeps the canonical form of memory. -/
def Obligations.MemoryFormKept : Prop := ∀ s t : State, Memory.wf s.mem = true → step s = .next t → Memory.wf t.mem = true

/-- R37, R141, R311, R347, R355, R416, Table 17-6: the device after reset: device memory reads zero, no context is registered,
nothing is resident or in flight, every bank is in CACHE mode, tags and tokens are free, counts are 0, CAPW is 3,000. -/
def Obligations.Reset : Prop :=
  let r := State.reset
  (∀ a < 0xC000000000, r.rdB a = 0) ∧ Memory.wf r.mem = true ∧ (∀ c, (r.ctx c).registered = false ∧ (r.ctx c).ev = 0)
  ∧ r.groups = [] ∧ r.crews = [] ∧ r.ops = [] ∧ r.launches = []
  ∧ (∀ k, (r.cluster k).time = 0 ∧ (r.cluster k).retention = false ∧ (r.cluster k).cache = [] ∧ (r.cluster k).res = [])
  ∧ (∀ k i, i < 32 → ((r.cluster k).bank i).mode = .cache) ∧ (∀ l, (r.dirAt l).st = .u ∧ (r.dirAt l).sharers = 0)
  ∧ (∀ k a, NMap.get Acc.reset (r.core k).accs a = Acc.reset) ∧ (∀ k n, ((r.core k).tag n).cnt = 0 ∧ ((r.core k).tag n).done = false)
  ∧ (∀ x, (r.tile x).mode = .off ∧ (r.tile x).q = [] ∧ (r.tile x).tag = none)
  ∧ (∀ d, (r.die d).seq = 0 ∧ (r.die d).stamp = 0) ∧ r.bar0.capw = 3000 ∧ r.bar0.avgw = 0 ∧ r.bar0.throttle = false
  ∧ r.contained = none ∧ r.tripped = false ∧ r.poison = []

/-! ### Synchronisation -/

/-- R198, R199, R200, Table 08-3: a fence passes where no earlier operation of its split, or of a split divided off from it,
has a memory event short of the scope's point; else its word is held. An operation part of whose result stands already (log 95)
is waited for as it was before. -/
def Says.Fences : Prop := ∀ (s : State) (k : Issuer) (o : OpE), Accepted (.fence o) s k →
  let scope := o.bits 2 0
  let earlier (x : Op) := x.gid = k.g.gid ∧ (x.split = k.p.num ∨ k.p.num ∈ x.also) ∧ x.id < s.nextId
  let inside (acc : List LaneAcc) := ∃ a ∈ acc, ∀ pa nc, a.place = .phys pa nc → rangeOf pa = .device
  ((∀ x ∈ s.ops, earlier x → s.fenceHolds k.g.core scope x = false) → OnlyMoves (.fence o) s k)
  ∧ ((∃ x ∈ s.ops, earlier x ∧ s.fenceHolds k.g.core scope x = true) → Holds (.fence o) s s)
  ∧ ∀ x, (∀ d wt sg acc cp, x.kind = .load d wt sg acc cp →
        (s.fenceHolds k.g.core scope x = true ↔ scope = 5 ∨ inside acc))
    ∧ (∀ wt acc cp, x.kind = .store wt acc cp → (s.fenceHolds k.g.core scope x = true ↔ scope = 5 ∨ inside acc))
    ∧ (∀ r d wt a p acc, x.kind = .atom r d wt a p acc → (s.fenceHolds k.g.core scope x = true ↔ scope = 5 ∨ inside acc))
    ∧ (∀ r d a h acc got, x.kind = .pair r d a h acc got → (s.fenceHolds k.g.core scope x = true ↔ scope = 5 ∨ inside acc))
    ∧ (∀ acc cp, x.kind = .pref acc cp → s.fenceHolds k.g.core scope x = false)
    ∧ (x.kind = .mwait → s.fenceHolds k.g.core scope x = false)
    ∧ ((∃ c, x.kind = .copy c) ∨ (∃ c, x.kind = .sred c) ∨ (∃ d, x.kind = .update d) ∨ (∃ b i p w, x.kind = .fpush b i p w)
        ∨ (∃ b i p d l, x.kind = .fpop b i p d l) → s.fenceHolds k.g.core scope x = true)
    ∧ (∀ m, x.kind = .matrix → s.matrixCmd k.g.core x.id = some m → (s.fenceHolds k.g.core scope x = true ↔ m.need ≠ []))
    ∧ (∀ m, x.kind = .tile → s.tileCmd x.id = some m → (s.fenceHolds k.g.core scope x = true ↔ m.need ≠ []))
    ∧ (∀ v sr hs f tr, x.kind = .late v sr hs f tr → (s.fenceHolds k.g.core scope x = true ↔ f ≤ scope))

/-- R201: GBAR: the arrival of a split, held while some other live split of the group has not arrived; the last arrival lets
every live split go on. The instance has the narrowest scope among its arrivals. -/
def Says.GroupBarrier : Prop := ∀ (s : State) (k : Issuer) (o : OpE), Accepted (.gbar o) s k →
  s.fencePassed k.g k.p.num (o.bits 2 0) s.nextId = true → k.p.retained = none → k.p.hold = .none →
  let scope := if (∃ p ∈ k.g.splits, p.hold = .gbar) then min (o.bits 2 0) k.g.gbarScope else o.bits 2 0
  ((∃ p ∈ k.g.splits, p.num ≠ k.p.num ∧ p.retained = none ∧ p.hold ≠ .gbar) →
    exec (.gbar o) s = .next (s.setGroup { k.g.setSplit { k.p with hold := .gbar } with gbarScope := scope }))
  ∧ (k.g.splits = [k.p] →
    Answers (.gbar o) s s (withGroup k { k.g with gbarScope := scope }) noV noS fun _ p => p.hold = .none)
  ∧ ((∀ p ∈ k.g.splits, p.num ≠ k.p.num → p.retained = none → p.hold = .gbar) → (k.g.splits.map fun p => p.num).Nodup →
    ∃ t g, exec (.gbar o) s = .next t ∧ OutsideKept s t ∧ OthersKept s t k.g.gid ∧ t.group? k.g.gid = some g
      ∧ g.v = k.g.v ∧ g.sr = k.g.sr ∧ g.gbarScope = scope
      ∧ ∀ p ∈ k.g.splits, p.retained = none → ∃ q, g.split? p.num = some q ∧ q.hold = .none ∧ q.memb = p.memb
        ∧ q.exec = p.exec ∧ (p.cl ≠ none → q.pc ≠ p.pc ∨ q.widx ≠ p.widx ∨ q.rep ≠ p.rep ∨ q.cl = none))

/-- R22, R203 to R208: named barriers: initialisation, arrival, waiting for a phase (which is over at once where the phase differs
already), and both at once. -/
def Says.NamedBarriers : Prop := ∀ (s : State) (k : Issuer) (o : OpE),
  let b := k.c.bar o.d
  let named := o.d < k.c.bars.length
  let ready := b.arrived.getLsbD k.g.gidx = false ∧ s.fencePassed k.g k.p.num b.scope s.nextId = true
  let arrived := s.setCrew (k.c.setBar o.d (Arrived b k.g.gidx))
  (∀ i, i = .nbarinit o ∨ i = .nbararr o ∨ i = .nbarwait o ∨ i = .nbarsync o → Accepted i s k → ¬ named →
    Traps i s k s { cause := 0x01 })
  ∧ (Accepted (.nbarinit o) s k → k.c.size < o.bits 3 0 + 1 → Traps (.nbarinit o) s k s { cause := 0x01 })
  ∧ (Accepted (.nbarinit o) s k → named → o.bits 3 0 + 1 ≤ k.c.size → Completes (.nbarinit o) s k (s.setCrew (k.c.setBar o.d
      { phase := (b.phase + 1) % 65536, scope := o.bits 6 4, arrived := 0, expect := o.bits 3 0 + 1 })))
  ∧ (Accepted (.nbararr o) s k → named → ready →
      (o.bit 0 = false → Completes (.nbararr o) s k arrived)
      ∧ (o.bit 0 = true → Completes (.nbararr o) s k (arrived.setGroup (k.g.wrS k.p.num o.a (BitVec.ofNat 32 b.phase)))))
  ∧ (Accepted (.nbararr o) s k → named → ¬ ready → Holds (.nbararr o) s s)
  ∧ (Accepted (.nbarwait o) s k → named → Room s k → let ph := (k.s o.a).toNat % 65536
      (b.phase ≠ ph → Issues (.nbarwait o) s k s .done) ∧ (b.phase = ph → Issues (.nbarwait o) s k s (.nbarwait o.d ph)))
  ∧ (Accepted (.nbarsync o) s k → named → Room s k →
      (ready → Issues (.nbarsync o) s k arrived (.nbarsync o.d (some b.phase)))
      ∧ (¬ ready → Issues (.nbarsync o) s k s (.nbarsync o.d none)))
  ∧ ∀ (op : Nat) (x : Op) (g : Group) (c : Crew) (n : Nat), InFlight s op x g c →
    (∀ ph, x.kind = .nbarwait n ph ∨ x.kind = .nbarsync n (some ph) →
      ((c.bar n).phase ≠ ph → Performs op s x s) ∧ ((c.bar n).phase = ph → exec (.operationComplete op) s = .next s))
    ∧ (x.kind = .nbarsync n none → (c.bar n).arrived.getLsbD g.gidx = false →
      s.fencePassed g x.split (c.bar n).scope x.id = true → exec (.operationComplete op) s = .next
        ((s.setCrew (c.setBar n (Arrived (c.bar n) g.gidx))).setOp { x with kind := .nbarsync n (some (c.bar n).phase) }))

/-- R30, R210, R211, R212: a split's watch: armed by MWATCH on a coherent device line that its slice then shares, triggered by a
write or an invalidation of the line (or with no cause), and disarmed by the MWAIT that it completes. -/
def Says.MonitorWait : Prop := ∀ (s : State) (k : Issuer),
  (∀ o : OpM, Accepted (.mwatch o) s k →
    let ea l := ((if o.bs then k.s64 o.b else k.g.rdV64 o.b l) + BitVec.signExtend 64 o.off).toNat
    (k.lanes = [] → o.bs = false → OnlyMoves (.mwatch o) s k)
    ∧ ∀ l va, (k.lanes.head? = some l ∧ va = ea l) ∨ (k.lanes = [] ∧ o.bs = true ∧ l = 0xFF ∧ va = ea 0) →
      (∀ e s1, s.translate k.c.ctx va .read = (.error e, s1) →
        Traps (.mwatch o) s k s1 { cause := e, lane := l, taddr := BitVec.ofNat 64 va })
      ∧ (∀ x s1, s.translate k.c.ctx va .read = (.ok x, s1) → rangeOf x.pa ≠ .device ∨ x.nc = true →
        Traps (.mwatch o) s k s1 { cause := 0x06, lane := l, taddr := BitVec.ofNat 64 va })
      ∧ (∀ x s1, s.translate k.c.ctx va .read = (.ok x, s1) → rangeOf x.pa = .device → x.nc = false →
        let sl := 8 * (k.c.cluster / 24) + k.c.cluster % 24 / 3
        let w : Watch := { slice := sl, line := x.pa / 192, trig := false }
        (s1.sliceHolds sl (x.pa / 192) = true → ∀ g p, s1.group? k.g.gid = some g → g.split? k.p.num = some p →
          Completes (.mwatch o) s k ((s1.setGroup (g.setSplit { p with watch := some w })).wakeMwaits k.g.gid p))
        ∧ ∃ (t : State) (g : Group) (p : Split),
          Completes (.mwatch o) s k ((t.setGroup (g.setSplit { p with watch := some w })).wakeMwaits k.g.gid p)
          ∧ t.group? k.g.gid = some g ∧ g.split? k.p.num = some p ∧ t.mem = s1.mem ∧ g.v = k.g.v ∧ g.sr = k.g.sr
          ∧ (k.c.cluster < 96 → s1.sliceHolds sl (x.pa / 192) = false →
            if s1.dirReady (x.pa / 192) (.rds sl) = true then (t.dirAt (x.pa / 192)).sharers.getLsbD sl = true
            else DReq.rds sl ∈ (t.dirAt (x.pa / 192)).queue)))
  ∧ (∀ (gid : Nat) (p : Split),
    ((∃ w, p.watch = some w ∧ w.trig = false) → s.wakeMwaits gid p = s)
    ∧ ((∀ w, p.watch = some w → w.trig = true) → (s.wakeMwaits gid p).ops = s.ops.map fun x =>
        if x.gid = gid ∧ x.split = p.num ∧ x.kind = .mwait then { x with kind := .done, again := none } else x))
  ∧ (∀ o : OpE, Accepted (.mwait o) s k →
    (Room s k → (∀ w, k.p.watch = some w → w.trig = true) →
      Issues (.mwait o) s k (s.setGroup (k.g.setSplit { k.p with watch := none })) .done)
    ∧ (Room s k → ∀ w, k.p.watch = some w → w.trig = false → Issues (.mwait o) s k s .mwait)
    ∧ (¬ Room s k → Holds (.mwait o) s s))
  ∧ (∀ op x g c p, InFlight s op x g c → x.kind = .mwait → g.split? x.split = some p →
    (∀ w, p.watch = some w → w.trig = false → exec (.operationComplete op) s = .next s)
    ∧ ((∀ w, p.watch = some w → w.trig = true) → Performs op s x (s.setGroup (g.setSplit { p with watch := none }))))
  ∧ (∀ slice line, ∃ t, exec (.watchTrigger slice line) s = .next t ∧ OutsideKept s t
    ∧ ∀ gid, ∀ n, ∀ g p, s.group? gid = some g → g.split? n = some p → ∃ g' p', t.group? gid = some g' ∧ g'.split? n = some p'
      ∧ { g' with splits := [] } = { g with splits := [] } ∧ { p' with watch := none } = { p with watch := none }
      ∧ (∀ w, p.watch = some w → p'.watch = some (if w.slice = slice ∧ w.line = line then { w with trig := true } else w))
      ∧ (p.watch = none → p'.watch = none))
  ∧ (∀ g n x p w, s.group? g = some x → x.split? n = some p → p.watch = some w →
    exec (.spuriousWake g n) s = .next (s.setGroup (x.setSplit { p with watch := some { w with trig := true } })))

/-- R213: a ticket: one fetch and add of the active lanes' number at the lowest lane's address; the lanes get consecutive
numbers in ascending order. -/
def Says.Tickets : Prop := ∀ (s : State) (k : Issuer) (o : OpM), Accepted (.ticket o) s k → Room s k →
  (k.lanes = [] → Issues (.ticket o) s k s .done)
  ∧ (∀ l, k.lanes.head? = some l →
    let r := s.checkAccess k.c .atom 1 8 false [(l, (k.ea o l).toNat)]
    (∀ t s1, r = (.error t, s1) → Traps (.ticket o) s k s1 t)
    ∧ (∀ x s1, r = (.ok [x], s1) → Issues (.ticket o) s k s1 (.ticket o.d (k.ea o l).toNat x.place k.p.exec x.ent)))
  ∧ ∀ op x g c d va pa nc lanes ent, InFlight s op x g c → c.versioned = false →
    x.kind = .ticket d va (.phys pa nc) lanes ent → s.dirtyPending ent = false →
    pa + 8 ≤ 0xC000000000 → s.dirReady (pa / 192) (.wr none none []) = true → s.placePoisoned c 8 (.phys pa nc) = false →
    let m := s.rdN pa 8
    let ls := lanesOf lanes
    ∃ t g', Performs op s x t ∧ t.group? x.gid = some g' ∧ t.rdN pa 8 = (m + ls.length) % 2 ^ 64
      ∧ (∀ a, a < pa ∨ pa + 8 ≤ a → t.rdB a = s.rdB a)
      ∧ RegsKept g g' (fun r l => (r = d ∨ r = d + 1) ∧ l ∈ ls)
      ∧ ∀ i l, ls[i]? = some l →
        (g'.rdV d l).toNat + 2 ^ 32 * (g'.rdV (d + 1) l).toNat = (m + i) % 2 ^ 64

/-! ### Exact-rational unit -/

/-- R218 to R226, R228: the codes of the context's prime: ring arithmetic, encoding of a fraction, comparison, digits, and the
canonical form. -/
def Says.HenselRegisters : Prop := ∀ (s : State) (k : Issuer) (o : OpA),
  let p := s.prime k
  let w := o.hw
  let ra := codeReg o.a
  let rb := codeReg o.b
  let A l := VALUE k.g p w ra l
  let B l := VALUE k.g p w rb l
  let codes (i : Instr) (w : Nat) (x : Nat → Nat → Prop) := Answers i s s k
    (fun r l => o.d ≤ r ∧ r < o.d + w ∧ l ∈ k.lanes) noS fun g _ => ∀ l ∈ k.lanes,
      (∀ j < w, (g.rdV (o.d + j) l).toNat < p) ∧ x l (VALUE g p w o.d l)
  let word (i : Instr) (x : Nat → Nat → Prop) := Answers i s s k (fun r l => r = o.d ∧ l ∈ k.lanes) noS fun g _ =>
    ∀ l ∈ k.lanes, x l (g.rdV o.d l).toNat
  p ∈ [2147483647, 2147483629, 2147483587, 2147483579, 2147483563, 2147483549, 2147483543, 2147483497]
  ∧ (Accepted (.hadd o) s k → codes (.hadd o) w fun l v => v = (A l + B l) % p ^ w)
  ∧ (Accepted (.hsub o) s k → codes (.hsub o) w fun l v => (v : Int) = ((A l : Int) - B l) % (p ^ w : Nat))
  ∧ (Accepted (.hmul o) s k → codes (.hmul o) w fun l v => v = A l * B l % p ^ w)
  ∧ (Accepted (.hneg o) s k → codes (.hneg o) w fun l v => (v : Int) = (-(A l : Int)) % (p ^ w : Nat))
  ∧ (Accepted (.henc o) s k →
    let num l : Int := if w = 2 then (k.src o o.a l).toInt else (k.src64 o o.a l).toInt
    let den l : Nat := if w = 2 then (k.src o o.b l).toNat else (k.src64 o o.b l).toNat
    ((∀ l ∈ k.lanes, den l % p ≠ 0) → codes (.henc o) w fun l v => ((v : Int) * den l - num l) % (p ^ w : Nat) = 0)
    ∧ (∀ pre l post, k.lanes = pre ++ l :: post → (∀ j ∈ pre, den j % p ≠ 0) → den l % p = 0 →
      Traps (.henc o) s k s { cause := 0x0B, lane := l }))
  ∧ (Accepted (.heq o) s k → word (.heq o) fun l v => v = if A l % p ^ w = B l % p ^ w then 1 else 0)
  ∧ (Accepted (.hdig o) s k → word (.hdig o) fun l v =>
      let n := o.sub.toNat / 2 % 4
      (o.sub.getLsbD 3 = false → n < w → v = A l % p ^ w / p ^ n % p)
      ∧ (o.sub.getLsbD 3 = true → v ≤ w ∧ p ^ v ∣ A l % p ^ w ∧ (v < w → ¬ p ^ (v + 1) ∣ A l % p ^ w)))
  ∧ (Accepted (.hnorm o) s k → let n := if o.sub.getLsbD 1 then 2 else w
      codes (.hnorm o) n fun l v => v = A l % p ^ n)

/-- R227, R229 to R232: inverse, division and the recovery of a rational, issued with the value each lane will get: the
quotient modulo p^w; or the one pair in lowest terms within the bound that the code stands for. A lane whose code stands for no
such pair fails, gets zero beside the other lanes' results, and HSTAT or a trap at completion tells of the lowest. -/
def Says.HenselOperations : Prop := ∀ (s : State) (k : Issuer) (o : OpA), Room s k →
  let p := s.prime k
  let w := o.hw
  let A l := VALUE k.g p w (codeReg o.a) l
  let divides (i : Instr) (num den : Nat → Nat) := Accepted i s k →
    (∀ pre l post, k.lanes = pre ++ l :: post → (∀ j ∈ pre, den j % p ≠ 0) → den l % p = 0 →
      Traps i s k s { cause := 0x0B, lane := l })
    ∧ ((∀ l ∈ k.lanes, den l % p ≠ 0) → ∃ res, Issues i s k s (.hres o.d w k.p.exec res) ∧ res.map Prod.fst = k.lanes
      ∧ ∀ e ∈ res, ∃ x, CODES p w x e.2 ∧ ((x * den e.1 : Nat) : Int) % (p ^ w : Nat) = (num e.1 : Int) % (p ^ w : Nat))
  let stands (l : Nat) (a : Int) (b : Nat) : Prop := 2 * (a * a) ≤ (p : Int) ^ w - 1 ∧ 2 * (b * b) ≤ p ^ w - 1 ∧ b % p ≠ 0
    ∧ Nat.gcd a.natAbs b = 1 ∧ ((A l : Int) * b - a) % (p ^ w : Nat) = 0
  divides (.hinv o) (fun _ => 1) A
  ∧ divides (.hdiv o) A (fun l => VALUE k.g p w (codeReg o.b) l)
  ∧ (Accepted (.hdec o) s k → ∃ res fail, Issues (.hdec o) s k s (.hdec o.d w k.p.exec (o.sub.getLsbD 1) res fail)
    ∧ res.map Prod.fst = k.lanes
    ∧ (∀ e ∈ res, (∀ a b, stands e.1 a b → e.2 = (a % (2 ^ (16 * w) : Nat)).toNat + 2 ^ (16 * w) * b)
      ∧ ((∀ a b, ¬ stands e.1 a b) → e.2 = 0))
    ∧ (fail = none ↔ ∀ l ∈ k.lanes, ∃ a b, stands l a b)
    ∧ ∀ l, fail = some l ↔ ∃ pre post, k.lanes = pre ++ l :: post ∧ (∀ j ∈ pre, ∃ a b, stands j a b) ∧ ∀ a b, ¬ stands l a b)
  ∧ ∀ op x g c, InFlight s op x g c →
    let wrote (g' : Group) (d n : Nat) (res : List (Nat × Nat)) :=
      RegsKept g g' (fun r l => d ≤ r ∧ r < d + n ∧ l ∈ res.map Prod.fst)
      ∧ ∀ e ∈ res, ∀ j < n, g'.rdV (d + j) e.1 = BitVec.ofNat 32 (e.2 / 2 ^ (32 * j))
    let ok (res : List (Nat × Nat)) := (res.map Prod.fst).Nodup ∧ ∀ e ∈ res, e.1 < 96
    (∀ d n m res, x.kind = .hres d n m res → ok res →
      ∃ g', Performs op s x (s.setGroup g') ∧ g'.gid = g.gid ∧ g'.splits = g.splits ∧ wrote g' d n res)
    ∧ (∀ d n m fl res, x.kind = .hdec d n m fl res none → ok res →
      ∃ g', Performs op s x (s.setGroup g') ∧ g'.gid = g.gid ∧ g'.splits = g.splits ∧ wrote g' d n res)
    ∧ (∀ d n m res l, x.kind = .hdec d n m true res (some l) → ok res → l < 96 →
      ∃ g', Performs op s x (s.setGroup g') ∧ g'.hstat = BitVec.ofNat 32 (1 + 256 * l) ∧ wrote g' d n res)
    ∧ (∀ d n m res l, x.kind = .hdec d n m false res (some l) →
      Performs op s x (s.completionTrap x.gid x.split { cause := 0x0C, lane := l, opc := x.opc }))

/-! ### Matrix engine and energy -/

/-- R141, R248, R249, R392: the energy budget: a reference period adds RATE to every registered context's share up to CAP,
counts time and slices; a command that the share covers debits it, one dearer than CAP takes a full share, and otherwise
the split stalls, in its turn; a command that costs nothing waits for no other. -/
def Obligations.EnergyBudget : Prop := ∀ (s : State),
  (∀ cl < 96, ∃ t, exec (.ebudgetRefill cl) s = .next t ∧ (s.bar0.failsafe = false → ∀ x < 32, ∀ d < 96,
      t.share x d = if d = cl ∧ (s.ctx x).registered = true
        then { s.share x d with level := min (256 * (s.share x d).capk) ((s.share x d).level + (s.share x d).rate) }
        else s.share x d)
    ∧ (t.cluster cl).time = ((s.cluster cl).time + 1) % 2 ^ 64
    ∧ { t with clusters := [], shares := [], crews := [], dies := [] } = { s with clusters := [], shares := [], crews := [], dies := [] }
    ∧ t.crews = s.crews.map fun c => if c.cluster = cl then { c with slice := c.slice + 1 } else c)
  ∧ ∀ (k : Issuer) (cls : Nat),
    let e := s.share k.c.ctx k.c.cluster
    let cap := 256 * (s.share k.c.ctx k.c.cluster).capk
    let cost := nth 0 (s.ctx k.c.ctx).ecost cls
    (s.energyAhead k = true → cost ≠ 0 → s.energyPay k cls = none)
    ∧ (s.bar0.failsafe = false → s.energyAhead k = false ∨ cost = 0 →
      (cost ≤ e.level → s.energyPay k cls = some { e with level := e.level - cost })
      ∧ (e.level < cost → cap < cost → e.level = cap → s.energyPay k cls = some { e with level := 0 })
      ∧ (e.level < cost → ¬ (cap < cost ∧ e.level = cap) → s.energyPay k cls = none))
    ∧ (s.energyAhead k = true ↔ ∃ g ∈ s.groups, ∃ c, s.crew? g.cid = some c ∧ c.ctx = k.c.ctx ∧ c.cluster = k.c.cluster
        ∧ ∃ p ∈ g.splits, ∃ n, p.hold = .energy n ∧ ∀ m, k.p.hold = .energy m → n < m)

/-- R243, R246, R248, R250: the issue of MMA and MMAS: the checks in their order, the energy it pays or stalls for, and the
command queued with the words of the active rows. The order of the spans (0x03), the slots (0x11) and the C field that must be zero
(0x02) is that of R250 and the reading of log 40 (DEDUCED). -/
def Says.MultiplyIssue : Prop := ∀ (s : State) (k : Issuer) (o : OpE) (i : Instr) (sparse : Bool),
  (i = .mma o ∧ sparse = false) ∨ (i = .mmas o ∧ sparse = true) → Accepted i s k → Room s k →
  let fa := s.slot k o.fs
  let fb := s.slot k (o.bits 7 5)
  let g8 := sparse && o.bit 4
  let top := if sparse then 5 else 6
  let aRegs := if sparse = false ∧ fa.elem = 6 then 24 else 16
  let cRegs := if sparse then (if fa.elem ≤ 3 then 2 else 4) * (if g8 then 2 else 1)
    else if fa.scale = 0 then 0 else if fa.elem = 6 then 2 else 1
  let known := 2 ≤ fa.elem ∧ fa.elem ≤ top
  let marked := sparse = false ∧ cRegs = 0 ∧ o.c ≠ 0
  let beyond := ((sparse = true ∨ known) ∧ k.g.count < o.a + aRegs) ∨ (known ∧ cRegs ≠ 0 ∧ k.g.count < o.c + cRegs)
  let fits := fa.mmaOk top = true ∧ fb.mmaOk top = true ∧ slotsAgree fa fb = true ∧ (sparse = true → fa.scale ≠ 1)
  let tags := s.tagsOk k ([o.d], [o.b]) = true
  let rows r n := k.lanes.map fun l => (l, (List.range n).map fun j => k.g.rdV (r + j) l)
  (beyond → Traps i s k s { cause := 0x03 })
  ∧ (¬ beyond → ¬ fits → Traps i s k s { cause := 0x11 })
  ∧ (¬ beyond → fits → marked → Traps i s k s { cause := 0x02 })
  ∧ (¬ beyond → fits → ¬ marked → ¬ tags → Traps i s k s { cause := 0x06 })
  ∧ (¬ beyond → fits → ¬ marked → tags → ∀ e, s.energyPay k (o.bits 2 0) = some e → QueuesMatrix i s k
      (HeldBy (s.setShare k.c.ctx k.c.cluster e) k .none)
      (.mma o.d o.b sparse g8 (o.bit 3) (BitVec.ofNat 64 (s.slotRaw k.c o.fs)) (BitVec.ofNat 64 (s.slotRaw k.c (o.bits 7 5)))
        (rows o.a aRegs) (rows o.c cRegs)) [])
  ∧ (¬ beyond → fits → ¬ marked → tags → s.energyPay k (o.bits 2 0) = none →
      ((∀ n, k.p.hold ≠ .energy n) → Holds i s { HeldBy s k (.energy s.nextId) with nextId := s.nextId + 1 })
      ∧ ((∃ n, k.p.hold = .energy n) → Holds i s s))

/-- R238, R240, R242, R251: claims and tokens: ACQ claims an accumulator and queues for its token, REL gives claim and token
back, and the direct accesses need the claim. -/
def Says.MatrixClaims : Prop := ∀ (s : State) (k : Issuer) (o : OpE), Room s k →
  let claimed n := k.g.claim.getLsbD n = true
  let tags n := s.tagsOk k ([n], []) = true
  let core := s.core k.g.core
  let acc := core.acc o.d
  (Accepted (.acq o) s k →
    (¬ tags o.d → Traps (.acq o) s k s { cause := 0x06 })
    ∧ (tags o.d → claimed o.d → Issues (.acq o) s k s .done)
    ∧ (tags o.d → ¬ claimed o.d → QueuesMatrix (.acq o) s k
        (s.setGroup { k.g with claim := k.g.claim ||| BitVec.ofNat 16 (2 ^ o.d) }) (.acq o.d false) []))
  ∧ (Accepted (.rel o) s k →
    (¬ tags o.d → Traps (.rel o) s k s { cause := 0x06 })
    ∧ (tags o.d → ¬ claimed o.d → Issues (.rel o) s k s .done)
    ∧ (tags o.d → claimed o.d → ∃ c : Core, Issues (.rel o) s k
        ((s.setGroup { k.g with claim := k.g.claim &&& ~~~BitVec.ofNat 16 (2 ^ o.d) }).setCore k.g.core c) .done
        ∧ (∀ n, c.acc n = if n = o.d ∧ acc.token = some k.g.gid then { acc with token := none } else core.acc n)
        ∧ c.bufs = core.bufs ∧ c.tags = core.tags
        ∧ c.mq = core.mq.map fun m => if m.gid = k.g.gid ∧ (∃ r, m.kind = .acq o.d r) then { m with kind := .acq o.d true } else m))
  ∧ (∀ i n, (i = .accrd o ∧ n = o.a) ∨ (i = .accwr o ∧ n = o.d) ∨ (i = .accz o ∧ n = o.d) → Accepted i s k →
    (¬ claimed n → Traps i s k s { cause := 0x0A })
    ∧ (claimed n → ¬ tags n → Traps i s k s { cause := 0x06 }))
  ∧ (Accepted (.accrd o) s k → claimed o.a → tags o.a →
      QueuesMatrix (.accrd o) s k s (.accrd o.a o.d (o.bits 5 0) (o.bits 11 6 + 1) k.p.exec) [])
  ∧ (Accepted (.accwr o) s k → claimed o.d → tags o.d → QueuesMatrix (.accwr o) s k s (.accwr o.d (o.bits 5 0) (o.bits 11 6 + 1)
      (k.lanes.map fun l => (l, (List.range (o.bits 11 6 + 1)).map fun j => k.g.rdV (o.a + j) l))) [])
  ∧ (Accepted (.accz o) s k → claimed o.d → tags o.d → QueuesMatrix (.accz o) s k s (.accz o.d) [])

/-- R252, R253: ACCRD.mem and MOPLD at issue: their checks in order, and the command queued with the ranges it will write or
read, the destination's lines to be taken in K. -/
def Says.MatrixMemoryIssue : Prop := ∀ (s : State) (k : Issuer) (o : OpE), Room s k →
  let f := s.slot k o.fs
  (Accepted (.accrdMem o) s k →
    let e := (elemFmt f.elem).width / 8
    let base := (k.s64 o.d).toNat
    let p := (k.s o.c).toNat
    let slot := f.valid = true ∧ f.elem ≤ 5 ∧ f.scale ≠ 1
    let claimed := k.g.claim.getLsbD o.a = true
    let tags := s.tagsOk k ([o.a], []) = true
    let r := s.ranges k.c .dst {} false ((List.range 96).map fun j => ((base + j * p) % 2 ^ 64, 64 * e))
    (¬ slot → Traps (.accrdMem o) s k s { cause := 0x11 })
    ∧ (slot → ¬ claimed → Traps (.accrdMem o) s k s { cause := 0x0A })
    ∧ (slot → claimed → ¬ tags → Traps (.accrdMem o) s k s { cause := 0x06 })
    ∧ (slot → claimed → tags → p < 64 * e → Traps (.accrdMem o) s k s { cause := 0x01 })
    ∧ (slot → claimed → tags → 64 * e ≤ p → base % e ≠ 0 ∨ p % e ≠ 0 →
      Traps (.accrdMem o) s k s { cause := 0x04, taddr := BitVec.ofNat 64 base })
    ∧ (slot → claimed → tags → 64 * e ≤ p → base % e = 0 → p % e = 0 →
      (∀ t s1, r = (.error t, s1) → Traps (.accrdMem o) s k s1 t)
      ∧ (∀ dst s1, r = (.ok dst, s1) → s1.dstRoom k.c dst = false → Traps (.accrdMem o) s k s1 { cause := 0x17 })
      ∧ (∀ dst s1, r = (.ok dst, s1) → s1.dstRoom k.c dst = true → s1.tagsOk k ([o.a], []) = true →
        QueuesMatrix (.accrdMem o) s k (s1.snapDst k.c dst)
          (.accrdMem o.a (BitVec.ofNat 64 (s.slotRaw k.c o.fs)) (dst.map Prod.fst)) (kLines k.c (dst.map Prod.fst)))))
  ∧ (Accepted (.mopld o) s k →
    let va := (k.s64 o.a).toNat
    let slot := f.mmaOk 6 = true ∧ (o.bit 0 = true → f.scale ≠ 1)
    let tags := s.tagsOk k ([], [o.d]) = true
    let n := if o.bit 0 then 8192 else if f.elem = 6 then 6528 else if f.scale = 1 then 4224 else 4096
    let r := s.range k.c .src { nc := true } true va n
    (¬ slot → Traps (.mopld o) s k s { cause := 0x11 })
    ∧ (slot → ¬ tags → Traps (.mopld o) s k s { cause := 0x06 })
    ∧ (slot → tags → va % 64 ≠ 0 → Traps (.mopld o) s k s { cause := 0x04, taddr := BitVec.ofNat 64 va })
    ∧ (slot → tags → va % 64 = 0 →
      (∀ t s1, r = (.error t, s1) → Traps (.mopld o) s k s1 t)
      ∧ (∀ src s1, r = (.ok src, s1) → s1.tagsOk k ([], [o.d]) = true →
        QueuesMatrix (.mopld o) s k s1 (.mopld o.d (src.map Prod.fst)) [])))

/-- R240, R241, R244, R245, R246, R251, R252, R253: a queued command is performed, in arrival order for what it names: the
products of the active rows summed by SUMRULE, the grant of a token, and the direct accesses; what ACCRD has read is
written to the registers as its operation completes, and until then it stays in the queue, before every later command. -/
def Obligations.MatrixPerform : Prop := ∀ (s : State) (core op : Nat) (m : MCmd), s.matrixCmd core op = some m →
  let c := s.core core
  let done (t : State) := exec (.mmaPerform core op) s = .next (t.endMatrix core op)
    ∧ exec (.accTokenGrant core op) s = .next (t.endMatrix core op)
  let waits := exec (.mmaPerform core op) s = .next s ∧ exec (.accTokenGrant core op) s = .next s
  let val (t : State) (n r col : Nat) := NMap.get 0 ((t.core core).acc n).val (64 * r + col)
  let othersKept (t : State) (n : Nat) := (∀ j, j ≠ n → (t.core core).acc j = c.acc j) ∧ (∀ d, d ≠ core → t.core d = s.core d)
    ∧ (t.core core).bufs = c.bufs ∧ { t with cores := [] } = { s with cores := [] }
    ∧ ((t.core core).acc n).token = (c.acc n).token
  (mTurn c.mq m = false → waits)
  ∧ (mTurn c.mq m = true →
    (∀ n b sparse g8 z fa fb a cs, m.kind = .mma n b sparse g8 z fa fb a cs →
      ((c.acc n).token ≠ none → waits)
      ∧ ((c.acc n).token = none → (a.map Prod.fst).Nodup → ∃ t, done t ∧ othersKept t n
        ∧ ∀ r col, col < 64 →
          (r ∉ a.map Prod.fst → val t n r col = val s n r col)
          ∧ ∀ ws us, (r, ws) ∈ a → us = ((cs.find? fun q => q.1 == r).map Prod.snd).getD [] →
            let A := FSlot.ofBits fa.toNat
            let B := FSlot.ofBits fb.toNat
            let row u := if sparse then sparseIndex us g8 u else u
            let old := Fmt.f32.decode (if z then 0 else (val s n r col).toNat)
            let K := if A.elem = 2 ∨ A.elem = 3 then 32 else if A.elem = 6 then 192 else 64
            let sa u := (nth 0 us (u / 128)).toNat / 256 ^ (u / 32 % 4) % 256
            let sb u := (NMap.get 0 (c.buf b).bytes (8 * (elemFmt B.elem).width * K + 64 * (u / 32) + col)).toNat
            ∃ ts : List FVal, ts.length = K
              ∧ (∀ u t, ts[u]? = some t → ∃ x, IsProduct ((elemFmt A.elem).decode (rowElem (elemFmt A.elem) ws u))
                  ((elemFmt B.elem).decode ((c.buf b).elem (elemFmt B.elem) (row u) col)) x
                ∧ if A.scale = 1 then
                    (if sa u = 255 ∨ sb u = 255 then t = .nan else IsScaled x ((sa u : ℤ) + sb u - 254) t)
                  else t = x)
              ∧ SUMRULE (ts ++ [old]) (val t n r col).toNat))
    ∧ (∀ n, m.kind = .acq n false → ((c.acc n).token ≠ none → waits)
      ∧ ((c.acc n).token = none → done (s.setAcc' core n { c.acc n with token := some m.gid })))
    ∧ (∀ n, m.kind = .acq n true → done s)
    ∧ (∀ n d col cnt rows x, m.kind = .accrd n d col cnt rows → s.op? m.op = some x →
      (s.opLate op = false → let t := s.setOp { x with kind := .late ((lanesOf rows).flatMap fun l =>
          (List.range cnt).map fun j => (d + j, l, val s n l (col + j))) [] none 6 x.canTrap }
        exec (.mmaPerform core op) s = .next t ∧ exec (.accTokenGrant core op) s = .next t)
      ∧ (s.opLate op = true → waits))
    ∧ (∀ n col cnt vals, m.kind = .accwr n col cnt vals → (vals.map Prod.fst).Nodup → col + cnt ≤ 64 →
      ∃ t, done t ∧ othersKept t n ∧ (∀ r j, j < 64 → ¬ (r ∈ vals.map Prod.fst ∧ col ≤ j ∧ j < col + cnt) → val t n r j = val s n r j)
      ∧ ∀ e ∈ vals, ∀ j < cnt, val t n e.1 (col + j) = nth 0 e.2 j)
    ∧ (∀ n, m.kind = .accz n → ∃ t, done t ∧ othersKept t n ∧ ∀ r j, val t n r j = 0)
    ∧ (∀ n slot dst cr, m.kind = .accrdMem n slot dst → s.crew? m.cid = some cr →
      let r t := exec (.mmaPerform core op) s = .next t ∧ exec (.accTokenGrant core op) s = .next t
      (m.need ≠ [] → r (s.askVersion cr dst))
      ∧ (m.need = [] →
        let s1 := s.dirtyAll (dstEnts dst)
        let ready := s1.versionReady cr dst = true ∧ s1.dstFree cr m.op (.matrix core) dst = true ∧ s1.dirtyDone dst = true
        (ready → r
          (((s1.segsWrite cr dst ((c.acc n).stored (FSlot.ofBits slot.toNat))).endLines m.op m.held).endMatrix core op))
        ∧ (¬ ready → r (s1.askVersion cr dst))))
    ∧ (∀ n src cr x g, m.kind = .mopld n src → s.crew? m.cid = some cr → s.op? m.op = some x →
      src.find? (fun g => s.segPoisoned cr g) = some g → done (s.completionTrap x.gid x.split
        { cause := 0x07, taddr := BitVec.ofNat 64 g.va, opc := x.opc, inside := g.place.inside }))
    ∧ (∀ n src cr, m.kind = .mopld n src → s.crew? m.cid = some cr → (∀ g ∈ src, s.segPoisoned cr g = false) →
      ∃ t, done t ∧ { t with cores := [] } = { s with cores := [] } ∧ (t.core core).accs = c.accs
        ∧ (∀ j, j ≠ n → (t.core core).buf j = c.buf j)
        ∧ ∀ j, NMap.get 0 ((t.core core).buf n).bytes j = nth 0 (s.segsBytes cr src) j))
  ∧ (∀ x g cr v sr hs f tr e, InFlight s op x g cr → x.kind = .late v sr hs f tr →
    s.cores.find? (fun e => e.2.mq.any fun q => q.op == op) = some e → e.1 = core →
    ∃ t : State, exec (.operationComplete op) s = .next ((t.leaveMatrix core op).finishOp x)
      ∧ { t with groups := [] } = { s with groups := [] })

/-- R247: CMPR keeps, of each group of 4 or 8 elements, the half of greatest magnitude, NaN above every number and the earlier
of two equal ones: it writes the kept elements in their order, and their places as metadata; a slot, a register, a span or the
metadata's place that does not fit traps. The order of these checks is the reading of log 40 (DEDUCED): an ELEM that the table has
not (0x11), the register indices (0x01), the spans (0x03), the slot's other faults (0x11), the bound of the nibbles (0x02). -/
def Obligations.Compression : Prop := ∀ (s : State) (k : Issuer) (o : OpE),
  (∀ (f : Fmt) (es : List Nat),
    let rank i := if f.decode (nth 0 es i) = .nan then 2 ^ f.width else nth 0 es i % 2 ^ (f.width - 1)
    (keptOf f es).Sublist (List.range es.length) ∧ (2 ∣ es.length → (keptOf f es).length = es.length / 2)
    ∧ ∀ i j, i ∈ keptOf f es → j ∉ keptOf f es → j < es.length → rank j < rank i ∨ (rank j = rank i ∧ i < j))
  ∧ (∀ (f : Fmt) (g8 : Bool) (ws : List Word), f.width = 8 ∨ f.width = 16 →
    let n := if g8 then 8 else 4
    let b := if g8 then 3 else 2
    let groups := if f.width = 8 ∧ g8 = false then 2 else 1
    let z := compress f g8 ws
    let kept h := keptOf f ((List.range n).map fun j => rowElem f ws (n * h + j))
    z.1 < 2 ^ (f.width * (n / 2) * groups) ∧ z.2 < 2 ^ (b * (n / 2) * groups)
    ∧ ∀ h < groups, ∀ t i, (kept h)[t]? = some i → z.2 / 2 ^ (b * (n / 2 * h + t)) % 2 ^ b = i
      ∧ z.1 / 2 ^ (f.width * (n / 2 * h + t)) % 2 ^ f.width = rowElem f ws (n * h + i))
  ∧ (Accepted (.cmpr o) s k → Room s k →
    let fs := s.slot k o.fs
    let f := elemFmt fs.elem
    let g8 := o.bit 0
    let wide := f.width = 16
    let src := if wide ∧ g8 = true then 4 else 2
    let dst := if wide ∧ g8 = true then 2 else 1
    let nib := if g8 then 3 else if wide then 1 else 2
    let p := o.bits 3 1
    let elem := 2 ≤ fs.elem ∧ fs.elem ≤ 5
    let pairs := o.a % src = 0 ∧ o.d % dst = 0
    let inside := o.a + src ≤ k.g.count ∧ o.d + dst ≤ k.g.count
    (¬ elem → Traps (.cmpr o) s k s { cause := 0x11 })
    ∧ (elem → ¬ pairs → Traps (.cmpr o) s k s { cause := 0x01 })
    ∧ (elem → pairs → ¬ inside → Traps (.cmpr o) s k s { cause := 0x03 })
    ∧ (elem → pairs → inside → fs.valid = false → Traps (.cmpr o) s k s { cause := 0x11 })
    ∧ (elem → pairs → inside → fs.valid = true → 8 < p + nib → Traps (.cmpr o) s k s { cause := 0x02 })
    ∧ (elem → pairs → inside → fs.valid = true → p + nib ≤ 8 → ∃ ws, Issues (.cmpr o) s k s (.regs ws)
      ∧ ∀ r l w, (r, l, w) ∈ ws ↔ l ∈ k.lanes
        ∧ let z := compress f g8 ((List.range src).map fun j => k.g.rdV (o.a + j) l)
          (∃ j < dst, r = o.d + j ∧ w = BitVec.ofNat 32 (z.1 / 2 ^ (32 * j)))
          ∨ (r = o.c ∧ w = BitVec.ofNat 32 (setBits (k.g.rdV o.c l).toNat (4 * (p + nib) - 1) (4 * p) z.2))))
  ∧ ∀ op x g c ws, InFlight s op x g c → (ws.map fun e => (e.1, e.2.1)).Nodup → (∀ e ∈ ws, e.2.1 < 96) →
    ∃ g', (x.kind = .regs ws → Performs op s x (s.setGroup g'))
      ∧ (∀ f tr, x.kind = .late ws [] none f tr → Performs op s x ((s.setGroup g').matrixOver op))
      ∧ g'.gid = g.gid ∧ g'.splits = g.splits
      ∧ RegsKept g g' (fun r l => ∃ w, (r, l, w) ∈ ws) ∧ ∀ e ∈ ws, g'.rdV e.1 e.2.1 = e.2.2

/-! ### Crossbar tiles -/

/-- R259, R260, R270, R272 to R277, R289, R293: the issue of the crossbar commands: their own checks, the tile's owner, and
the command queued at the tile, its source range translated where it has one. -/
def Says.CrossbarIssue : Prop := ∀ (s : State) (k : Issuer) (o : OpE), Room s k →
  let mine x := ∀ c, (s.tile (64 * k.g.core + x)).tag = some c → c = k.c.ctx
  let queues (i : Instr) (t : State) x kind := QueuesTile i s k t (64 * k.g.core + x) kind []
  let reads (i : Instr) x (va len align : Nat) (kind : List Seg → TCmdKind) :=
    (va % align ≠ 0 → Traps i s k s { cause := 0x04, taddr := BitVec.ofNat 64 va })
    ∧ (va % align = 0 → (∀ t s1, s.range k.c .src { nc := true } true va len = (.error t, s1) → Traps i s k s1 t)
      ∧ ∀ src s1, s.range k.c .src { nc := true } true va len = (.ok src, s1) → queues i s1 x (kind (src.map Prod.fst)))
  (∀ i x, (i = .cbgate o ∧ x = o.d) ∨ (i = .cbwrite o ∧ x = o.d) ∨ (i = .cbmap o ∧ x = o.a) ∨ (i = .cbmapReset o ∧ x = o.a)
      ∨ (i = .cbread o ∧ x = o.a) → Accepted i s k → ¬ mine x → Traps i s k s { cause := 0x06 })
  ∧ (Accepted (.cbcfg o) s k →
    let w := (k.s o.a).toNat
    let ok := (w % 4 = 0 ∧ w / 2 ^ 25 = 0 ∧ w / 4 % 64 = 0)
      ∨ (w % 4 = 1 ∧ w / 2 ^ 25 = 0 ∧ w / 4 % 64 = 0 ∧ w / 256 % 256 ≠ 0 ∧ w / 65536 % 16 = 0 ∧ 16 ≤ w / 65536 % 512
        ∧ w / 65536 % 512 ≤ 464)
      ∨ (2 ≤ w % 4 ∧ w / 4 = 0)
    (¬ ok → Traps (.cbcfg o) s k s { cause := 0x01 }) ∧ (ok → ¬ mine o.d → Traps (.cbcfg o) s k s { cause := 0x06 })
    ∧ (ok → mine o.d → queues (.cbcfg o) s o.d (.cfg (k.s o.a))))
  ∧ (Accepted (.cbgate o) s k → mine o.d → queues (.cbgate o) s o.d (.run [] [k.s64 o.a] 1 1 0 k.p.pc k.p.widx))
  ∧ (Accepted (.cbrun o) s k →
    let g := (k.s o.b).toNat
    (g = 0 ∨ 4096 < g → Traps (.cbrun o) s k s { cause := 0x01 })
    ∧ (0 < g → g ≤ 4096 → ¬ mine o.d → Traps (.cbrun o) s k s { cause := 0x06 })
    ∧ (0 < g → g ≤ 4096 → mine o.d → reads (.cbrun o) o.d (k.s64 o.a).toNat (8 * g) 8
        fun src => .run src [] g (o.bits 7 0 + 1) (o.bits 16 8) k.p.pc k.p.widx))
  ∧ (Accepted (.cbwrite o) s k → mine o.d → reads (.cbwrite o) o.d (k.s64 o.a).toNat (64 * (o.bits 14 9 + 1)) 64
      fun src => .write (o.bits 15 15) (o.bits 8 0) (o.bits 14 9 + 1) src)
  ∧ (Accepted (.cbmap o) s k → mine o.a → queues (.cbmap o) s o.a (.map (o.bits 0 0) o.d))
  ∧ (Accepted (.cbmapReset o) s k → mine o.a → queues (.cbmapReset o) s o.a (.mapReset (o.bits 0 0)))
  ∧ (Accepted (.cbread o) s k → mine o.a →
    let t := s.tile (64 * k.g.core + o.a)
    let b := (k.s o.c).toNat % 2 ^ 24
    let read run at_ := queues (.cbread o) s o.a (.read o.d (o.bits 9 9) (o.bits 8 0) run at_)
    (o.bit 11 = false →
      (t.lastRun = none → read none 0)
      ∧ (∀ r, t.lastRun = some (r, none) → read (some r) (if o.bit 10 then b else 0))
      ∧ (∀ r n, t.lastRun = some (r, some n) → read (some r) (if o.bit 10 then max b (n + 1) else n + 1)))
    ∧ (o.bit 11 = true → (t.lastRun = none ∧ t.free = false) ∨ (∃ r n, t.lastRun = some (r, n) ∧ t.runClear r = false) →
      Issues (.cbread o) s k (Pinned s k) (.regs [(o.d, 16, 0x40000000)]))
    ∧ (o.bit 11 = true → o.bit 10 = false →
      (t.lastRun = none → t.free = true → read none 0)
      ∧ (∀ r, t.lastRun = some (r, none) → t.runClear r = true → read (some r) 0)
      ∧ (∀ r n, t.lastRun = some (r, some n) → t.runClear r = true → read (some r) (n + 1)))
    ∧ (t.free = true ↔ (t.q = [] ∧ t.busy = .idle) ∨ (∃ c b p, t.busy = .cal c b p) ∧ ∀ e ∈ t.q, e.joins = false
      ∧ ((∃ lo hi cl ch z d w a b, e.kind = .mvm lo hi cl ch z d w a b) ∨ ∃ d a l b, e.kind = .read d a l none b)))
  ∧ (Accepted (.cbprog o) s k →
    let w := (k.s o.b).toNat
    let first := w % 512
    let cnt := w / 65536 % 512 + 1
    let ok := w / 512 % 128 = 0 ∧ w / 2 ^ 25 = 0 ∧ first + cnt ≤ 512
    (¬ ok → Traps (.cbprog o) s k s { cause := 0x01 }) ∧ (ok → ¬ mine o.d → Traps (.cbprog o) s k s { cause := 0x06 })
    ∧ (ok → mine o.d → reads (.cbprog o) o.d (k.s64 o.a).toNat (256 * cnt) 64 fun src => .prog first cnt src))
  ∧ (Accepted (.cbcal o) s k → (o.bits 7 0 = 0 → Traps (.cbcal o) s k s { cause := 0x01 })
    ∧ (o.bits 7 0 ≠ 0 → ¬ mine o.d → Traps (.cbcal o) s k s { cause := 0x06 })
    ∧ (o.bits 7 0 ≠ 0 → mine o.d → queues (.cbcal o) s o.d (.cal (BitVec.ofNat 8 (o.bits 7 0)))))

/-- R294: the issue of CBMVM: its ranges, the tile's owner, alignment, translation, regions, energy, and the command queued
with the destination lines to be taken in K. -/
def Says.MultiplyCommand : Prop := ∀ (s : State) (k : Issuer) (o : OpE), Accepted (.cbmvm o) s k → Room s k →
  let i : Instr := .cbmvm o
  let x := 64 * k.g.core + o.bits 5 0
  let t := s.tile x
  let u := (k.s o.c).toNat
  let v := (k.s (o.c + 1)).toNat
  let ok (w : Nat) := w / 512 % 128 = 0 ∧ w / 2 ^ 25 = 0 ∧ w % 512 ≤ w / 65536 % 512
  let lo := u % 512
  let hi := u / 65536 % 512
  let clo := v % 512
  let chi := v / 65536 % 512
  let src := (k.s64 o.a).toNat
  let dst := (k.s64 o.b).toNat
  let words := if t.mode = .compat then (chi + 1 - clo) / 2 else chi + 1 - clo
  let mine := ∀ c, t.tag = some c → c = k.c.ctx
  (¬ (ok u ∧ ok v) → Traps i s k s { cause := 0x01 })
  ∧ (ok u → ok v → ¬ mine → Traps i s k s { cause := 0x06 })
  ∧ (ok u → ok v → mine →
    (src % 8 ≠ 0 → Traps i s k s { cause := 0x04, taddr := BitVec.ofNat 64 src })
    ∧ (src % 8 = 0 → dst % 4 ≠ 0 → Traps i s k s { cause := 0x04, taddr := BitVec.ofNat 64 dst })
    ∧ (src % 8 = 0 → dst % 4 = 0 →
      (∀ e s1, s.range k.c .src { nc := true } true src ((hi + 2 - lo) / 2) = (.error e, s1) → Traps i s k s1 e)
      ∧ ∀ a s1, s.range k.c .src { nc := true } true src ((hi + 2 - lo) / 2) = (.ok a, s1) →
        (∀ e s2, s1.range k.c .dst {} true dst (4 * words) = (.error e, s2) → Traps i s k s2 e)
        ∧ ∀ b s2, s1.range k.c .dst {} true dst (4 * words) = (.ok b, s2) →
          (s2.dstRoom k.c b = false → Traps i s k s2 { cause := 0x17 })
          ∧ (s2.dstRoom k.c b = true → ∀ e, s2.energyPay k o.fs = some e →
            let s3 := HeldBy (s2.setShare k.c.ctx k.c.cluster e) k .none
            let segs := b.map Prod.fst
            (o.bit 7 = true → t.free = false → Issues i s k (Pinned s3 k) (.sres [(o.d, 0x80000000)]))
            ∧ (o.bit 7 = false ∨ t.free = true → QueuesTile i s k (s3.snapDst k.c b) x
                (.mvm lo hi clo chi (o.bit 6) o.d words (a.map Prod.fst) segs) (kLines k.c segs)))))

/-- R278, R298, Table 11-8: the five selections of CBSTAT, and the completion that writes their pair: nothing of a tile of
another context but its mode and whether it is busy. -/
def Says.CrossbarStatus : Prop := ∀ (s : State) (k : Issuer) (o : OpE), Room s k →
  let t := s.tile (64 * k.g.core + o.a)
  let own := t.tag = some k.c.ctx
  let mvm := own ∧ (t.mode = .mvm ∨ t.mode = .compat)
  let c := (k.s o.c).toNat
  let gives (i : Instr) (v : Nat) := Issues i s k (Pinned s k)
    (.sres [(o.d, BitVec.ofNat 32 v), (o.d + 1, BitVec.ofNat 32 (v / 2 ^ 32))])
  let mode : Nat := match t.mode with
    | .off => 0
    | .logic => 1
    | .mvm => 2
    | .compat => 3
  let word := mode * 2 ^ 30 + if t.cmds = [] then 0 else 2 ^ 29
  let bitsOf (m : NMap Bool) (v : Nat) := v < 2 ^ 64 ∧ ∀ j < 64, v.testBit j = NMap.get false m (64 * (c % 8) + j)
  (Accepted (.cbstatSt o) s k → (¬ own → gives (.cbstatSt o) word)
    ∧ (own → t.status < 16 → t.ration < 256 → t.pbase < 512 → t.boundary < 2 ^ 24 → gives (.cbstatSt o)
        (word + 2 ^ 28 + t.status * 2 ^ 24 + t.ration * 2 ^ 16 + t.pbase + t.boundary * 2 ^ 32)))
  ∧ (Accepted (.cbstatLife o) s k → gives (.cbstatLife o) (if own then t.life (c / 512 % 2) (c % 512) else 0))
  ∧ (Accepted (.cbstatCal o) s k → gives (.cbstatCal o) (if mvm then t.cal.toNat + t.bad.length * 2 ^ 32 else 0))
  ∧ (Accepted (.cbstatBad o) s k → ∃ v, gives (.cbstatBad o) v ∧ (mvm → bitsOf t.bad v) ∧ (¬ mvm → v = 0))
  ∧ (Accepted (.cbstatOvf o) s k → ∃ v, gives (.cbstatOvf o) v ∧ (mvm → bitsOf t.ovf v) ∧ (¬ mvm → v = 0))
  ∧ ∀ op x g c p a b d, InFlight s op x g c → g.split? x.split = some p → x.kind = .sres [(d, a), (d + 1, b)] → d + 1 < 124 →
    ∃ g', Performs op s x (s.setGroup g') ∧ g'.v = g.v ∧ g'.splits = g.splits ∧ g'.rdS p d = a ∧ g'.rdS p (d + 1) = b
      ∧ ∀ r, r ≠ d → r ≠ d + 1 → g'.rdS p r = g.rdS p r

/-- R261 to R268: a gate of a run: bad words stop it; else the cells of its result line between the ends take the function of
the input lines' cells, the line's lifetime and, in the pool, its count of the run take its write phases, and a worn line stops
it. Before that ROTATE moves a scratch line whose ration is spent to the pool line of least wear, the lowest of equal ones, where
there is one with life and ration left; else the gate stops. -/
def Says.Gates : Prop := ∀ (t : Tile) (w : DWord) (j step : Nat), t.pbase ≤ 464 →
  let op := w.toNat / 2 ^ 59
  let ax := w.toNat / 2 ^ 58 % 2
  let n := if op ≤ 2 then 0 else if op = 3 then 1 else if op = 4 then 2 else 3
  let fs := [w.toNat / 2 ^ 49 % 512, w.toNat / 2 ^ 40 % 512, w.toNat / 2 ^ 31 % 512]
  let ins := fs.take n
  let res := w.toNat / 2 ^ 22 % 512
  let lo := w.toNat / 2 ^ 13 % 512 + j * step
  let hi := w.toNat / 2 ^ 4 % 512 + j * step
  let phases := if op ≤ 3 then 1 else 2
  let names f := f < t.pbase ∨ 480 ≤ f
  let fn (is : List Nat) : Nat := if op = 1 then 1 else if op = 2 then 0
    else if op = 6 then (if is.sum ≤ 1 then 1 else 0) else if is.sum = 0 then 1 else 0
  let good := 1 ≤ op ∧ op ≤ 6 ∧ w.toNat % 16 = 0 ∧ (∀ f ∈ fs.drop n, f = 0) ∧ names res ∧ (∀ f ∈ ins, names f)
    ∧ res ∉ ins ∧ lo ≤ hi ∧ hi < t.pbase
  let pool := 480 ≤ res
  let moved (z : Tile) := if pool then t.rotate ax (res - 480) phases = some z else z = t
  (¬ good → t.gate w j step = .error 1)
  ∧ (good → pool → t.rotate ax (res - 480) phases = none → t.gate w j step = .error 2)
  ∧ (good → ∀ z, moved z →
    let line f := if f < z.pbase then f else nth 0 (if ax = 0 then z.map0 else z.map1) (f - 480)
    (5000000000 < z.life ax (line res) + phases → t.gate w j step = .error 3)
    ∧ (line res < 512 → (∀ f ∈ ins, line f < 512) → z.life ax (line res) + phases ≤ 5000000000 →
      ∃ u, t.gate w j step = .ok u
        ∧ (∀ l r, l < 512 → r < 512 → u.cell ax l r = if l = line res ∧ lo ≤ r ∧ r ≤ hi
            then fn (ins.map fun f => z.cell ax (line f) r) else z.cell ax l r)
        ∧ (∀ l, u.life ax l = z.life ax l + if l = line res then phases else 0) ∧ (∀ l, u.life (1 - ax) l = z.life (1 - ax) l)
        ∧ (∀ l, u.run ax l = z.run ax l + if l = line res ∧ t.pbase ≤ l then phases else 0)
        ∧ (∀ l, u.run (1 - ax) l = z.run (1 - ax) l)
        ∧ u.map0 = z.map0 ∧ u.map1 = z.map1 ∧ u.mode = z.mode ∧ u.tag = z.tag ∧ u.q = z.q ∧ u.cal = z.cal))
  ∧ ∀ a kk, kk < (t.map a).length →
    let can (q : Nat) := t.pbase ≤ q ∧ q < 512 ∧ q ∉ t.map a ∧ t.run a q + phases ≤ t.ration ∧ t.life a q + phases ≤ 5000000000
    (t.run a (nth 0 (t.map a) kk) + phases ≤ t.ration → t.rotate a kk phases = some t)
    ∧ (t.ration < t.run a (nth 0 (t.map a) kk) + phases →
      (t.rotate a kk phases = none ↔ ∀ q, ¬ can q)
      ∧ ∀ u, t.rotate a kk phases = some u → ∃ p, can p ∧ nth 0 (u.map a) kk = p
        ∧ (∀ m, m ≠ kk → nth 0 (u.map a) m = nth 0 (t.map a) m) ∧ (a < 2 → u.map (1 - a) = t.map (1 - a))
        ∧ { u with map0 := [], map1 := [] } = { t with map0 := [], map1 := [] }
        ∧ ∀ q, can q → t.life a p ≤ t.life a q ∧ (t.life a q = t.life a p → p ≤ q))

/-- R259, R260, R266, R270, R276, R277, R284, R293, R297: an idle tile takes up its next command: one of another context's or
not of its mode is turned away; a configuration, a write, a read, a map read and a map reset are performed whole; a run starts
once the reads that directly follow it have come. A command that ends leaves its status, and a stop owes cause 0x0E. -/
def Says.TileCommands : Prop := ∀ (s : State) (x : Nat) (c : TCmd) (q : List TCmd),
  let t := s.tile x
  t.busy = .idle → t.q = c :: q →
  let s0 := s.setTile x { t with q := q }
  let starts (u : State) := exec (.tileCommandStart x) s = .next u
  let chain := s.chainOpen c = true
  let owned := t.tag = some c.ctx
  let none_ := t.tag = none
  let run : Prop := ∃ a b g p st pc wi, c.kind = .run a b g p st pc wi
  let read : Prop := ∃ d a l r b, c.kind = .read d a l r b
  let mvm : Prop := ∃ lo hi cl ch z d w a b, c.kind = .mvm lo hi cl ch z d w a b
  let cfg : Prop := ∃ w, c.kind = .cfg w
  (chain → run ∧ starts s)
  ∧ (mvm → starts (s0.tileBusy x (.mvm c none)))
  ∧ (run → ¬ chain → (∀ d ∈ q, d.readsOf c.op = false) →
    (¬ owned → ¬ none_ → starts (((s0.tileTrap c { cause := 0x06 }).endTile c).tileBusy x .idle))
    ∧ (none_ ∨ (owned ∧ t.mode ≠ .logic) →
      starts (((s0.setTile x { t with q := q, boundary := 0 }).tileEnd x c 4).tileBusy x .idle)))
  ∧ (¬ mvm → ¬ read → ¬ run → ¬ owned → ¬ none_ → starts ((s0.tileTrap c { cause := 0x06 }).endTile c))
  ∧ (¬ mvm → ¬ read → ¬ run → ¬ cfg → none_ ∨ (owned ∧ c.kind.actsIn t.mode = false) → starts (s0.tileEnd x c 4))
  ∧ (∀ w, c.kind = .cfg w → owned ∨ none_ → ∃ u, starts ((s0.setTile x u).tileEnd x c 0) ∧ u.q = q
    ∧ (w.toNat % 4 = 0 → u.mode = .off ∧ u.tag = none)
    ∧ (w.toNat % 4 = 1 → u.mode = .logic ∧ u.tag = some c.ctx ∧ u.pbase = w.toNat / 65536 % 512
      ∧ u.ration = w.toNat / 256 % 256 ∧ u.run0 = [] ∧ u.run1 = []
      ∧ ∀ j < 32, nth 0 u.map0 j = u.pbase + j ∧ nth 0 u.map1 j = u.pbase + j)
    ∧ (w.toNat % 4 = 2 → u.mode = .mvm ∧ u.tag = some c.ctx) ∧ (w.toNat % 4 = 3 → u.mode = .compat ∧ u.tag = some c.ctx)
    ∧ (u.mode = t.mode → u.mode ≠ .off → u.cells = t.cells ∧ u.fill = t.fill ∧ u.lifeBase = t.lifeBase)
    ∧ (u.mode ≠ t.mode ∨ u.mode = .off → (∀ a l r, u.cell a l r = if u.mode = .mvm then 8 else 0) ∧ u.lifeBase = t.lifeBase + 1))
  ∧ (∀ ax d o, c.kind = .map ax d → owned → t.mode = .logic → s.op? c.op = some o →
    let words := (List.range 32).map fun j => (d, j, BitVec.ofNat 32 (nth 0 (if ax = 0 then t.map0 else t.map1) j))
    starts ((s0.setOp { o with kind := .late words [] none 6 o.canTrap }).tileEnd x c 0))
  ∧ (∀ ax, c.kind = .mapReset ax → owned → t.mode = .logic → ∃ u, starts ((s0.setTile x u).tileEnd x c 0)
      ∧ (∀ j < 32, nth 0 (u.map ax) j = t.pbase + j) ∧ u.map (1 - ax) = (if ax = 0 then t.map1 else t.map0)
      ∧ { u with map0 := [], map1 := [] } = { t with map0 := [], map1 := [], q := q } ∨ 1 < ax)
  ∧ (∀ ax line cnt src cr, c.kind = .write ax line cnt src → owned → t.mode ≠ .off → s.crew? c.cid = some cr →
    (∀ g ∈ src, s.segPoisoned cr g = false) →
    ((∃ i < cnt, t.lineAt ax (line + i) = none) → starts (s0.tileEnd x c 1))
    ∧ ∀ (ls : List Nat) n, ls.length = cnt → (∀ i < cnt, t.lineAt ax (line + i) = some (nth 0 ls i) ∧ nth 0 ls i < 512) → ls.Nodup →
      n ≤ cnt → (∀ i < n, t.life ax (nth 0 ls i) + 1 ≤ 5000000000) → (n < cnt → 5000000000 < t.life ax (nth 0 ls n) + 1) →
      ∃ u, starts ((s0.setTile x u).tileEnd x c (if n = cnt then 0 else 3))
        ∧ (∀ l, u.life ax l = t.life ax l + if l ∈ ls.take n then 1 else 0)
        ∧ (∀ i < n, ∀ r < 512, u.cell ax (nth 0 ls i) r = if (nth 0 (s.segsBytes cr src) (64 * i + r / 8)).getLsbD (r % 8)
            then (if t.mode = .logic then 1 else 15) else 0)
        ∧ (∀ m r, m < 512 → r < 512 → m ∉ ls.take n → u.cell ax m r = t.cell ax m r)
        ∧ u.mode = t.mode ∧ u.tag = t.tag ∧ u.bad = t.bad ∧ (t.mode = .logic → u.cal = t.cal)
        ∧ (t.mode ≠ .logic → ax = 0 → n ≠ 0 → u.cal = 0)
        ∧ (t.mode ≠ .logic → ax ≠ 0 → ∀ b < 8, u.cal.getLsbD b = (t.cal.getLsbD b && !(ls.take n).any fun l => l / 64 == b)))
  ∧ (∀ d ax line r b o, c.kind = .read d ax line r b → s.op? c.op = some o →
    let stops st := starts (((s0.wrRegs c.gid [(d, 16, BitVec.ofNat 32 (st * 2 ^ 24))]).tileTrap c { cause := 0x0E }).endTile c)
    (¬ owned → ¬ none_ → starts ((s0.tileTrap c { cause := 0x06 }).endTile c))
    ∧ (none_ ∨ (owned ∧ t.mode = .off) → stops 4)
    ∧ (owned → t.mode ≠ .off → t.lineAt ax line = none → stops 1)
    ∧ (owned → t.mode ≠ .off → ∀ l, t.lineAt ax line = some l →
      starts (s0.setOp { o with kind := .late (LineRead t d ax l 0) [] none 6 o.canTrap })))
  ∧ (∀ sched inl g p st pc wi cr, c.kind = .run sched inl g p st pc wi → ¬ chain → owned → t.mode = .logic → s.crew? c.cid = some cr →
    (∀ z ∈ sched, s.segPoisoned cr z = false) → ∃ ws, starts (s0.setTile x { t with
      q := q, run0 := [], run1 := [], boundary := 0, busy := .run c ws 0 })
      ∧ (sched = [] → ws = inl) ∧ (sched ≠ [] → ws.length = g ∧ ∀ j < g, (nth 0 ws j).toNat
        = ofBytes (((s.segsBytes cr sched).drop (8 * j)).take 8)))
  ∧ (∀ f n src, c.kind = .prog f n src → owned → t.mode = .mvm ∨ t.mode = .compat → starts (s0.tileBusy x (.prog c 0)))
  ∧ (∀ m, c.kind = .cal m → owned → t.mode = .mvm ∨ t.mode = .compat →
    starts (s0.tileBusy x (.cal c ((List.range 8).filter fun b => m.getLsbD b) false)))
  ∧ ∀ st o g p, s.op? c.op = some o → s.group? o.gid = some g → g.split? o.split = some p → p.retained = none →
    (∀ v sr hs f tr, o.kind ≠ .late v sr hs f tr) →
    let u := s.setTile x { t with status := st }
    (st = 0 ∨ st = 5 → s.tileEnd x c st = u.dropOp c.op)
    ∧ (st ≠ 0 → st ≠ 5 → s.tileEnd x c st
      = (u.setGroup (g.setSplit { p with owed := p.owed ++ [{ cause := 0x0E, opc := o.opc }] })).dropOp c.op)

/-- R264, R268, R269, R271, R275, R289, R290, R292: a busy tile's next event: a gate of its run with the boundary it completes
and a read that is admitted at the boundary before the gate, after it, or at the run's end; a
row programmed and verified or not, a block calibrated, the commands admitted at the end of a block, the last one's too, before
the CBCAL goes on or ends; and a drift that clears a block's calibration. -/
def Says.TileEvents : Prop := ∀ (s : State) (x : Nat),
  let t := s.tile x
  (∀ c ws done sch inl g p st pc wi u, t.busy = .run c ws done → c.kind = .run sch inl g p st pc wi →
    (∀ d ∈ t.q, d.readsOf c.op = false) → t.gate (nth 0 ws (done % g)) (done / g) st = .ok u →
    (done + 1 ≠ g * p → exec (.crossbarGate x) s
      = .next (s.setTile x { u with boundary := done + 1, busy := .run c ws (done + 1) }))
    ∧ (done + 1 = g * p → ∃ v, exec (.crossbarGate x) s = .next v ∧ (v.tile x).busy = .idle ∧ (v.tile x).status = 0
      ∧ (v.tile x).boundary = done + 1 ∧ (v.tile x).cells = u.cells ∧ ∀ o, s.op? c.op = some o → v.op? c.op = none))
  ∧ (∀ c ws done sch inl g p st pc wi e, t.busy = .run c ws done → c.kind = .run sch inl g p st pc wi →
    (∀ d ∈ t.q, d.readsOf c.op = false) → t.gate (nth 0 ws (done % g)) (done / g) st = .error e →
    e ≠ 0 → e ≠ 5 → exec (.crossbarGate x) s = .next (((s.setTile x { t with boundary := done }).tileEnd x c e).tileBusy x .idle))
  ∧ (∀ c ws done sch inl g p st pc wi u d rd ax line b o l, t.busy = .run c ws done → c.kind = .run sch inl g p st pc wi →
    t.q = [d] → d.kind = .read rd ax line (some c.op) b → d.op ≠ c.op → t.tag = some d.ctx → t.mode = .logic →
    s.op? d.op = some o → ({ t with q := [] } : Tile).gate (nth 0 ws (done % g)) (done / g) st = .ok u →
    let now (z : Tile) (n : Nat) (v : State) := v.op? d.op = some { o with kind := .late (LineRead z rd ax l (2 ^ 31 + n)) [] none 6 o.canTrap }
    let on (q : List TCmd) : Tile := { u with boundary := done + 1, busy := .run c ws (done + 1), q := q }
    (done + 1 ≠ g * p → ∃ v, exec (.crossbarGate x) s = .next v ∧ v.groups = s.groups
      ∧ (b ≤ done → t.phys ax line = some l → now t done v ∧ v.tile x = on [])
      ∧ (b = done + 1 → u.phys ax line = some l → now u (done + 1) v ∧ v.tile x = on [])
      ∧ (done + 1 < b → v.op? d.op = some o ∧ v.tile x = on [d]))
    ∧ (done + 1 = g * p → done + 1 < b → u.phys ax line = some l →
      (∀ oc gc pc, s.op? c.op = some oc → s.group? oc.gid = some gc → gc.split? oc.split = some pc → pc.retained = none) →
      ∃ v, exec (.crossbarGate x) s = .next v ∧ now u (done + 1) v ∧ (v.tile x).busy = .idle ∧ (v.tile x).q = []))
  ∧ (∀ c done first cnt src cr, t.busy = .prog c done → c.kind = .prog first cnt src → s.crew? c.cid = some cr →
    (∀ z ∈ sliceSegs src (256 * done) 256, s.segPoisoned cr z = false) → first + done < 512 →
    let r := first + done
    let im := s.segsBytes cr (sliceSegs src (256 * done) 256)
    (5000000000 < t.life 1 r + 4 → ∀ ok, exec (.cbprogRow x ok) s = .next ((s.tileEnd x c 3).tileBusy x .idle))
    ∧ (t.life 1 r + 4 ≤ 5000000000 → ∀ ok, ∃ u : Tile,
      (ok = false → exec (.cbprogRow x ok) s = .next (((s.setTile x u).tileEnd x c 6).tileBusy x .idle))
      ∧ (ok = true → done + 1 = cnt → exec (.cbprogRow x ok) s = .next (((s.setTile x u).tileEnd x c 0).tileBusy x .idle))
      ∧ (ok = true → done + 1 ≠ cnt → exec (.cbprogRow x ok) s = .next (s.setTile x u) ∧ u.busy = .prog c (done + 1))
      ∧ u.life 1 r = t.life 1 r + 4 ∧ u.cal.getLsbD (r / 64) = false ∧ NMap.get false u.bad r = !ok
      ∧ ∀ m j, m < 512 → j < 512 → (m ≠ r → u.cell 1 m j = t.cell 1 m j)
        ∧ (m = r → ok = true →
          let n := (nth 0 im (j / 2)).toNat / (if j % 2 = 0 then 1 else 16) % 16
          u.cell 1 m j = if t.mode = .mvm then (n + 8) % 16 else n)
        ∧ (m = r → ok = false → u.cell 1 m j < 16)))
  ∧ (∀ c b bs, t.busy = .cal c (b :: bs) false → b < 8 →
    let u := { t with cal := t.cal ||| BitVec.ofNat 8 (2 ^ b) }
    let joined := ∃ d ∈ t.q, d.joins = true
    (bs = [] → ¬ joined → exec (.cbcalBlock x) s = .next (((s.setTile x u).tileEnd x c 0).tileBusy x .idle))
    ∧ (bs ≠ [] ∨ joined → ∃ paused, exec (.cbcalBlock x) s = .next (s.setTile x { u with busy := .cal c bs paused })
      ∧ (paused = true ↔ joined)))
  ∧ (∀ c bs, t.busy = .cal c bs true →
    (∀ d q1 q2, t.q = q1 ++ d :: q2 → d.joins = true → (∀ e ∈ q1, e.joins = false) → (∀ e ∈ q1 ++ q2, e.op ≠ d.op) →
      let s0 := s.setTile x { t with q := q1 ++ q2 }
      ((∃ lo hi cl ch z r w a b, d.kind = .mvm lo hi cl ch z r w a b) →
        exec (.tileCommandStart x) s = .next (s0.tileBusy x (.mvm d (some (c, bs)))))
      ∧ ((∃ r a l b, d.kind = .read r a l none b) → exec (.tileCommandStart x) s = .next (s0.tileRead x d none)))
    ∧ ((∀ d ∈ t.q, d.joins = false) → exec (.tileCommandStart x) s
      = .next (if bs = [] then (s.tileEnd x c 0).tileBusy x .idle else s.tileBusy x (.cal c bs false))))
  ∧ (∀ b < 8, (∀ c w, t.busy ≠ .mvm c w) → exec (.driftMonitor x b) s
    = .next (s.setTile x { t with cal := t.cal &&& ~~~BitVec.ofNat 8 (2 ^ b) }))

/-- R283, R286, R287, R291, R294, Table 12-5: the rows are taken in passes, each as long as both of its digit sums stay within
136, or under .clamp in one; each phase of a pass sums level times digit, clamped at 2047, and the phases add with their weights.
Without .clamp no phase is clamped and a multiply is exact: each output is the sum over rows of input times weight, the weight of
a cell its level less 8, or in COMPAT the difference of its two columns. -/
def Says.MultiplyIsExact : Prop := ∀ (t : Tile) (lo hi clo chi : Nat) (input : List Byte),
  (∀ r c, t.cell 1 r c < 16) → lo ≤ hi → clo ≤ chi →
  let x i : Int := ((nth 0 input (i / 2)).toNat / (if i % 2 = 0 then 1 else 16) % 16 : Nat)
  let column c : Int := ((List.range (hi + 1 - lo)).map fun i => x i * (t.cell 1 (lo + i) c : Int)).sum
  let p := t.multiply lo hi clo chi false input
  let xs : List (Nat × Nat) := (List.range (hi + 1 - lo)).map fun i =>
    (lo + i, (nth 0 input (i / 2)).toNat / (if i % 2 = 0 then 1 else 16) % 16)
  let digits (h : Nat) (l : List (Nat × Nat)) : Nat := (l.map fun e => e.2 / 4 ^ h % 4).sum
  let phase (c h : Nat) (l : List (Nat × Nat)) : Nat := (l.map fun e => t.cell 1 e.1 c * (e.2 / 4 ^ h % 4)).sum
  (∀ clamp, ∃ ps : List (List (Nat × Nat)),
    let r := t.multiply lo hi clo chi clamp input
    let raw (c : Nat) : Int := ((ps.map fun l => min 2047 (phase c 0 l) + 4 * min 2047 (phase c 1 l)).sum : Nat)
    ps.flatten = xs ∧ r.passes = ps.length ∧ (clamp = true → ps = [xs])
    ∧ (clamp = false → (∀ l ∈ ps, digits 0 l ≤ 136 ∧ digits 1 l ≤ 136)
      ∧ ∀ i a e b, ps[i]? = some a → ps[i + 1]? = some (e :: b) → 136 < digits 0 (a ++ [e]) ∨ 136 < digits 1 (a ++ [e]))
    ∧ (∀ c, NMap.get false r.ovf c = decide (clo ≤ c ∧ c ≤ chi ∧ ∃ l ∈ ps, 2047 < phase c 0 l ∨ 2047 < phase c 1 l))
    ∧ (t.mode = .mvm → ∀ j, j < chi + 1 - clo → nth 0 r.y j
        = BitVec.ofInt 32 (raw (clo + j) - 8 * ((xs.map Prod.snd).sum : Nat)))
    ∧ (t.mode = .compat → ∀ j, 2 * j + 1 < chi + 1 - clo → nth 0 r.y j
        = BitVec.ofInt 32 (raw (clo + 2 * j) - raw (clo + 2 * j + 1))))
  ∧ p.ovf = [] ∧ 1 ≤ p.passes
  ∧ (t.mode = .mvm → p.y.length = chi + 1 - clo ∧ ∀ j, j < chi + 1 - clo → nth 0 p.y j = BitVec.ofInt 32
      ((List.range (hi + 1 - lo)).map fun i => x i * ((t.cell 1 (lo + i) (clo + j) : Int) - 8)).sum)
  ∧ (t.mode = .compat → ∀ j, 2 * j + 1 < chi + 1 - clo →
      nth 0 p.y j = BitVec.ofInt 32 (column (clo + 2 * j) - column (clo + 2 * j + 1)))

/-- R259, R291, R292, R293, R294, R417: the multiply that a tile has taken up: turned away, stopped, or waiting for its lines; else it
calibrates the blocks that lapsed and writes its results and its status word; the tile is then idle, or at the boundary of the
CBCAL that admitted it. That one turned away or refused at its completion point leaves sD at 0 is log 110, and that a stop leaves
every block uncalibrated log 43. -/
def Says.MultiplyPerform : Prop := ∀ (s : State) (x : Nat) (c : TCmd) (cr : Crew) lo hi clo chi clamp d words src dst,
  let t := s.tile x
  ∀ within, t.busy = .mvm c within → c.kind = .mvm lo hi clo chi clamp d words src dst → s.crew? c.cid = some cr →
  let ends (u : State) := exec (.cbmvmPerform x) s = .next (u.tileBusy x (match within with
    | none => .idle
    | some (cal, blocks) => .cal cal blocks true))
  let s1 := if c.need = [] then s.dirtyAll (dstEnts dst) else s
  let empty := (s1.endLines c.op c.held).tileScalar c d 0
  let mine := t.tag = some c.ctx
  let mode := t.mode = .mvm ∨ t.mode = .compat
  let even := t.mode = .compat → clo % 2 = 0 ∧ chi % 2 = 1
  let room := (if t.mode = .compat then (chi + 1 - clo) / 2 else chi + 1 - clo) ≤ words
  let sound := ∀ r, lo ≤ r → r ≤ hi → NMap.get false t.bad r = false
  ((∃ z, t.tag = some z ∧ z ≠ c.ctx) → ends ((empty.tileTrap c { cause := 0x06 }).endTile c))
  ∧ (t.tag = none ∨ (mine ∧ ¬ mode) → ends (empty.tileEnd x c 4))
  ∧ (mine → mode → ¬ sound → ends (empty.tileEnd x c 7))
  ∧ (mine → mode → sound → ¬ (even ∧ room) → ends (empty.tileEnd x c 4))
  ∧ (mine → mode → even → room → sound → (∀ g ∈ src, s1.segPoisoned cr g = false) →
    c.need ≠ [] ∨ s1.versionReady cr dst = false ∨ s1.dstFree cr c.op (.tile (x / 64)) dst = false ∨ s1.dirtyDone dst = false →
    exec (.cbmvmPerform x) s = .next (s1.askVersion cr dst))
  ∧ (mine → mode → even → room → sound → ∀ g, src.find? (fun g => s1.segPoisoned cr g) = some g →
    ends ((empty.tileTrap c { cause := 0x07, taddr := BitVec.ofNat 64 g.va, inside := g.place.inside }).endTile c))
  ∧ (mine → mode → even → room → sound → (∀ g ∈ src, s1.segPoisoned cr g = false) → c.need = [] → s1.versionReady cr dst = true →
    s1.dstFree cr c.op (.tile (x / 64)) dst = true → s1.dirtyDone dst = true →
    let used := (List.range 8).filter fun b => decide (lo / 64 ≤ b) && decide (b ≤ hi / 64)
    let ncal := (used.filter fun b => !t.cal.getLsbD b).length
    ∃ (u : Tile) (p : Product), p = { t with cal := u.cal }.multiply lo hi clo chi clamp (s1.segsBytes cr src)
      ∧ u = { t with cal := u.cal, ovf := p.ovf } ∧ (∀ b < 8, u.cal.getLsbD b = (t.cal.getLsbD b || decide (b ∈ used)))
      ∧ ends (((((s1.setTile x u).segsWrite cr dst (p.y.flatMap fun w => toBytes 4 w.toNat)).endLines c.op c.held).lateOp c.op []
          [(d, BitVec.ofNat 32 ((if p.ovf = [] then 0 else 2 ^ 30) + p.ovf.length * 2 ^ 16 + ncal * 16 + p.passes))]).tileEnd x c
            (if p.ovf = [] then 0 else 5)))

/-! ### Copy engine -/

/-- R311, R312: the tag instructions at issue and at completion: a tag of another context's traps; TAGWANY waits for a done tag,
TAGWALL for every count to be 0, TAGFIRST reports at once; the lowest done tag is reported, and cleared under .clr. -/
def Says.CopyTags : Prop := ∀ (s : State) (k : Issuer) (o : OpE),
  let m := k.s64 o.a
  let free := s.tagFree k (tagsOf m) = true
  let s1 := s.bindTags k (tagsOf m)
  let core := k.g.core
  (∀ n, n ∈ tagsOf m ↔ n < 64 ∧ m.getLsbD n = true)
  ∧ (∀ i, i = .tagwany o ∨ i = .tagwall o ∨ i = .tagfirst o ∨ i = .tagclr o → Accepted i s k → ¬ free →
    Traps i s k s { cause := 0x06 })
  ∧ (free → ∀ n, n ∈ tagsOf m → (s1.core core).tag n
      = if s.tagOwner core n = some k.c.ctx then (s.core core).tag n else { cnt := 0, done := false, ctx := some k.c.ctx })
  ∧ (Accepted (.tagwany o) s k → free → Room s k → Issues (.tagwany o) s k s1 (.tagwany o.d m (o.bit 0)))
  ∧ (Accepted (.tagwall o) s k → free → Room s k → Issues (.tagwall o) s k s1 (.tagwall m))
  ∧ (Accepted (.tagfirst o) s k → free → Room s k → Issues (.tagfirst o) s k s1 (.tagfirst o.d m (o.bit 0)))
  ∧ (Accepted (.tagclr o) s k → free → ∃ t, Completes (.tagclr o) s k t ∧ { t with cores := [] } = { s with cores := [] }
      ∧ ∀ n, (t.core core).tag n = if n ∈ tagsOf m then { (s1.core core).tag n with done := false } else (s.core core).tag n)
  ∧ ∀ op x g c p d m clr, InFlight s op x g c → g.split? x.split = some p → d < 124 →
    let T n := (s.core g.core).tag n
    let reports (n : Option Nat) := ∃ t g', Performs op s x t
      ∧ { t with cores := [], groups := [] } = { s with cores := [], groups := [] } ∧ t.group? x.gid = some g'
      ∧ g'.v = g.v ∧ g'.splits = g.splits ∧ (∀ r, r ≠ d → g'.rdS p r = g.rdS p r)
      ∧ g'.rdS p d = (match n with
        | some n => BitVec.ofNat 32 n
        | none => 0xFFFFFFFF)
      ∧ ∀ j, (t.core g.core).tag j = if some j = n ∧ clr = true then { T j with done := false } else T j
    let lowest (n : Nat) := n ∈ tagsOf m ∧ (T n).done = true ∧ ∀ j ∈ tagsOf m, j < n → (T j).done = false
    let nothing := ∀ j ∈ tagsOf m, (T j).done = false
    (∀ k', k' = OpKind.tagwany d m clr ∨ k' = .tagfirst d m clr → x.kind = k' → ∀ n, lowest n → reports (some n))
    ∧ (x.kind = .tagfirst d m clr → nothing → reports none)
    ∧ (x.kind = .tagwany d m clr → nothing → m = 0 → reports none)
    ∧ (x.kind = .tagwany d m clr → nothing → m ≠ 0 → exec (.operationComplete op) s = .next s)
    ∧ (x.kind = .tagwall m → (∀ j ∈ tagsOf m, (T j).cnt = 0) → Performs op s x s)
    ∧ (x.kind = .tagwall m → (∃ j ∈ tagsOf m, (T j).cnt ≠ 0) → exec (.operationComplete op) s = .next s)

/-- R313 to R317, R320: transaction barriers: initialisation, arrival, expected bytes, waiting and invalidation, on a word of
the crew's scratchpad; a word whose counts reach 0 starts its next phase and ends the waits on the old one. That a held TBARR makes its checks again is the
choice of log 84, and TADDR 0 of a barrier's fault the reading of log 46. -/
def Says.TransactionBarriers : Prop := ∀ (s : State) (k : Issuer) (o : OpE),
  let va := (k.s64 o.a).toNat
  let a := va % 2 ^ 32
  let window := va / 2 ^ 32 = 0xFFFFFFFF
  let ok := window ∧ a % 8 = 0 ∧ a + 8 ≤ k.c.scratchSize
  let cl := k.c.cluster
  let key := s.scratchAt k.c a
  let w := s.tbWord cl key
  let live := (s.cluster cl).liveWords.contains key = true
  let b := (k.s o.b).toNat
  let make (phase arrive init tx : Nat) := phase % 2 ^ 16 * 2 ^ 48 + arrive % 2 ^ 10 * 2 ^ 38 + init % 2 ^ 10 * 2 ^ 28 + tx % 2 ^ 28
  let phase := w / 2 ^ 48
  let arrive := w / 2 ^ 38 % 2 ^ 10
  let init := w / 2 ^ 28 % 2 ^ 10
  let tx := w % 2 ^ 28
  (∀ i, i = .tbinit o ∨ i = .tbarr o ∨ i = .tbexpect o ∨ i = .tbwait o ∨ i = .tbinval o → Accepted i s k →
    (¬ window → Traps i s k s { cause := 0x06, taddr := k.s64 o.a })
    ∧ (window → a % 8 ≠ 0 → Traps i s k s { cause := 0x04, taddr := k.s64 o.a })
    ∧ (window → a % 8 = 0 → k.c.scratchSize < a + 8 → Traps i s k s { cause := 0x06, taddr := k.s64 o.a }))
  ∧ (ok →
    (Accepted (.tbinit o) s k → b = 0 ∨ 1023 < b → Traps (.tbinit o) s k s { cause := 0x01 })
    ∧ (Accepted (.tbinit o) s k → 0 < b → b ≤ 1023 → ∃ t, Completes (.tbinit o) s k t
      ∧ (t.cluster cl).liveWords.contains key = true ∧ t.tbWord cl key = make 0 b b 0
      ∧ t.mem = s.mem ∧ t.groups = s.groups ∧ (∀ d, d ≠ cl → t.cluster d = s.cluster d)
      ∧ (live → ∀ x ∈ t.copies, x.cluster = cl → x.tb ≠ some key) ∧ (¬ live → t.copies = s.copies ∧ t.ops = s.ops))
    ∧ (Accepted (.tbarr o) s k → let n := if o.bit 0 then b else 0
      (2 ^ 24 ≤ n → Traps (.tbarr o) s k s { cause := 0x01 })
      ∧ (n < 2 ^ 24 → ¬ live → Traps (.tbarr o) s k s { cause := 0x09 })
      ∧ (n < 2 ^ 24 → live → s.fencePassed k.g k.p.num 1 s.nextId = false ∨ arrive = 0 → Holds (.tbarr o) s s)
      ∧ (n < 2 ^ 24 → live → s.fencePassed k.g k.p.num 1 s.nextId = true → arrive ≠ 0 →
        let t := s.tbPut cl key (make phase (arrive - 1) init (tx + n))
        (o.bit 1 = false → Completes (.tbarr o) s k t)
        ∧ (o.bit 1 = true → Completes (.tbarr o) s k (t.setGroup (k.g.wrS k.p.num o.d (BitVec.ofNat 32 phase))))))
    ∧ (Accepted (.tbexpect o) s k → (2 ^ 24 ≤ b → Traps (.tbexpect o) s k s { cause := 0x01 })
      ∧ (b < 2 ^ 24 → ¬ live → Traps (.tbexpect o) s k s { cause := 0x09 })
      ∧ (b < 2 ^ 24 → live → Completes (.tbexpect o) s k (s.tbPut cl key (make phase arrive init (tx + b)))))
    ∧ (Accepted (.tbwait o) s k → Room s k → let ph := (k.s o.c).toNat % 2 ^ 16
      (live → phase ≠ ph → Issues (.tbwait o) s k s (.late [] [(o.d, 0)] none 6 (o.bit 0)))
      ∧ (live → phase = ph → Issues (.tbwait o) s k s (.tbwait o.d key ph (o.bit 0) false))
      ∧ (¬ live → Issues (.tbwait o) s k s (.tbwait o.d key ph (o.bit 0) true)))
    ∧ (Accepted (.tbinval o) s k → (¬ live → OnlyMoves (.tbinval o) s k)
      ∧ (live → ∃ t, Completes (.tbinval o) s k t ∧ (t.cluster cl).liveWords.contains key = false ∧ t.mem = s.mem
        ∧ t.groups = s.groups ∧ (∀ x ∈ t.copies, x.cluster = cl → x.tb ≠ some key)
        ∧ ∀ x ∈ t.ops, s.opCluster x = some cl → ∀ d ph tr inv, x.kind = .tbwait d key ph tr inv → inv = true)))
  ∧ (∀ c key phase arrive init tx, phase < 2 ^ 16 → arrive < 2 ^ 10 → init < 2 ^ 10 → tx < 2 ^ 28 →
    let t := s.tbPut c key (make phase arrive init tx)
    (arrive ≠ 0 ∨ tx ≠ 0 → t.tbWord c key = make phase arrive init tx ∧ t.ops = s.ops)
    ∧ (arrive = 0 → tx = 0 → t.tbWord c key = make ((phase + 1) % 2 ^ 16) init init 0
      ∧ (∀ x ∈ t.ops, s.opCluster x = some c → ∀ d ph tr, x.kind = .tbwait d key ph tr false → ph = (phase + 1) % 2 ^ 16)
      ∧ ∀ x ∈ s.ops, s.opCluster x = some c → ∀ d ph tr, x.kind = .tbwait d key ph tr false → ph ≠ (phase + 1) % 2 ^ 16 →
        { x with kind := .late [] [(d, 0)] none 6 tr } ∈ t.ops))
  ∧ ∀ op x g c p d key ph, InFlight s op x g c → g.split? x.split = some p → d < 124 →
    (∀ tr, x.kind = .tbwait d key ph tr false → exec (.operationComplete op) s = .next s)
    ∧ (x.kind = .tbwait d key ph true true →
      Performs op s x (s.completionTrap x.gid x.split { cause := 0x09, opc := x.opc }))
    ∧ (∀ w tr, x.kind = .late [] [(d, w)] none 6 tr → ∃ g', Performs op s x ((s.setGroup g').matrixOver op) ∧ g'.v = g.v
      ∧ g'.splits = g.splits ∧ g'.rdS p d = w ∧ ∀ r, r ≠ d → g'.rdS p r = g.rdS p r)
    ∧ (x.kind = .tbwait d key ph false true → ∃ g', Performs op s x (s.setGroup g') ∧ g'.v = g.v ∧ g'.splits = g.splits
      ∧ g'.rdS p d = 1 ∧ ∀ r, r ≠ d → g'.rdS p r = g.rdS p r)

/-- R304, R306, R309, R311, R315, R318: CPY and CPYL at issue: the tag, the barrier, the record's address, its fields, every
page it touches, the regions; then the copy is queued, its tag counts it, and its operation is outstanding. -/
def Says.CopyIssue : Prop := ∀ (s : State) (k : Issuer) (o : OpE) (i : Instr) (va : DWord) (sc dc : Option (List Int))
    (lane : Nat), Accepted i s k → Room s k →
  let coords r l : List Int := (List.range 4).map fun j => (k.g.rdV (r + j) l).toInt
  (i = .cpyl o → k.lanes = [] → s.tagFree k [o.d] = true → Issues i s k (s.bindTag k o.d) .done
    ∧ ((s.bindTag k o.d).core k.g.core).tag o.d
      = if s.tagOwner k.g.core o.d = some k.c.ctx then (s.core k.g.core).tag o.d else { cnt := 0, done := false, ctx := some k.c.ctx })
  ∧ ((i = .cpy o ∧ va = k.s64 o.a ∧ sc = none ∧ dc = none ∧ lane = 0xFF)
      ∨ (i = .cpyl o ∧ k.lanes.head? = some lane ∧ va = k.g.rdV64 o.a lane ∧ sc = some (coords o.b lane)
        ∧ dc = if o.bit 1 then some (coords (o.b + 4) lane) else none) →
    let traps (t : State) c := Traps i s k t { cause := c, lane := lane, taddr := va }
    let bar := (k.s64 o.c).toNat
    let key := s.scratchAt k.c (bar % 2 ^ 32)
    let barOk := o.bit 0 = true → bar / 2 ^ 32 = 0xFFFFFFFF ∧ bar % 8 = 0 ∧ bar % 2 ^ 32 + 8 ≤ k.c.scratchSize
      ∧ (s.cluster k.c.cluster).liveWords.contains key = true
    (s.tagFree k [o.d] = false → Traps i s k s { cause := 0x06 })
    ∧ (s.tagFree k [o.d] = true → barOk →
      (va.toNat % 192 ≠ 0 → traps s 0x04)
      ∧ (va.toNat % 192 = 0 → va.toNat / 2 ^ 32 = 0xFFFFFFFF → traps s 0x06)
      ∧ (va.toNat % 192 = 0 → va.toNat / 2 ^ 32 ≠ 0xFFFFFFFF →
        (∀ c s1, s.translate k.c.ctx va.toNat .read = (.error c, s1) → traps s1 c)
        ∧ ∀ x s1, s.translate k.c.ctx va.toNat .read = (.ok x, s1) →
          (rangeOf x.pa ≠ .device → traps s1 0x06)
          ∧ (rangeOf x.pa = .device → s1.unitPoisoned k.c x.pa 192 = false →
            let record := BitVec.ofNat 1536 (ofBytes ((List.range 192).map fun j => s1.unitByte k.c (x.pa + j)))
            let l := Layout.ofRecord record sc dc
            let slot := s.slotRaw k.c l.slot
            (∀ c, l.fault (FSlot.ofBits slot) = some c → traps s1 c)
            ∧ (l.fault (FSlot.ofBits slot) = none →
              (∀ e s2, s1.copySpots k l l.points [] = (.error e, s2) →
                Traps i s k s2 { e with lane := lane, taddr := va })
              ∧ ∀ pages s2, s1.copySpots k l l.points [] = (.ok pages, s2) →
                let dst := l.dstSegs pages l.points
                (s2.dstRoom k.c dst = false → traps s2 0x17)
                ∧ (s2.dstRoom k.c dst = true → let T := ((s2.bindTag k o.d).core k.g.core).tag o.d
                  T.cnt < 255 →
                  (s2.copies.filter fun x => x.cluster == k.c.cluster && x.accepted).length < 256 →
                  ∃ (u : State) (c : Copy), Completes i s k ((Outstanding u k i (.copy c.id)).snapDst k.c dst)
                    ∧ u.copies = s2.copies ++ [c] ∧ c.record = record ∧ c.sc = l.sc ∧ c.dc = l.dc ∧ c.pages = pages
                    ∧ c.own = (if k.c.versioned then (dst.map Prod.fst).flatMap Seg.lines else []) ∧ c.hold = windowBytes (dst.map Prod.fst)
                    ∧ c.tag = o.d ∧ c.slot = BitVec.ofNat 64 slot ∧ c.need = kLines k.c (dst.map Prod.fst) ∧ c.held = []
                    ∧ c.accepted = false ∧ c.op = u.nextId ∧ c.tb = (if o.bit 0 then some key else none)
                    ∧ (u.core k.g.core).tag o.d = { T with cnt := T.cnt + 1, done := false }
                    ∧ u.mem = s2.mem ∧ u.groups = s2.groups))))))

/-- R304, R306: what the fields of a layout record must be: reserved bits 0 (cause 0x02); equal ranks of 1 to 4, known element
types, extents of the rank, at most 2^22 elements (0x01); bases and strides that are multiples of the element (0x04); and a
slot that converts to the destination's type where the types differ (0x11). -/
def Says.LayoutChecks : Prop := ∀ (l : Layout) (f : FSlot),
  let rank := l.src.rank = l.dst.rank ∧ 1 ≤ l.src.rank ∧ l.src.rank ≤ 4
  let elem (t : TDesc) := 1 ≤ t.elem ∧ t.elem ≤ 8 ∧ t.fill ≤ 1
  let dims (t : TDesc) := ∀ d < 4, if d < t.rank then nth 0 t.ext d ≠ 0 ∧ nth 0 l.box d ≠ 0
    else nth 0 t.ext d = 1 ∧ nth 0 l.box d = 1 ∧ nth 0 t.origin d = 0 ∧ nth 0 t.stride d = 0
  let even := (elemFmt l.dst.elem).width = 4 → nth 0 l.dst.origin 0 % 2 = 0 ∧ nth 0 l.dc 0 % 2 = 0 ∧ nth 0 l.box 0 % 2 = 0 ∧ nth 0 l.dst.ext 0 % 2 = 0
  let shaped := rank ∧ elem l.src ∧ elem l.dst ∧ dims l.src ∧ dims l.dst ∧ l.box.prod ≤ 2 ^ 22 ∧ even
  let aligned (t : TDesc) := ∀ x ∈ t.base :: t.stride, 8 * x % (elemFmt t.elem).width = 0
  let converts := l.src.elem = l.dst.elem ∨ (f.valid = true ∧ f.elem = l.dst.elem ∧ f.scale = 0)
  (l.rsv = true → l.fault f = some 0x02)
  ∧ (l.rsv = false → ¬ shaped → l.fault f = some 0x01)
  ∧ (l.rsv = false → shaped → ¬ (aligned l.src ∧ aligned l.dst) → l.fault f = some 0x04)
  ∧ (l.rsv = false → shaped → aligned l.src → aligned l.dst → ¬ converts → l.fault f = some 0x11)
  ∧ (l.rsv = false → shaped → aligned l.src → aligned l.dst → converts → l.fault f = none)

/-- R47, R306 to R310, R313: a copy is accepted when it holds its lines, DIRTY then set in its leaves, which ends its operation.
It writes and gives up its lines one by one, and the rest of its bytes as it completes, which counts on its tag and lowers its
barrier's byte count by the bytes of the points it wrote. For a unit that is not versioned, and a copy none of whose destination
bytes is a source byte of it, each nibble written is that of the last point that names it: the source element's bits, their
conversion by the slot, or the conversion of the fill outside the source's extents. A point whose place has become a live barrier is
left out, and what depends on a poisoned source is poisoned. -/
def Obligations.CopyProgress : Prop := ∀ (s : State) (cmd : Nat) (c : Copy), s.copy? cmd = some c →
  let busy := (s.copies.filter fun x => x.cluster == c.cluster && x.accepted).length
  let T := (s.core c.core).tag c.tag
  (c.accepted = false → c.need = [] → busy < 256 → ∃ t, exec (.copyAccept cmd) s = .next t ∧ t.op? c.op = none
    ∧ t.copy? cmd = some { c with accepted := true }
    ∧ ∀ a, t.rdB a = s.rdB a ∨ (a ∈ dstEnts c.dstSegs ∧ t.rdB a = s.rdB a ||| 64))
  ∧ (c.accepted = true ∨ c.need ≠ [] ∨ 256 ≤ busy → exec (.copyAccept cmd) s = .next s)
  ∧ (s.copyReady c = false → exec (.copyComplete cmd) s = .next (s.copyAsk c)
    ∧ ∀ cr, s.crew? c.cid = some cr → cr.versioned = false → s.copyAsk c = s)
  ∧ (s.copyReady c = true → c.accepted = true ∧ s.dirtyDone c.dstSegs = true)
  ∧ ∀ cr, s.copyReady c = true → s.crew? c.cid = some cr → cr.versioned = false → c.cluster = cr.cluster →
    (∀ x ∈ c.held, (s.dirAt x).queue = []) →
    let l := c.layout
    let D := elemFmt l.dst.elem
    let f := FSlot.ofBits c.slot.toNat
    let src (p : CPoint) := (p.src.map fun h => nibsOf c.pages l.src false h).getD []
    let dst (p : CPoint) := nibsOf c.pages l.dst true p.dst
    let alive (p : CPoint) : Bool := (dst p).all fun n => match n.1 with
      | .scratch b => !s.hitsLive cr b 1
      | .phys .. => true
    let byte (u : State) (q : Place) : Byte := match q with
      | .phys pa _ => u.rdB pa
      | .scratch a => NMap.get 0 (u.cluster cr.cluster).scratch (u.scratchAt cr a)
    let nib (u : State) (n : Nib) := (byte u n.1).toNat / 16 ^ n.2 % 16
    let position (p : CPoint) (j : Nat) := nth 0 p.c j
    let across (j : Nat) := (nth 0 l.box j + 7) / 8
    let block p := position p 0 / 8 + across 0 * (position p 1 / 8 + across 1 * (position p 2 + nth 0 l.box 2 * position p 3))
    let g p := if f.conv.mode = .sr then dither (8 * (position p 1 % 8) + position p 0 % 8) ((f.phase + block p) % 64) else 0
    let bits p := ((src p).zipIdx.map fun n => nib s n.1 * 16 ^ n.2).sum
    let value (p : CPoint) : Nat := if p.src = none then convert (if l.src.fill = 0 then .fin false 0 0 else .nan) D .rn false 0
      else if l.src.elem = l.dst.elem then bits p
      else convert ((elemFmt l.src.elem).decode (bits p)) D f.conv.mode f.conv.sat (g p)
    let places := l.points.flatMap fun p => (src p ++ dst p).map Prod.fst
    let apart := (∀ p ∈ l.points, ∀ q ∈ l.points, ∀ n ∈ dst p, ∀ m ∈ src q, n.1.key ≠ m.1.key)
      ∧ (∀ a b, .scratch a ∈ places → .scratch b ∈ places → s.scratchAt cr a = s.scratchAt cr b → a = b)
      ∧ ∀ (pa : Nat) (nc : Bool), .phys pa nc ∈ places → pa < 0xC000000000
    let wrote (t : State) (now : Nat → Prop) :=
      (∀ (j : Nat) (p : CPoint) (i : Nat) (n : Nib), l.points[j]? = some p → alive p = true → (dst p)[i]? = some n → now n.1.key →
        (∀ (m : Nat) (q : CPoint), j < m → l.points[m]? = some q → alive q = true → ∀ r ∈ dst q, r.1.key = n.1.key → r.2 ≠ n.2) →
        nib t n = value p / 16 ^ i % 16)
      ∧ (∀ p ∈ l.points, alive p = true → (∃ m ∈ src p, s.segPoisoned cr { va := 0, place := m.1, len := 1 } = true) →
        ∀ n ∈ dst p, now n.1.key → ∀ pa nc, n.1 = .phys pa nc → pa / 48 ∈ t.poison)
      ∧ ∀ a, (∀ p ∈ l.points, alive p = true → ∀ n ∈ dst p, n.1.key = 2 * a → ¬ now (2 * a)) → t.rdB a = s.rdB a
    (∃ t, exec (.copyComplete cmd) s = .next t ∧ t.copy? cmd = none
      ∧ (t.core c.core).tag c.tag = { T with cnt := T.cnt - 1, done := T.done || T.cnt == 1 }
      ∧ (apart → wrote t fun key => c.toWrite cr key = true)
      ∧ ∀ key, c.tb = some key → key % 8 = 0 → s.tbLive c.cluster key = true →
        let w := s.tbWord c.cluster key
        let tx := (w % 2 ^ 28 + 2 ^ 28 - (l.points.filter alive).length * l.dst.z2 / 2 % 2 ^ 28) % 2 ^ 28
        let init := w / 2 ^ 28 % 2 ^ 10
        t.tbWord c.cluster key = if w / 2 ^ 38 % 2 ^ 10 = 0 ∧ tx = 0
          then (w / 2 ^ 48 + 1) % 2 ^ 16 * 2 ^ 48 + init * 2 ^ 38 + init * 2 ^ 28 else w / 2 ^ 28 * 2 ^ 28 + tx)
    ∧ ∀ line ∈ c.held, (s.dirAt line).st = .k → (s.dirAt line).engine = cmd →
      ∃ t, exec (.endk cmd line) s = .next t ∧ t.copy? cmd = some { c with held := c.held.filter fun x => x != line }
        ∧ t.dirAt line = DirEntry.u ∧ (apart → wrote t fun key => key % 2 = 0 ∧ key / 2 / 192 = line)

/-! ### Stack-side reduction -/

/-- R325 to R328, R335: SRED and SREDB at issue: the records are checked one after another, in order; then every command starts,
counted in the crew's outstanding commands, and the operation lasts until the last is accepted. A record whose line is held by an
engine is waited for. -/
def Says.ReduceIssue : Prop := ∀ (s : State) (k : Issuer) (o : OpE) (i : Instr) (vas : List Nat), Accepted i s k →
  let base := (k.s64 o.a).toNat
  let b := (k.s o.b).toNat
  (i = .sredb o → b = 0 ∨ 32 < b → Traps i s k s { cause := 0x01 })
  ∧ ((i = .sred o ∧ vas = [base]) ∨ (i = .sredb o ∧ 0 < b ∧ b ≤ 32 ∧ vas = (List.range b).map fun j => (base + 64 * j) % 2 ^ 64) →
    (∀ va s1, s.sredChecks k vas = (.error (none, va), s1) → Holds i s s1)
    ∧ (∀ t va s1, s.sredChecks k vas = (.error (some t, va), s1) → Traps i s k s1
      (if i = .sred o then t else { t with taddr := BitVec.ofNat 64 va, page := some (t.page.getD t.taddr) }))
    ∧ ∀ cs s1, s.sredChecks k vas = (.ok cs, s1) →
      let dst := cs.flatMap fun c => c.dst
      (s1.dstRoom k.c dst = false → Traps i s k s1 { cause := 0x17, taddr := BitVec.ofNat 64 (vas.headD 0) })
      ∧ (s1.dstRoom k.c dst = true → ¬ Room s k ∨ s1.sredRoom k cs = false → Holds i s s1)
      ∧ (s1.dstRoom k.c dst = true → Room s k → s1.sredRoom k cs = true → ∃ t : State,
        Completes i s k (t.setCrew { k.c with outst := k.c.outst + cs.length })
        ∧ t.mem = s1.mem ∧ t.launches = (s1.snapDst k.c dst).launches ∧ t.groups = s1.groups ∧ t.crews = s1.crews
        ∧ t.ops = s1.ops ++ [{ id := s1.nextId, gid := k.g.gid, split := k.p.num, charges := k.p.charges
                               opc := i.opcode.getD 0, kind := .sred ((List.range cs.length).map fun j => s1.nextId + 1 + j) }]
        ∧ t.sreds.length = s1.sreds.length + cs.length
        ∧ ∀ j c, cs[j]? = some c → ∃ d, t.sreds[s1.sreds.length + j]? = some d ∧ d.record = c.cmd.record
          ∧ d.recAddr = c.cmd.recAddr ∧ d.op = s1.nextId ∧ d.id = s1.nextId + 1 + j ∧ d.accepted = false
          ∧ d.need = c.cmd.need ∧ d.stack = c.cmd.stack))
  ∧ (∀ va x s1 tab idx wgt out fin s2, va % 64 = 0 → va / 2 ^ 32 ≠ 0xFFFFFFFF → s.translate k.c.ctx va .read = (.ok x, s1) →
    rangeOf x.pa = .device →
    (s1.rduFree x.pa = false → s.sredCheck k va = (.error none, s1)) ∧ (s1.rduFree x.pa = true → s1.unitPoisoned k.c x.pa 64 = false →
    let record := BitVec.ofNat 512 (ofBytes ((List.range 64).map fun j => s1.unitByte k.c (x.pa + j)))
    let r := SRec.ofBits record.toNat
    (∀ c a, r.fault va = some (c, a) → s.sredCheck k va = (.error (some { cause := c, taddr := BitVec.ofNat 64 a }), s1))
    ∧ (r.fault va = none → s1.sredRanges k.c r = (.ok (tab, idx, wgt, out, fin), s2) →
      (k.c.versioned = true → ∃ c, (s.sredCheck k va).1 = .error (some { cause := c, taddr := BitVec.ofNat 64 va })
        ∧ (c = 0x01 ∨ c = 0x06))
      ∧ (k.c.versioned = false → (∀ g ∈ out, ∀ h ∈ fin, h.1.pa / 192 ∉ g.1.lines) → fin ≠ [] → ∃ c, s.sredCheck k va = (.ok c, s2)
        ∧ c.cmd.record = record ∧ c.cmd.idx = idx ∧ c.cmd.wgt = wgt ∧ c.cmd.out = out.map Prod.fst ∧ c.dst = out ++ fin))))

/-- R329 to R334: a command is accepted when it holds its lines, DIRTY then set in its leaves; its reduction adds the exact
weighted elements in list order, rounding each sum, or takes their maximum, or the mean rounded once more, and converts it to the
output's format; errors of the list and the rows make no output; the completion word tells the status, or counts. -/
def Says.ReduceProgress : Prop := ∀ (s : State) (cmd : Nat) (c : Sred), s.sred? cmd = some c →
  (c.accepted = true ∨ c.need ≠ [] → exec (.sredAccept cmd) s = .next s)
  ∧ (c.accepted = false → c.need = [] → ∃ t, exec (.sredAccept cmd) s = .next t
    ∧ (∀ a, t.rdB a = s.rdB a ∨ (a ∈ c.dstEnts ∧ t.rdB a = s.rdB a ||| 64))
    ∧ t.sred? cmd = some { c with accepted := true }
    ∧ ((∀ x ∈ s.sreds, x.id ≠ cmd → x.op = c.op → x.accepted = true) → t.op? c.op = none)
    ∧ ((∃ x ∈ s.sreds, x.id ≠ cmd ∧ x.op = c.op ∧ x.accepted = false) → t.ops = s.ops))
  ∧ (c.accepted = false → exec (.sredCompute cmd) s = .next s)
  ∧ (∀ cr st pos, c.accepted = true → c.ended = some (st, pos) → s.crew? c.cid = some cr → cr.versioned = false →
    let r := SRec.ofBits c.record.toNat
    (s.dirReady (c.fin / 192) (.wr none none []) = false ∨ s.dirtyPending c.finEnt = true → exec (.sredCompute cmd) s = .next s)
    ∧ (s.dirReady (c.fin / 192) (.wr none none []) = true → s.dirtyPending c.finEnt = false → c.fin + 8 ≤ 0xC000000000 → st < 2 ^ 15 → pos < 2 ^ 16 → r.token < 2 ^ 32 →
      ∃ t, exec (.sredCompute cmd) s = .next t ∧ t.sred? cmd = none
      ∧ t.rdN c.fin 8 = (if r.dcnt then (s.rdN c.fin 8 + if st = 0 then 1 else 2 ^ 32) % 2 ^ 64
          else 2 ^ 63 + st * 2 ^ 48 + pos * 2 ^ 32 + r.token)
      ∧ (∀ a, a < c.fin ∨ c.fin + 8 ≤ a → t.rdB a = s.rdB a)
      ∧ t.crew? c.cid = some (if st = 0 then { cr with outst := cr.outst - 1 } else
          { cr with outst := cr.outst - 1, nerr := min 65535 (cr.nerr + 1), lastRec := c.recAddr, lastSt := st, lastPos := pos })))
  ∧ (∀ cr, c.accepted = true → c.ended = none → s.dirtyDone c.out = true → s.crew? c.cid = some cr → cr.versioned = false →
    let r := SRec.ofBits c.record.toNat
    let out := segPas c.out
    (∀ a ∈ out, a < 0xC000000000 ∧ (a < c.fin ∨ c.fin + 8 ≤ a)) → c.fin + 8 ≤ 0xC000000000 →
    (∀ st pos s1, s.sredLook c r = (.bad st pos, s1) → (∀ x ∈ c.held, (s1.dirAt x).queue = []) →
      ∃ t, exec (.sredCompute cmd) s = .next t ∧ (∀ a, a < c.fin ∨ c.fin + 8 ≤ a → t.rdB a = s1.rdB a)
        ∧ ∀ d, t.sred? cmd = some d → d.ended = some (st, pos) ∧ d.held = [])
    ∧ ∀ (rows : List SRow) (s1 : State), s.sredLook c r = (.rows rows, s1) → (∀ x ∈ c.held, (s1.dirAt x).queue = []) → out.Nodup → out.length = r.len * r.y →
      (∀ a ∈ out, (∀ x ∈ rows, a ∉ x.pas) ∧ a ∉ segPas c.idx ∧ a ∉ segPas c.wgt) →
      ∃ t, exec (.sredCompute cmd) s = .next t
        ∧ (∀ a, a ∉ out → a < c.fin ∨ c.fin + 8 ≤ a → t.rdB a = s1.rdB a)
        ∧ ∀ j < r.len, ∃ ps : List FVal, ps.length = rows.length
          ∧ (∀ (i : Nat) (x : SRow) (p : FVal), rows[i]? = some x → ps[i]? = some p →
            let e := (elemFmt r.ifmt).decode (ofBytes ((List.range r.z).map fun b => s1.rdB (nth 0 x.pas (j * r.z + b))))
            match x.weight with
            | none => p = e
            | some w => IsProduct (f32 w) e p)
          ∧ ∀ b < r.y, t.rdB (nth 0 out (j * r.y + b))
            = byteAt (convert (f32 (reduceElem r.op ps)) (elemFmt r.ofmt) .rn false 0) b)
  ∧ (∀ op, reduceElem op [] = 0)
  ∧ (∀ p, reduceElem 0 [p] = toF32 p .rn ∧ reduceElem 2 [p] = toF32 p .rn)
  ∧ (∀ (ps : List FVal) (p : FVal), ps ≠ [] →
    (∃ z, IsSum .rn (f32 (reduceElem 0 ps)) p z ∧ reduceElem 0 (ps ++ [p]) = toF32 z .rn)
    ∧ reduceElem 2 (ps ++ [p]) = pickNumber false (reduceElem 2 ps) (toF32 p .rn)
    ∧ (ps.length < 65536 →
      let a := f32 (reduceElem 0 ps)
      let w := reduceElem 1 ps
      (¬ FINITE a ∨ RAT a = 0 → w = reduceElem 0 ps)
      ∧ (FINITE a → RAT a ≠ 0 →
        let x := |RAT a| / ps.length
        let q : ℚ := 2 ^ max (Int.log 2 x - 23) (-149)
        ∃ n : ℤ, ROUNDS .rn (SIGN a) (x / q) n ∧ FINITE (f32 w) ∧ SIGN (f32 w) = SIGN a
          ∧ RAT (f32 w) = (if SIGN a then -1 else 1) * n * q)))
  ∧ (∀ r : SRec, r.nidx = 0 → s.sredLook c r = (.rows [], s))
  ∧ ∀ (r : SRec) (j : Nat), (∀ i < r.nidx, (List.range 4).all (fun b => !s.poisoned (nth 0 (segPas c.idx) (4 * i + b)) 1) = true) →
      r.wgt = 0 → j < r.nidx → r.nrows ≤ (s.sredWord (segPas c.idx) j).toNat →
      (∀ i < j, (s.sredWord (segPas c.idx) i).toNat < r.nrows) → s.sredLook c r = (.bad 1 j, s)

/-- R336: SRSTAT reads and clears the crew's counts of outstanding and failed commands and its last error. -/
def Says.ReduceStatus : Prop := ∀ (s : State) (k : Issuer) (o : OpE),
  let pair (i : Instr) (a b : Word) := Accepted i s k → o.d + 1 < 124 → Answers i s s k noV (fun r => r = o.d ∨ r = o.d + 1)
    fun g p => g.rdS p o.d = a ∧ g.rdS p (o.d + 1) = b
  pair (.srstatCnt o) (BitVec.ofNat 32 k.c.outst) (BitVec.ofNat 32 k.c.nerr)
  ∧ pair (.srstatErr o) (BitVec.ofNat 32 k.c.lastRec.toNat) (BitVec.ofNat 32 (k.c.lastRec.toNat / 2 ^ 32))
  ∧ pair (.srstatCode o) (BitVec.ofNat 32 (k.c.lastSt + 256 * k.c.lastPos)) 0
  ∧ (Accepted (.srstatClr o) s k → Completes (.srstatClr o) s k
      (s.setCrew { k.c with nerr := 0, lastRec := 0, lastSt := 0, lastPos := 0 }))

/-! ### Tasks and residency -/

/-- R359, R365, R366: TSPAWN: the record's checks in order; then the task joins its launch, whose live count rises, and is
inserted on its die. -/
def Says.TaskSpawn : Prop := ∀ (s : State) (k : Issuer) (o : OpE), Accepted (.tspawn o) s k →
  let i : Instr := .tspawn o
  let va := k.s64 o.a
  ReadsRecord i s k va 64 64 true fun s1 _ n =>
    let t : TaskRec := { bits := BitVec.ofNat 512 n, addr := va }
    let bad := t.f 511 488 ≠ 0 ∨ t.f 479 473 ≠ 0 ∨ t.f 447 440 ≠ 0 ∨ t.f 383 376 ≠ 0
    let slot := t.bits.toNat.testBit 472 = true
    let named (l : Launch) := l ∈ s1.launches ∧ l.ctx = k.c.ctx ∧ l.started = true ∧ l.queue = t.f 487 480 / 32
      ∧ l.index % 32 = t.f 487 480 % 32
    (bad → Traps i s k s1 { cause := 0x02, taddr := va })
    ∧ (¬ bad → slot → (∀ l, ¬ named l) → Traps i s k s1 { cause := 0x01, taddr := va })
    ∧ ∀ lid, ¬ bad → (slot → ∃ l, s1.launchAt k.c.ctx (t.f 487 480) = some l ∧ l.lid = lid) → (¬ slot → lid = k.c.lid) →
      Records i s s1 k none (.tspawn lid t)
      ∧ (Immediate s1 k (.tspawn lid t) → Room s1 k → ∀ l, s1.launch? lid = some l → ∃ s2,
        Inserted (s1.setLaunch { l with live := l.live + 1 }) s2 (s1.dieOfTask l.ctx t)
          { lid := l.lid, ctx := l.ctx, task := t, prio := t.f 467 464, st := .ready, cancel := false }
        ∧ Issues i s k s2 .done)

/-- R347, R363, R367: TCANCEL: in every table and queue of the device, a READY entry of the context whose tag matches goes, and
one that is being handed over is marked, to go when its hand-over settles; no other entry changes. sD is the count of both, a
task whose copy at the thief the victim has not yet acknowledged counting once, and the live count of a launch falls by the entries of it that went. -/
def Says.TaskCancel : Prop := ∀ (s : State) (k : Issuer) (o : OpE),
  let w := k.s o.a
  let tag := w.toNat % 2 ^ 16
  let mask := w.toNat / 2 ^ 16
  let r := s.cancelTasks k.c.ctx tag mask
  let hit (e : Ready) : Bool := e.ctx == k.c.ctx && ((e.task.tag ^^^ tag) &&& mask) == 0
  let met (c i : Nat) (e : Ready) := (s.cluster c).entry i = some e ∧ hit e = true ∧ e.cancel = false
  let copied (c i : Nat) (e : Ready) := ∃ v j, e.st = .pending v j ∧ .ack v j c i ∈ (s.die (c / 24)).steals
  let queued (p : Ready → Bool) := ((List.range 4).map fun d => (s.die d).insQ.countP fun e => hit e && p e).sum
  (Accepted (.tcancel o) s k → Records (.tcancel o) s s k (some o.d) (.tcancel tag mask)
    ∧ (Immediate s k (.tcancel tag mask) → Room s k → Issues (.tcancel o) s k r.1 (.sres [(o.d, BitVec.ofNat 32 r.2)])))
  ∧ (∀ c i, (s.cluster c).entry i = none → (r.1.cluster c).entry i = none)
  ∧ (∀ c i e, (s.cluster c).entry i = some e →
      ((hit e = false ∨ e.cancel = true) → (r.1.cluster c).entry i = some e)
      ∧ (hit e = true → e.cancel = false → e.st = .ready → (r.1.cluster c).entry i = none)
      ∧ (hit e = true → e.cancel = false → e.st ≠ .ready → (r.1.cluster c).entry i = some { e with cancel := true }))
  ∧ (∀ d < 4, ((r.1.die d).insQ).Sublist (s.die d).insQ ∧ ∀ e, e ∈ (r.1.die d).insQ ↔ e ∈ (s.die d).insQ ∧ hit e = false)
  ∧ r.2 = {x : Nat × Nat | ∃ e, met x.1 x.2 e ∧ ¬ copied x.1 x.2 e}.ncard + queued (fun _ => true)
  ∧ (∀ lid l, s.launch? lid = some l → r.1.launch? lid = some { l with live := l.live
      - ({x : Nat × Nat | ∃ e, met x.1 x.2 e ∧ e.st = .ready ∧ e.lid = lid}.ncard + queued (fun e => e.lid == lid) : Nat) })
  ∧ r.1.mem = s.mem ∧ r.1.groups = s.groups ∧ r.1.crews = s.crews ∧ r.1.ctxs = s.ctxs

/-- R345, R346, R368: EVSET sends its update to the event home, EVENT_UPDATE applies it there and on every die, and EVWAIT
completes, with the word of its die's copy, once every bit of its mask is set. -/
def Says.Events : Prop := ∀ (s : State) (k : Issuer) (o : OpE),
  (Accepted (.evset o) s k →
    let u : Update := .evset (o.mode.toNat % 4) (k.s64 o.a) (o.mode.toNat.testBit 2)
    Records (.evset o) s s k none u
    ∧ (Immediate s k u → Room s k →
        Issues (.evset o) s k { s with updates := s.updates ++ [(k.c.ctx, some s.nextId, u)] } (.update none)))
  ∧ (Accepted (.evwait o) s k → (Room s k → Issues (.evwait o) s k s (.evwait o.d (o.mode.toNat % 4) (k.s64 o.a)))
    ∧ (¬ Room s k → Holds (.evwait o) s s))
  ∧ (∀ op x g c p d n mask, InFlight s op x g c → x.kind = .evwait d n mask → g.split? x.split = some p → d + 1 < 124 → n < 4 →
    ∀ v, v = nth 0 (s.ctx c.ctx).evDie (c.cluster / 24) → c.cluster < 96 →
    let word := BitVec.ofNat 64 (v.toNat / 2 ^ (64 * n))
    (word &&& mask ≠ mask → exec (.operationComplete op) s = .next s)
    ∧ (word &&& mask = mask → ∃ g', Performs op s x (s.setGroup g') ∧ g'.v = g.v ∧ g'.splits = g.splits
        ∧ g'.rdS p d = BitVec.ofNat 32 word.toNat ∧ g'.rdS p (d + 1) = BitVec.ofNat 32 (word.toNat / 2 ^ 32)
        ∧ ∀ r, r ≠ d → r ≠ d + 1 → g'.rdS p r = g.rdS p r))
  ∧ (∀ op x g c p d a, InFlight s op x g c → g.split? x.split = some p → x.kind = .sres [(d, a)] → d < 124 →
    ∃ g', Performs op s x (s.setGroup g') ∧ g'.v = g.v ∧ g'.splits = g.splits ∧ g'.rdS p d = a
      ∧ ∀ r, r ≠ d → g'.rdS p r = g.rdS p r)
  ∧ (∀ die, (∀ u ∈ s.updates, u.1 % 4 ≠ die) → exec (.eventUpdate die) s = .next s)
  ∧ (∀ die pre post ctx op n mask clr, s.updates = pre ++ (ctx, op, .evset n mask clr) :: post → ctx % 4 = die →
    (∀ u ∈ pre, u.1 % 4 ≠ die) → n < 4 → (∀ l ∈ s.launches, l.ctx = ctx → l.started = true) →
    ∃ t, exec (.eventUpdate die) s = .next t ∧ t.updates = pre ++ post ∧ t.mem = s.mem ∧ t.launches = s.launches
      ∧ (∀ c, c ≠ ctx → t.ctx c = s.ctx c)
      ∧ (∀ j < 256, (t.ctx ctx).ev.getLsbD j
          = if j / 64 = n ∧ mask.getLsbD (j % 64) = true then !clr else (s.ctx ctx).ev.getLsbD j)
      ∧ (t.ctx ctx).evDie = List.replicate 4 (t.ctx ctx).ev
      ∧ ∀ i, op = some i → t.op? i = none)

/-- R346, R369: LAUNCH takes the next index at the queue's header, waits for room in the ring, copies its record, as it reads
it then, into the slot with any poison, and publishes it in index order; the event home registers an admitted launch. -/
def Says.Launching : Prop := ∀ (s : State) (k : Issuer) (o : OpE),
  let i : Instr := .launch o
  let q := o.mode.toNat % 8
  let hdr := nth 0 (s.ctx k.c.ctx).qhdr q
  let idle (s : State) (pa : Nat) := s.dirReady (pa / 192) (.wr none none []) = true
  (Accepted i s k → hdr = 0 → Traps i s k s { cause := 0x01 })
  ∧ (Accepted i s k → hdr ≠ 0 → ReadsRecord i s k (k.s64 o.a) 192 192 false fun s1 src n =>
    let u : Update := .launch q (k.s64 o.a) (BitVec.ofNat 1536 n)
    let hdr := nth 0 (s1.ctx k.c.ctx).qhdr q
    Records i s s1 k none u
    ∧ (Immediate s1 k u → Room s1 k → ¬ idle s1 hdr → Holds i s s1)
    ∧ (Immediate s1 k u → Room s1 k → idle s1 hdr → hdr ≠ 0 → ∃ t : State,
        Completes i s k t ∧ t.rdN (hdr + 8) 8 = (s1.rdN (hdr + 8) 8 + 1) % 2 ^ 64
        ∧ (∀ a, a < hdr + 8 ∨ hdr + 16 ≤ a → t.rdB a = s1.rdB a)
        ∧ t.ops = s1.ops ++ [{ id := s1.nextId, gid := k.g.gid, split := k.p.num, charges := k.p.charges, opc := 0xEC
                               kind := .launch k.c.ctx q (s1.rdN (hdr + 8) 8) false src (BitVec.ofNat 1536 n) }]))
  ∧ (∀ op x ctx q j copied src record, s.op? op = some x → x.kind = .launch ctx q j copied src record →
    let h := nth 0 (s.ctx ctx).qhdr q
    let size := 2 ^ (s.rdN (h + 72) 1 % 16)
    let slot := s.rdN (h + 64) 8 + 192 * (j % size)
    let room := ∀ d < 4, j < s.rdN (h + 16 + 8 * d) 8 + size
    h ≠ 0 →
    (copied = false → ¬ room ∨ ¬ idle s slot → exec (.launchPublish op) s = .next s)
    ∧ (copied = false → room → idle s slot → (src = [] ∨ (src.map Seg.len).sum = 192) →
        ∃ t, exec (.launchPublish op) s = .next t
        ∧ (src = [] → t.rdN slot 192 = record.toNat)
        ∧ (∀ g c, src ≠ [] → s.group? x.gid = some g → s.crew? g.cid = some c → t.rdN slot 192 = ofBytes (s.segsBytes c src)
          ∧ ∀ i < 192, s.unitPoisoned c (nth 0 (segPas src) i) 1 = true → (slot + i) / 48 ∈ t.poison)
        ∧ (∀ a, a < slot ∨ slot + 192 ≤ a → t.rdB a = s.rdB a)
        ∧ t.ops = (s.setOp { x with kind := .launch ctx q j true src record }).ops)
    ∧ (copied = true → s.rdN h 8 ≠ j ∨ ¬ idle s h → exec (.launchPublish op) s = .next s)
    ∧ (copied = true → s.rdN h 8 = j → idle s h → ∃ t, exec (.launchPublish op) s = .next t
        ∧ t.rdN h 8 = (j + 1) % 2 ^ 64 ∧ (∀ a, a < h ∨ h + 8 ≤ a → t.rdB a = s.rdB a) ∧ t.op? op = none))
  ∧ ∀ lid l, s.launch? lid = some l →
    (nth false l.admitted l.homeDie = false ∨ l.registered = true → exec (.launchRegistration lid) s = .next s)
    ∧ (nth false l.admitted l.homeDie = true → l.registered = false →
      ∃ t, exec (.launchRegistration lid) s = .next t
        ∧ ((∀ m ∈ s.launches, m.ctx = l.ctx → m.lid ≠ lid → m.registered = true → m.started = true) →
          (BitVec.ofNat 256 (l.record.toNat / 2 ^ 1024) &&& ~~~(s.ctx l.ctx).ev ≠ 0 ∨ l.started = true) →
          t = s.setLaunch { l with registered := true }))

/-- R356, R359, R370, R371, R372: the residency instructions: their checks, what they send to the event home or write, and
what the home does for each; RESEVICT sets EVICTING in one step and drops the lines, and with .free the handle, in a later
one. -/
def Obligations.Residency : Prop := ∀ (s : State) (k : Issuer) (o : OpE),
  let a := (k.s64 o.a).toNat
  let b := (k.s o.b).toNat
  let h := (k.s o.a).toNat
  let sends (i : Instr) (d : Option Nat) (u : Update) := Records i s s k d u
    ∧ (Immediate s k u → Room s k → Issues i s k { s with updates := s.updates ++ [(k.c.ctx, some s.nextId, u)] } (.update d))
  let handle (i : Instr) (u : Update) := Accepted i s k → (1023 < h → Traps i s k s { cause := 0x01 })
    ∧ (h ≤ 1023 → sends i none u)
  (Accepted (.resnew o) s k →
    (b % 2 ^ 24 = 0 ∨ 2 ^ 40 ≤ a ∨ 2 ^ 28 ≤ b → Traps (.resnew o) s k s { cause := 0x01 })
    ∧ (b % 2 ^ 24 ≠ 0 → a < 2 ^ 40 → b < 2 ^ 28 → sends (.resnew o) (some o.d) (.resnew a (b % 2 ^ 24) (b / 2 ^ 24))))
  ∧ handle (.respri o) (.respri h (o.mode.toNat % 16))
  ∧ handle (.resevict o) (.resevict h (o.mode.toNat.testBit 0))
  ∧ handle (.resdemote o) (.resdemote h)
  ∧ (Accepted (.resqryTile o) s k → Room s k → ∃ w : DWord,
      Issues (.resqryTile o) s k s (.sres [(o.d, lo32 w), (o.d + 1, hi32 w)])
      ∧ ((s.cluster k.c.cluster).resFind k.c.ctx (a % 2 ^ 40) = none → w = 0)
      ∧ ∀ j r, (s.cluster k.c.cluster).resFind k.c.ctx (a % 2 ^ 40) = some (j, r) → r.ctx < 32 → r.lines < 256 → r.claims < 256 →
        r.tile < 2 ^ 40 → w.toNat = 2 ^ 63 + r.ctx * 2 ^ 58 + r.lines * 2 ^ 50 + r.claims * 2 ^ 42 + r.tile)
  ∧ (Accepted (.resqryHnd o) s k → Room s k → ∃ w0 w1 w2 w3, Issues (.resqryHnd o) s k s
        (.sres [(o.d, w0), (o.d + 1, w1), (o.d + 2, w2), (o.d + 3, w3)])
      ∧ (h ≤ 1023 → ∀ x, x = (s.ctx k.c.ctx).handle h → w0 = BitVec.ofNat 32 x.first ∧ w1 = BitVec.ofNat 32 (x.first / 2 ^ 32)
        ∧ w2 = BitVec.ofNat 32 x.count ∧ w3 = BitVec.ofNat 32 (x.live.toNat * 2 ^ 31 + x.evicting.toNat * 2 ^ 30 + x.pri % 16)))
  ∧ (Accepted (.resqryScore o) s k → ReadsRecord (.resqryScore o) s k (k.s64 o.a) 64 64 true fun s1 _ n =>
      let t : TaskRec := { bits := BitVec.ofNat 512 n, addr := k.s64 o.a }
      (¬ Room s1 k → Holds (.resqryScore o) s s1)
      ∧ (Room s1 k → Issues (.resqryScore o) s k s1 (.sres [(o.d, BitVec.ofNat 32 (s1.score k.c.cluster k.c.ctx t.ranges))])))
  ∧ (∀ c ctx f n w, s.score c ctx [{ first := f, count := n, weight := w }]
      = w * ((List.range n).filter fun j => ((s.cluster c).resFind ctx ((f + j) % 2 ^ 40)).isSome
          && !(s.ctx ctx).handles.any fun x => x.2.live && decide (x.2.first ≤ (f + j) % 2 ^ 40)
            && decide ((f + j) % 2 ^ 40 < x.2.first + x.2.count) && x.2.evicting).length)
  ∧ (∀ c ctx r r', s.score c ctx [r, r'] = s.score c ctx [r] + s.score c ctx [r'])
  ∧ (Accepted (.resdecl o) s k →
    (b = 0 ∨ 255 < b ∨ 2 ^ 40 ≤ a → Traps (.resdecl o) s k s { cause := 0x01 })
    ∧ (0 < b → b ≤ 255 → a < 2 ^ 40 → ¬ Room s k → Holds (.resdecl o) s s)
    ∧ (0 < b → b ≤ 255 → a < 2 ^ 40 → Room s k → ∃ t : State, Issues (.resdecl o) s k t .done ∧ t.mem = s.mem ∧ t.groups = s.groups
      ∧ (∀ e, e ≠ k.c.cid → t.crew? e = s.crew? e)
      ∧ ∀ e e', s.crew? k.c.cid = some e → t.crew? k.c.cid = some e' →
        let named (x : Nat) := ∃ j < b, x = (a + j) % 2 ^ 40
        { e' with claims := [] } = { e with claims := [] }
        ∧ (o.mode.toNat.testBit 0 = true → ∀ x, x ∈ e'.claims ↔ x ∈ e.claims ∧ ¬ named x)
        ∧ (o.mode.toNat.testBit 0 = false → (∀ x ∈ e.claims, x ∈ e'.claims) ∧ (∀ x ∈ e'.claims, x ∈ e.claims ∨ named x)
          ∧ (e.claims.length ≤ 256 → e'.claims.length ≤ 256)
          ∧ let cl := s.cluster e.cluster
            let entry (i : Nat) := NMap.get none (t.cluster e.cluster).res i
            let free := (List.range 1024).filter fun i => (NMap.get none cl.res i).isNone
            (e.claims.length + b ≤ 256 → b ≤ free.length → ∀ x, named x → x ∈ e'.claims)
            ∧ (b = 1 → a ∉ e.claims → e.claims.length < 256 →
              (∀ i r, cl.resFind e.ctx a = some (i, r) → a ∈ e'.claims ∧ entry i = some { r with claims := min 255 (r.claims + 1) })
              ∧ ∀ i l, cl.resFind e.ctx a = none → free = i :: l →
                a ∈ e'.claims ∧ entry i = some { ctx := e.ctx, lines := 0, claims := 1, tile := a }))))
  ∧ ∀ ctx, let x := s.ctx ctx
    (∀ f n p, (∀ j < 1024, (x.handle j).live = true) → s.applyUpdate ctx (.resnew f n p) = (s, 0xFFFFFFFF))
    ∧ (∀ f n p j, j < 1024 → (x.handle j).live = false → (∀ i < j, (x.handle i).live = true) →
      s.applyUpdate ctx (.resnew f n p)
        = (s.setCtx ctx (x.setHandle j { live := true, evicting := false, pri := p, count := n, first := f }), BitVec.ofNat 32 j))
    ∧ (∀ j, (x.handle j).live = false → (∀ p, (s.applyUpdate ctx (.respri j p)).1 = s)
        ∧ (s.applyUpdate ctx (.resdemote j)).1 = s ∧ ∀ f, (s.applyUpdate ctx (.resevict j f)).1 = s)
    ∧ (∀ j, (x.handle j).live = true → (∀ p, (s.applyUpdate ctx (.respri j p)).1 = s.setCtx ctx (x.setHandle j { x.handle j with pri := p }))
        ∧ (((s.applyUpdate ctx (.resdemote j)).1.ctx ctx).handle j).pri = 0
        ∧ (s.applyUpdate ctx (.resdemote j)).1.mem = s.mem
        ∧ (∀ f, ((s.applyUpdate ctx (.resevict j f)).1.ctx ctx).handle j
            = if f = true then Handle.free else { x.handle j with evicting := false })
        ∧ ∀ f c l, (∀ e, ∀ y ∈ (s.cluster e).cache, y.dirty = 0) → c < 96 → l ∈ ((s.applyUpdate ctx (.resevict j f)).1.cluster c).cache → s.handleLine ctx (x.handle j) l = false)
    ∧ ∀ die pre post op u, s.updates = pre ++ (ctx, op, u) :: post → ctx % 4 = die → (∀ v ∈ pre, v.1 % 4 ≠ die) →
      let begins := ∃ h f, u = .resevict h f ∧ (x.handle h).live = true ∧ (x.handle h).evicting = false
      (∀ h f, u = .resevict h f → begins →
        exec (.eventUpdate die) s = .next (s.setCtx ctx (x.setHandle h { x.handle h with evicting := true })))
      ∧ (¬ begins → s.updateReady ctx u = false → exec (.eventUpdate die) s = .next s)
      ∧ (¬ begins → s.updateReady ctx u = true → ∃ r, r = State.applyUpdate { s with updates := pre ++ post } ctx u
        ∧ exec (.eventUpdate die) s = .next ((r.1.startLaunches ctx).updateOver op r.2))

/-! ### Launches -/

/-- R339 to R343: a queue's home die reads each published record once and sends it to the other dies; every die admits a
queue's records in index order once the launch of 32 indexes before has ended, or refuses one that fails a check with its
cause, and DONE of the die advances. -/
def Says.Admission : Prop := ∀ (s : State) (ctx q : Nat), s.dies.length = 4 →
  let x := s.ctx ctx
  let hdr := nth 0 x.qhdr q
  (let i := nth 0 x.readIdx q
    let slot := s.rdN (hdr + 64) 8 + 192 * (i % 2 ^ (s.rdN (hdr + 72) 1 % 16))
    let r := BitVec.ofNat 1536 (s.rdN slot 192)
    (hdr = 0 ∨ x.registered = false ∨ s.rdN hdr 8 ≤ i → exec (.queueTailRead ctx q) s = .next s)
    ∧ (hdr ≠ 0 → x.registered = true → i < s.rdN hdr 8 → s.dirReady (hdr / 192) (.rdu 0 false) = true →
        s.dirReady (slot / 192) (.rdu 0 false) = true → s.poisoned hdr 192 = false → s.poisoned slot 192 = false →
      ∃ t, exec (.queueTailRead ctx q) s = .next t ∧ t.mem = s.mem
        ∧ t.ctx ctx = { x with readIdx := putAt x.readIdx q (i + 1) } ∧ (∀ c, c ≠ ctx → t.ctx c = s.ctx c)
        ∧ ∀ d < 4, t.die d = if d = homeDie hdr then { s.die d with got := (s.die d).got ++ [(ctx, q, i, r)] }
            else { s.die d with fwd := (s.die d).fwd ++ [(ctx, q, i, r)] }))
  ∧ (∀ d, ((s.die d).fwd = [] → exec (.launchRecordForward d) s = .next s)
      ∧ ∀ m l, (s.die d).fwd = m :: l → exec (.launchRecordForward d) s
          = .next (s.setDie d { s.die d with fwd := l, got := (s.die d).got ++ [m] }))
  ∧ ∀ die r, die < 4 →
    let i := NMap.get 0 x.admitIdx (8 * die + q)
    let got := (s.die die).got
    let f (hi lo : Nat) := r.toNat / 2 ^ lo % 2 ^ (hi + 1 - lo)
    let grid := f 376 376 = 0
    let bad2 := f 447 393 ≠ 0 ∨ f 391 390 ≠ 0 ∨ f 375 371 ≠ 0 ∨ f 311 308 ≠ 0
      ∨ (grid ∧ (f 255 248 ≠ 0 ∨ f 303 288 ≠ 0 ∨ f 191 176 ≠ 0)) ∨ (¬ grid ∧ (f 307 304 ≠ 0 ∨ f 287 256 ≠ 0 ∨ f 255 192 ≠ 0))
    let bad1 := ¬ (f 335 320 % 16 = 0 ∧ 16 ≤ f 335 320 ∧ f 335 320 ≤ 512) ∨ f 367 336 % 8 ≠ 0 ∨ 1572864 < f 367 336
      ∨ 32 < f 319 312 ∨ (grid ∧ (f 143 128 = 0 ∨ f 159 144 = 0 ∨ f 175 160 = 0)) ∨ (¬ grid ∧ f 303 288 = 0)
      ∨ (f 392 392 = 1 ∧ f 389 384 < 4)
    let bad4 := (grid ∧ f 63 0 % 8 ≠ 0) ∨ (¬ grid ∧ f 191 128 % 64 ≠ 0) ∨ f 511 448 % 8 ≠ 0
    let waits := ∃ l ∈ s.launches, l.ctx = ctx ∧ l.queue = q ∧ l.index + 32 = i
    let done (t : State) := t.rdN (hdr + 16 + 8 * die) 8 = (i + 1) % 2 ^ 64
      ∧ t.ctx ctx = { x with admitIdx := NMap.set 0 x.admitIdx (8 * die + q) (i + 1) }
      ∧ (t.die die).got = got.filter fun m => m != (ctx, q, i, r)
    ((∀ m ∈ got, m.1 = ctx → m.2.1 = q → m.2.2.1 ≠ i) → exec (.launchAdmit die ctx q) s = .next s)
    ∧ ((ctx, q, i, r) ∈ got → (∀ m ∈ got, m.1 = ctx → m.2.1 = q → m.2.2.1 = i → m = (ctx, q, i, r)) →
      (waits → exec (.launchAdmit die ctx q) s = .next s)
      ∧ (hdr ≠ 0 → ¬ waits → s.dirReady (hdr / 192) (.wr none none []) = true →
        (∀ c, (bad2 ∧ c = 0x02) ∨ (¬ bad2 ∧ bad1 ∧ c = 0x01) ∨ (¬ bad2 ∧ ¬ bad1 ∧ bad4 ∧ c = 0x04) →
          ∃ t, exec (.launchAdmit die ctx q) s = .next t ∧ done t ∧ t.launches = s.launches
            ∧ t.rdN (hdr + 48) 8 = 2 ^ 63 + c * 2 ^ 48 + i % 2 ^ 48
            ∧ t.msix = (if die = homeDie hdr then s.msix ++ [2] else s.msix)
            ∧ ∀ a, (a < hdr + 16 + 8 * die ∨ hdr + 24 + 8 * die ≤ a) → (a < hdr + 48 ∨ hdr + 56 ≤ a) → t.rdB a = s.rdB a)
        ∧ (¬ bad2 → ¬ bad1 → ¬ bad4 →
          (∀ l ∈ s.launches, l.ctx = ctx → l.queue = q → l.index = i → l.started = false) → (∀ l ∈ s.launches, l.lid ≠ s.nextId) →
          ∃ t, exec (.launchAdmit die ctx q) s = .next t ∧ done t ∧ t.msix = s.msix
            ∧ (∀ a, (a < hdr + 16 + 8 * die ∨ hdr + 24 + 8 * die ≤ a) → t.rdB a = s.rdB a)
            ∧ ((∀ l ∈ s.launches, l.ctx = ctx → l.queue = q → l.index ≠ i) → t.launches = s.launches ++
                [{ Launch.fresh s.nextId ctx q i r (homeDie hdr) with admitted := putAt (List.replicate 4 false) die true }])
            ∧ ∀ l, s.launches.find? (fun l => l.ctx == ctx && l.queue == q && l.index == i) = some l →
                t.launches = (s.setLaunch { l with admitted := putAt l.admitted die true }).launches)))

/-- R346, R354: when its wait mask is wholly set, a registered launch starts, and each die that has admitted it takes the crews
of its grid that are its own, in ascending order: those whose first tile the die homes, or, with no such tile, those whose
number is the die's modulo 4; the root tasks of a launch without a grid likewise, once their records can be read. -/
def Says.Distribution : Prop := ∀ (s : State) (lid : Nat) (l : Launch), s.launch? lid = some l →
  let n := l.f 143 128 * l.f 159 144 * l.f 175 160
  let x := s.ctx l.ctx
  let mine (d : Nat) := (List.range n).filter fun c => s.dieOf l.ctx (l.crewRange c) c == d
  (∀ c, (l.crewRange c).first = (l.f 231 192 + c * l.f 287 256) % 2 ^ 40 ∧ (l.crewRange c).count = l.f 239 232
      ∧ (l.crewRange c).weight = l.f 247 240)
  ∧ (∀ r c, (r.count = 0 → s.dieOf l.ctx r c = c % 4) ∧ (s.lookUp l.ctx (24576 * r.first) = none → s.dieOf l.ctx r c = c % 4)
      ∧ ∀ pa, r.count ≠ 0 → s.lookUp l.ctx (24576 * r.first) = some pa →
        s.dieOf l.ctx r c = if pa < 0xC000000000 then pa / 0x3000000000 else c % 4)
  ∧ (s.dies.length = 4 → l.admitted.length = 4 → l.taken = [none, none, none, none] → nth false l.admitted l.homeDie = true →
      l.registered = false → l.started = false → l.f 376 376 = 0 →
      BitVec.ofNat 256 (l.record.toNat / 2 ^ 1024) &&& ~~~x.ev = 0 →
      (∀ m ∈ s.launches, m.ctx = l.ctx → m.lid ≠ lid → m.registered = true → m.started = true) →
    ∃ t m, exec (.launchRegistration lid) s = .next t ∧ t.launch? lid = some m
      ∧ m = { l with registered := true, started := true, taken := m.taken }
      ∧ ∀ d < 4, (nth false l.admitted d = true → nth none m.taken d = some (mine d).length
          ∧ t.die d = { s.die d with crewQ := (s.die d).crewQ ++ (mine d).map fun c => (lid, c) })
        ∧ (nth false l.admitted d = false → nth none m.taken d = none ∧ t.die d = s.die d))
  ∧ (s.dies.length = 4 → l.taken.length = 4 → ∀ d < 4, nth none l.taken d = none →
    let due := l.started = true ∧ nth false l.admitted d = true
    let va (i : Nat) := (l.f 191 128 + 64 * i) % 2 ^ 64
    let free := ∀ i < l.f 303 288, ∀ pa, s.lookUp l.ctx (va i) = some pa → pa < 0xC000000000 →
      s.dirReady (pa / 192) (.rdu 0 false) = true
    (¬ due ∨ (l.f 376 376 = 1 ∧ ¬ free) → exec (.distributionReport lid d) s = .next s)
    ∧ (due → l.f 376 376 = 0 → exec (.distributionReport lid d) s = .next ((s.setDie d { s.die d with
        crewQ := (s.die d).crewQ ++ (mine d).map fun c => (lid, c) }).setLaunch
          { l with taken := putAt l.taken d (some (mine d).length) }))
    ∧ (due → l.f 376 376 = 1 → free → ∃ t n, exec (.distributionReport lid d) s = .next t
        ∧ ∃ u, TakesRoots l d (List.range (l.f 303 288)) s n u ∧ t = u.setLaunch { l with taken := putAt l.taken d (some n) }))
  ∧ ∀ d, (nth false l.reported d = true → (nth none l.taken d).isSome = true → exec (.distributionReport lid d) s = .next s)
    ∧ ∀ k, nth none l.taken d = some k → nth false l.reported d = false → exec (.distributionReport lid d) s
        = .next (s.setLaunch { l with reported := putAt l.reported d true, live := l.live + k })

/-- R25, R35, R347: a launch ends when every die has reported, its live count is 0 and no unit of it is left: held writes go out
first, once DIRTY stands in their leaves, then the completion word is written, once DIRTY stands in its leaf, or its failure told
in the queue's header, MSI-X is signalled, the set mask is ORed into the event vector, and the slot is free. -/
def Says.LaunchEnds : Prop := ∀ (s : State) (lid : Nat) (l : Launch), s.launch? lid = some l → l.heldUpd = [] →
  let va := l.f 511 448
  let hdr := nth 0 (s.ctx l.ctx).qhdr l.queue
  let finished := (∀ b ∈ l.reported, b = true) ∧ l.live = 0 ∧ ∀ c ∈ s.crews, c.lid ≠ lid
  let s0 := l.held.foldl (fun s h => s.sendHeld h) s
  let sig (m : List Nat) := if l.f 392 392 = 1 then m ++ [l.f 389 384] else m
  let ended (t : State) := exec (.launchEnd lid) s = .next t
    ∧ t.launches.map (fun m => m.lid) = (s.launches.filter fun m => m.lid != lid).map (fun m => m.lid)
    ∧ (t.ctx l.ctx).ev = (s.ctx l.ctx).ev ||| BitVec.ofNat 256 (l.record.toNat / 2 ^ 1280)
    ∧ (t.ctx l.ctx).evDie = List.replicate 4 (t.ctx l.ctx).ev
  (¬ finished → exec (.launchEnd lid) s = .next s)
  ∧ (s.endReady l = false → exec (.launchEnd lid) s = .next s)
  ∧ ((∃ h ∈ l.held, ∃ e, h.ent = some e ∧ s.dirtyPending e = true) → exec (.launchEnd lid) s = .next s)
  ∧ (finished → s.endReady l = true → (∀ m ∈ s.launches, m.ctx = l.ctx → m.lid ≠ lid → m.registered = true → m.started = true) →
    (va = 0 → ∃ t, ended t ∧ t.mem = s0.mem ∧ t.msix = sig s.msix)
    ∧ (l.held = [] → va ≠ 0 → va / 2 ^ 32 ≠ 0xFFFFFFFF → (s.ctx l.ctx).root % 8 = 0 →
      ∀ x s1, s.translate l.ctx va .write = (.ok x, s1) → let s2 := s1.setDirty x.ent
      (s2.dirtyPending x.ent = true → exec (.launchEnd lid) s = .next s2)
      ∧ (s2.dirtyPending x.ent = false → ∃ t, ended t ∧ t.msix = sig s.msix ∧ t.rdN x.pa 8 = 1
          ∧ ∀ a, a < x.pa ∨ x.pa + 8 ≤ a → t.rdB a = s2.rdB a))
    ∧ (l.held = [] → va ≠ 0 → ∀ c s1, (va / 2 ^ 32 = 0xFFFFFFFF ∧ c = 0x06 ∧ s1 = s)
          ∨ (va / 2 ^ 32 ≠ 0xFFFFFFFF ∧ s.translate l.ctx va .write = (.error c, s1)) →
      ∃ t, ended t ∧ t.msix = sig (s.msix ++ [2])
        ∧ t.rdN (hdr + 48) 8 = 2 ^ 63 + 2 ^ 62 + c % 256 * 2 ^ 48 + l.index % 2 ^ 48
        ∧ ∀ a, a < hdr + 48 ∨ hdr + 56 ≤ a → t.rdB a = s1.rdB a))
  ∧ ∀ h : HeldWrite, h.aop = none → (∀ i b, h.bytes[i]? = some b → (s.sendHeld h).rdB (h.pa + i) = b)
      ∧ ∀ a, a < h.pa ∨ h.pa + h.bytes.length ≤ a → (s.sendHeld h).rdB a = s.rdB a

/-! ### Starting and stealing -/

/-- R360: waiting tasks enter a table in arrival order; the crews of a grid start in ascending order, each on the best of its
die's clusters where it can start whole. -/
def Says.CrewStarts : Prop := ∀ (s : State) (die : Nat),
  ((s.die die).insQ = [] → exec (.insertionQueueDrain die) s = .next s)
  ∧ (∀ e l m, (s.die die).insQ = e :: l → s.launch? e.lid = some m → m.ctx = e.ctx →
    ((s.ctx e.ctx).rtback = 0 ∨ (∀ j, j / 24 = die → (s.cluster j).freeSlot = none) →
      exec (.insertionQueueDrain die) s = .next s)
    ∧ ((s.ctx e.ctx).rtback ≠ 0 → (∃ j, j / 24 = die ∧ (s.cluster j).freeSlot ≠ none) → ∃ t, exec (.insertionQueueDrain die) s = .next t
        ∧ Placed (s.setDie die { s.die die with insQ := l }) t die e))
  ∧ ((s.die die).crewQ = [] → exec (.crewStart die) s = .next s)
  ∧ (∀ lid c rest l, (s.die die).crewQ = (lid, c) :: rest → s.launch? lid = some l →
    let u := l.crewSpec c
    (u.size = l.f 307 304 + 1 ∧ u.regs = l.f 335 320 ∧ u.scratch = l.f 367 336 ∧ u.nbar = l.f 319 312
      ∧ u.entry.toNat = l.f 63 0 ∧ u.arg.toNat = l.f 127 64 ∧ u.prio = l.f 383 380 ∧ u.index = c)
    ∧ ((∀ k, k / 24 = die → s.canStart k u = false) → exec (.crewStart die) s = .next s)
    ∧ ∀ k, Best s u (fun k => k / 24 = die ∧ s.canStart k u = true) k → l.redundant = false → s.resizeReady k u.scratch = true →
      (∀ x ∈ (s.cluster k).cache, x.dirty = 0) → ∃ t, exec (.crewStart die) s = .next t
        ∧ t.mem = s.mem ∧ t.dies = putAt s.dies die { s.die die with crewQ := rest }
        ∧ Started s t k s.nextId u l.isVersioned .single)
  ∧ ∀ k u, s.canStart k u = true → (s.ctx u.ctx).registered = true ∧ (s.ctx u.ctx).out = false ∧ s.barsUsed k + u.nbar ≤ 128
      ∧ u.size ≤ ((List.range 4).map fun i => min (16 - s.coreGroups (4 * k + i))
        (if u.regs = 0 then 0 else (1536 - (s.groups.map fun g => if g.core = 4 * k + i ∧ !g.retired then g.count else 0).sum)
          / u.regs)).sum

/-- R349, R361, R362: a cluster starts the READY entry of its table that comes first: highest priority, highest score, smallest
predicted difference, lowest slot; if that one cannot start it starts nothing; and a dispatch that would unbalance its series
pair is deferred while the partner could start one. -/
def Says.TaskDispatch : Prop := ∀ (s : State) (k : Nat),
  (s.readyEntries k = [] → exec (.taskDispatch k) s = .next s)
  ∧ ∀ i e l, (i, e) ∈ s.readyEntries k → s.launch? e.lid = some l → l.ctx = e.ctx →
    let cost (x : Nat × Ready) := (s.ctx x.2.ctx).cost (x.2.task.f 470 468)
    let sc (x : Nat × Ready) := s.score k x.2.ctx x.2.task.ranges
    let u := l.taskSpec e.task e.prio
    (∀ x ∈ s.readyEntries k, x ≠ (i, e) → x.2.prio < e.prio ∨ (x.2.prio = e.prio ∧ (sc x < sc (i, e) ∨ (sc x = sc (i, e)
      ∧ (s.pairDiff k (cost (i, e)) < s.pairDiff k (cost x) ∨ (s.pairDiff k (cost x) = s.pairDiff k (cost (i, e)) ∧ i < x.1)))))) →
    let p := if k % 2 = 0 then k + 1 else k - 1
    let gap (a b : Nat) := max a b - min a b
    let a := s.current' k
    let b := s.current' p
    let c := cost (i, e)
    let would := a + c + b < 10 * gap (a + c) b ∧ gap a b < gap (a + c) b ∧ ∃ x ∈ s.readyEntries p, s.startable p x.2 = true
    (s.canStart k u = false → exec (.taskDispatch k) s = .next s)
    ∧ (would → k % 2 = 1 → exec (.taskDispatch k) s = .next s)
    ∧ (¬ would → s.canStart k u = true → l.redundant = false → s.resizeReady k u.scratch = true →
        (∀ x ∈ (s.cluster k).cache, x.dirty = 0) → e.task.startFault = none → ∃ t, exec (.taskDispatch k) s = .next t
        ∧ t.mem = s.mem ∧ (t.cluster k).entry i = none ∧ Started s t k s.nextId u l.isVersioned .single)
    ∧ (u.size = 1 ∧ u.regs = l.f 335 320 ∧ u.scratch = l.f 367 336 ∧ u.nbar = l.f 319 312 ∧ u.entry.toNat = e.task.f 63 0 / 8 * 8
        ∧ u.arg.toNat = e.task.f 127 64 ∧ u.prio = e.prio ∧ u.ecls = e.task.f 470 468 ∧ u.task = some e.task)

/-- R363, R364, R367, Table 15-8: stealing: a cluster with nothing READY takes an entry from the cluster of its die with the
most that it could start, by copy, acknowledgement and confirmation. -/
def Says.Stealing : Prop := ∀ (s : State) (die k : Nat),
  let steals := (s.die die).steals
  let put (t : State) (l : List StealMsg) := t.setDie die { s.die die with steals := l }
  (k / 24 = die →
    ((∃ i r, (i, some r) ∈ (s.cluster k).ready ∧ r.st = .ready) ∨ (s.cluster k).freeSlot = none → exec (.steal k) s = .next s)
    ∧ ((∀ v, v / 24 = die → v ≠ k → s.stealable v k = []) → exec (.steal k) s = .next s)
    ∧ ∀ v i e, (∀ j r, (j, some r) ∈ (s.cluster k).ready → r.st ≠ .ready) → (s.cluster k).freeSlot ≠ none →
      v / 24 = die → v ≠ k → s.chosen v (s.stealable v k) = some (i, e) →
      (∀ h, h / 24 = die → h ≠ k → h ≠ v → (s.stealable h k).length < (s.stealable v k).length
        ∨ ((s.stealable h k).length = (s.stealable v k).length ∧ v < h)) →
      exec (.steal k) s = .next (put (s.setReady v i (some { e with st := .transit k })) (steals ++ [.copy v i k e])))
  ∧ (∀ v k x, x ∈ s.stealable v k ↔ x ∈ s.readyEntries v ∧ x.2.task.bits.toNat.testBit 471 = false
      ∧ (s.ctx x.2.ctx).rtback ≠ 0 ∧ s.startable k x.2 = true)
  ∧ (∀ (pre : List StealMsg) (v i k : Nat) (e0 : Ready) (post : List StealMsg), steals = pre ++ .copy v i k e0 :: post → (∀ m ∈ pre, ∀ v i k e, m ≠ .copy v i k e) →
    ((s.cluster k).freeSlot = none → exec (.stealCopy die) s = .next s)
    ∧ (∀ e, (s.cluster v).entry i = some e → (s.ctx e.ctx).rtback = 0 → exec (.stealCopy die) s = .next s)
    ∧ ∀ e j, (s.cluster v).entry i = some e → (s.ctx e.ctx).rtback ≠ 0 → (s.cluster k).freeSlot = some j → exec (.stealCopy die) s
        = .next (put (s.setReady k j (some { e with st := .pending v i })) (pre ++ post ++ [.ack v i k j])))
  ∧ (∀ (pre : List StealMsg) (v i k j : Nat) (post : List StealMsg), steals = pre ++ .ack v i k j :: post → (∀ m ∈ pre, ∀ v i k j, m ≠ .ack v i k j) →
    exec (.stealAck die) s = .next (put (s.setReady v i none) (pre ++ post ++ [.confirm k j])))
  ∧ (∀ (pre : List StealMsg) (k j : Nat) (post : List StealMsg) (e : Ready), steals = pre ++ .confirm k j :: post → (∀ m ∈ pre, ∀ k j, m ≠ .confirm k j) →
    .confirm k j ∉ post → (s.cluster k).entry j = some e →
    (e.cancel = false → exec (.stealConfirm die) s = .next (put (s.setReady k j (some { e with st := .ready })) (pre ++ post)))
    ∧ (e.cancel = true → ∀ l, s.launch? e.lid = some l → exec (.stealConfirm die) s
        = .next ((put (s.setReady k j none) (pre ++ post)).setLaunch { l with live := l.live - 1 })))
  ∧ (steals = [] → exec (.stealCopy die) s = .next s ∧ exec (.stealAck die) s = .next s ∧ exec (.stealConfirm die) s = .next s)

/-! ### Retirement -/

/-- R23, R48, R385: a group retires when its splits have ended and its operations are complete, returning its tokens; a crew,
when its groups have retired and its commands have completed: it commits, and is counted out of its launch. -/
def Says.Retirement : Prop := ∀ (s : State),
  (∀ gid x, s.group? gid = some x →
    (x.splits ≠ [] ∨ x.retired = true ∨ (∃ o ∈ s.ops, o.gid = gid) → exec (.groupRetire gid) s = .next s)
    ∧ (x.splits = [] → x.retired = false → (∀ o ∈ s.ops, o.gid ≠ gid) → ∃ t, exec (.groupRetire gid) s = .next t
      ∧ { t with cores := [] } = { s.setGroup { x with retired := true } with cores := [] }
      ∧ (∀ a, ((t.core x.core).acc a).token = if ((s.core x.core).acc a).token = some gid then none else ((s.core x.core).acc a).token)
      ∧ (∀ a, ((t.core x.core).acc a).val = ((s.core x.core).acc a).val) ∧ ∀ c, c ≠ x.core → t.core c = s.core c))
  ∧ ∀ cid c, s.crew? cid = some c →
    let ended := (∀ g ∈ s.groups, g.cid = cid → g.retired = true) ∧ (∀ x ∈ s.copies, x.cid ≠ cid) ∧ (∀ x ∈ s.sreds, x.cid ≠ cid)
      ∧ c.outst = 0 ∧ ∀ l, s.launch? c.lid = some l → l.replay = []
    let gone (t : State) := t.crews = s.crews.filter (fun x => x.cid != cid)
      ∧ t.groups = s.groups.filter (fun g => g.cid != cid)
      ∧ ∀ l, s.launch? c.lid = some l → t.launch? c.lid = some { l with live := l.live - 1 }
    let plain := c.restart = false ∧ c.task = none ∧ c.role = .single
    (¬ ended → exec (.crewRetire cid) s = .next s)
    ∧ (ended → plain → c.discarded = false → (∀ g ∈ s.groups, g.cid = cid → g.revived = false) → s.version? cid = none →
      ∃ t, exec (.crewRetire cid) s = .next t ∧ gone t ∧ t.mem = s.mem)
    ∧ (ended → plain → (c.discarded = true ∨ ∃ g ∈ s.groups, g.cid = cid ∧ g.revived = true) →
      ∃ t, exec (.crewRetire cid) s = .next t ∧ gone t ∧ t.mem = s.mem)
    ∧ ∀ v, ended → plain → c.discarded = false → (∀ g ∈ s.groups, g.cid = cid → g.revived = false) → s.version? cid = some v →
      v.reds = [] → v.held = [] → v.recs = [] → NMap.wf none v.bytes = true →
      ((∃ l ∈ v.lines, s.dirReady l (.cmt cid) = false) → exec (.crewRetire cid) s = .next s)
      ∧ ((∀ l ∈ v.lines, s.dirReady l (.cmt cid) = true) → ∃ t, exec (.crewRetire cid) s = .next t
        ∧ t.crews = s.crews.filter (fun x => x.cid != cid) ∧ t.version? cid = none
        ∧ ∀ a, t.rdB a = match NMap.get none v.bytes a with
          | some b => if a / 192 ∈ v.lines then b else s.rdB a
          | none => s.rdB a)

/-- R350, R351, R353: the completion of a task: it waits until it can have its successors' lines and its commit can be made; its
counters are checked in ascending order, each its address, its value, and the record it would release, as the commit of its
version leaves them; the first failure revives the group in its trap, once its core has room; else, once DIRTY stands, every
counter takes its decrements on the committed value and those that reach 0 release their tasks. -/
def Says.Completion : Prop := ∀ (s : State) (c : Crew),
  (∀ (after : State) va n,
    (va % 192 ≠ 64 → s.counterAt after c va n = (.error 0x04, s))
    ∧ (va % 192 = 64 → ∀ e s1, s.translate c.ctx va .write = (.error e, s1) → s.counterAt after c va n = (.error e, s1))
    ∧ (va % 192 = 64 → ∀ x s1, s.translate c.ctx va .write = (.ok x, s1) →
      let v := after.rdN x.pa 4
      let t : TaskRec := { bits := BitVec.ofNat 512 (after.rdN (x.pa - 64) 64), addr := BitVec.ofNat 64 (va - 64) }
      (rangeOf x.pa ≠ .device ∨ x.nc = true → s.counterAt after c va n = (.error 0x06, s1))
      ∧ (rangeOf x.pa = .device → x.nc = false →
        (v < n → s.counterAt after c va n = (.error 0x0D, s1))
        ∧ (n < v → s.counterAt after c va n = (.ok { va, pa := x.pa, ent := x.ent, n := n, free := none }, s1))
        ∧ (v = n → s1.launchFor c.ctx c.lid t = none → s.counterAt after c va n = (.error 0x01, s1))
        ∧ (v = n → ∀ l, s1.launchFor c.ctx c.lid t = some l →
          s.counterAt after c va n = (.ok { va, pa := x.pa, ent := x.ent, n := n, free := some (l.lid, t) }, s1)))))
  ∧ (∀ t : TaskRec, let a := t.f 191 128
    let b := t.f 255 192
    succCounts t.succs = if a = 0 ∧ b = 0 then [] else if a = 0 then [(b, 1)] else if b = 0 then [(a, 1)]
      else if a = b then [(a, 2)] else [(min a b, 1), (max a b, 1)])
  ∧ ∀ cid t g, s.crew? cid = some c → c.task = some t → s.groups.find? (fun g => g.cid == cid) = some g →
    let ended := (∀ g ∈ s.groups, g.cid = cid → g.retired = true) ∧ (∀ x ∈ s.copies, x.cid ≠ cid) ∧ (∀ x ∈ s.sreds, x.cid ≠ cid)
      ∧ c.outst = 0 ∧ ∀ l, s.launch? c.lid = some l → l.replay = []
    (¬ ended → exec (.taskCompletion cid) s = .next s)
    ∧ (ended → c.restart = false → c.role = .single → c.discarded = false → (∀ g ∈ s.groups, g.cid = cid → g.revived = false) →
      let judged := s.counters (s.commit c) c (succCounts t.succs)
      let idle (s : State) (pa : Nat) := s.dirReady (pa / 192) (.wr none none []) = true
      let free := s.commitReady c = true ∧ ∀ va ∈ t.succs, ∀ pa, s.lookUp c.ctx va = some pa → pa < 0xC000000000 → idle s pa
      let dirtied (s1 : State) (ks : List Counter) := ks.foldl (fun (s : State) k => s.setDirty k.ent) s1
      let set (s1 : State) (ks : List Counter) := ∀ k ∈ ks, idle (dirtied s1 ks) k.pa ∧ (dirtied s1 ks).dirtyPending k.ent = false
      let clean (s1 : State) (ks : List Counter) := ∀ k ∈ ks, s1.unitPoisoned c (k.pa - 64) 68 = false
      (¬ free → exec (.taskCompletion cid) s = .next s)
      ∧ (∀ e va s1, free → judged = (.error (e, va), s1) →
        let room := s1.coreGroups g.core < 16
          ∧ g.count ≤ 1536 - (s1.groups.map fun h => if h.core = g.core ∧ !h.retired then h.count else 0).sum
        (¬ room → exec (.taskCompletion cid) s = .next s1)
        ∧ (room → exec (.taskCompletion cid) s = .next ((((s1.wakeCluster (g.core / 4)).lapse g.core (s1.ctxOf g)).setGroup
          { g with retired := false, revived := true, splits := [Split.start g.lastExit] }).trapEntry
            g.gid 0 { cause := e, taddr := BitVec.ofNat 64 va } g.lastExit 0 true)))
      ∧ (∀ ks s1, free → judged = (.ok ks, s1) → ¬ clean s1 ks → ∃ k ∈ ks, s1.unitPoisoned c (k.pa - 64) 68 = true
        ∧ exec (.taskCompletion cid) s = .next (s1.unitError c k.pa))
      ∧ (∀ ks s1, free → judged = (.ok ks, s1) → clean s1 ks → ¬ set s1 ks →
        exec (.taskCompletion cid) s = .next (dirtied s1 ks))
      ∧ (∀ ks s1, free → judged = (.ok ks, s1) → clean s1 ks → set s1 ks → s.version? cid = none →
        (∀ k ∈ ks, k.free = none) → (ks.map fun k => k.pa / 192).Nodup → (∀ k ∈ ks, k.pa % 4 = 0) →
        ∃ t, exec (.taskCompletion cid) s = .next t ∧ t.crews = s.crews.filter (fun x => x.cid != cid)
          ∧ (∀ l, s.launch? c.lid = some l → l.replayable = false → (t.launch? c.lid).map (fun m => m.live) = some (l.live - 1))
          ∧ (∀ k ∈ ks, t.rdN k.pa 4 = ((dirtied s1 ks).rdN k.pa 4 + 2 ^ 32 - k.n) % 2 ^ 32)
          ∧ ∀ a, (∀ k ∈ ks, a < k.pa ∨ k.pa + 4 ≤ a) → t.rdB a = (dirtied s1 ks).rdB a)
      ∧ ∀ k lid r s1 l, free → judged = (.ok [k], s1) → clean s1 [k] → set s1 [k] → s.version? cid = none →
        k.free = some (lid, r) → s1.launch? lid = some l → s1.replayLaunch c = none →
        ∃ s2 s3 : State, exec (.taskCompletion cid) s = .next (s3.unitOver c)
          ∧ Inserted s2 s3 (homeDie k.pa) { lid, ctx := l.ctx, task := r, prio := r.f 467 464, st := .ready, cancel := false }
          ∧ (s2.launch? lid).map (fun m => m.live) = some (l.live + 1)
          ∧ s2.rdN k.pa 4 = ((dirtied s1 [k]).rdN k.pa 4 + 2 ^ 32 - k.n) % 2 ^ 32 ∧ s2.crews = s1.crews)

/-- R402 to R409: the signature of a version is the sum over its bytes, held writes, RED operands and recorded instructions; a
difference of the signatures of a redundant unit's copies runs both again once and then is fatal, equality
leaves the primary to commit; a replay ends the groups of its launch and, once what they have outstanding is complete, drops
what its units hold, writes back the snapshotted pages and admits the launch again; a fourth, or one in conflict, is fatal.
Log 118 (DEDUCED from R14 and R404): nothing outstanding is cut off, an error of the launch that arrives meanwhile is recovered
by the same replay, and a conflict that arises meanwhile is fatal at the write-back. -/
def Says.RedundancyAndReplay : Prop := ∀ (s : State),
  (∀ cid v, s.version? cid = some v →
    let term (va b : Nat) : Nat :=
      let x := (va * 256 + b) % 2 ^ 64 * 0x9E3779B97F4A7C15 % 2 ^ 64
      Nat.xor x (x / 2 ^ 29)
    let run (va : Nat) (bs : List Byte) := ((List.range bs.length).map fun i => term (va + i) (nth 0 bs i).toNat).sum
    let operand (r : RedRec) (a : LaneAcc) :=
      (if r.aop = 9 then toBytes (wtBytes r.wt) a.cmp else []) ++ toBytes (wtBytes r.wt) a.data
    s.sigOf cid = ((v.bytes.map fun e => match e.2, NMap.get none v.vas e.1 with
          | some b, some va => term va b.toNat
          | _, _ => 0).sum
        + (v.held.map fun h => run h.va h.bytes).sum
        + (v.reds.map fun r => (r.acc.map fun a => run a.va (operand r a)).sum).sum
        + (v.recs.map fun u => match u with
          | .tspawn _ t => run t.addr.toNat (toBytes 64 t.bits.toNat)
          | .launch _ va r => run va.toNat (toBytes 192 r.toNat)
          | _ => 0).sum) % 2 ^ 64)
  ∧ (∀ cid p q d, s.crew? cid = some p → p.role = .primary q → s.crew? q = some d →
    let ended := s.crewDone p = true ∧ s.crewDone d = true ∧ p.restart = false ∧ d.restart = false
    let die := p.cluster / 24
    let info : ErrInfo := { detail := p.utag, loc := locOf p.cluster 0, ctx := some p.ctx, cause := 0x13 }
    (¬ ended → exec (.redundantCompare cid) s = .next s)
    ∧ (ended → s.sigOf cid = s.sigOf q → p.reruns = 0 → cid ≠ q → ∃ t, exec (.redundantCompare cid) s = .next t
        ∧ t.crew? cid = some { p with role := .single } ∧ t.crew? q = none ∧ t.mem = s.mem ∧ t.version? cid = s.version? cid)
    ∧ (ended → s.sigOf cid ≠ s.sigOf q → p.reruns = 0 → cid ≠ q → ∃ t, exec (.redundantCompare cid) s = .next t ∧ t.mem = s.mem
        ∧ t.crew? cid = some { p with restart := true, reruns := 1 } ∧ t.crew? q = some { d with restart := true, reruns := 1 })
    ∧ (ended → s.sigOf cid ≠ s.sigOf q → p.reruns ≠ 0 → exec (.redundantCompare cid) s = .next (s.fatal die 0x22 info)))
  ∧ ∀ lid l loc addr, s.launch? lid = some l →
    let info : ErrInfo := { loc, addr, ctx := some l.ctx, cause := 0x07 }
    let e : ReplayErr := { die := loc / 2 ^ 15, event := 0x10, loc, addr }
    let replay := exec (.replay ⟨lid, loc, addr⟩) s
    let quiet := ∀ c ∈ s.crews, c.lid = lid → (∀ x ∈ s.copies, x.cid ≠ c.cid) ∧ (∀ x ∈ s.sreds, x.cid ≠ c.cid) ∧ c.outst = 0
      ∧ ∀ g ∈ s.groups, g.cid = c.cid → ∀ o ∈ s.ops, o.gid = g.gid → o.kind.waits = true
    let still := (∀ q ∈ s.dir, q.2.queue = []) ∧ ∀ q ∈ l.snaps, ∀ x ∈ q.2, x.1 / 24576 = q.1
    let restored (t : State) : Prop := t.launch? lid = some { l with
          registered := false, started := false, taken := List.replicate 4 none, reported := List.replicate 4 false
          live := 0, replays := l.replays + 1, snaps := [], conflict := false, held := [], heldUpd := [], replay := [] }
      ∧ (∀ c ∈ t.crews, c.lid ≠ lid) ∧ (∀ v ∈ t.saved, v.crew.lid ≠ lid)
      ∧ (∀ c x, t.launch? c = some x → c ≠ lid → s.launch? c = some x)
      ∧ (∀ a, (∀ q ∈ l.snaps, q.1 ≠ a / 24576) → t.rdB a = s.rdB a)
      ∧ ∀ pre p old post, l.snaps = pre ++ (p, old) :: post → (∀ q ∈ post, q.1 ≠ p) → NMap.wf unlisted old = true →
        ∀ a, a / 24576 = p → t.rdB a = NMap.get unlisted old a
    let ending (t : State) (es : List ReplayErr) : Prop := t.launch? lid = some { l with replay := es } ∧ t.mem = s.mem
      ∧ t.copies = s.copies ∧ t.sreds = s.sreds ∧ (∀ v ∈ t.saved, v.crew.lid ≠ lid)
      ∧ ∀ c ∈ s.crews, c.lid = lid → ∃ d ∈ t.crews, d.cid = c.cid ∧ ∀ g ∈ t.groups, g.cid = c.cid → g.splits = []
    (l.replayable = false → replay = .next s)
    ∧ (l.replayable = true → l.replay ≠ [] → replay = .next (s.setLaunch { l with replay := l.replay ++ [e] }))
    ∧ (l.replayable = true → l.replay = [] → l.conflict = true → replay
        = .next (s.fatal (loc / 2 ^ 15) 0x23 { info with detail := 1 }))
    ∧ (l.replayable = true → l.replay = [] → l.conflict = false → 3 ≤ l.replays → replay
        = .next (s.fatal (loc / 2 ^ 15) 0x23 info))
    ∧ (l.replayable = true → l.replay = [] → l.conflict = false → l.replays < 3 → still →
      (quiet → ∃ t, replay = .next t ∧ restored t) ∧ (¬ quiet → ∃ t, replay = .next t ∧ ending t [e]))
    ∧ ∀ x xs, l.replay = x :: xs → still →
      (quiet → l.conflict = false → restored (s.replayOn lid))
      ∧ (quiet → l.conflict = true → s.replayOn lid
        = s.fatal x.die 0x23 { loc := x.loc, addr := x.addr, ctx := some l.ctx, cause := 0x07, detail := 1 })
      ∧ (¬ quiet → ending (s.replayOn lid) (x :: xs))

/-! ### Traps -/

/-- R376 to R379, R396, Tables 16-3 and 16-4: TRAPENTRY: the trap registers of the split, the handler's lanes, mode and pc, and the
version that is lost; a trap in handler mode, or with no TVEC, parks the group with a fault record. TRAP and BKPT take it, with
the word after them as the return point. -/
def Obligations.TakingTraps : Prop := ∀ (s : State) (gid sp : Nat) (g : Group) (c : Crew) (p : Split) (t : Trap) (pc : DWord) (w : Nat)
    (rev : Bool), s.group? gid = some g → s.crew? g.cid = some c → g.split? sp = some p →
  let tvec := (s.ctx c.ctx).tvec
  let tag := match c.task with
    | some r => r.bits.toNat / 2 ^ 448 % 2 ^ 16
    | none => c.index % 2 ^ 16
  let small := t.cause < 256 ∧ t.lane < 256 ∧ t.code < 256 ∧ t.opc < 256 ∧ w < 16
  let set (q : TrapRegs) := q.tepc = pc ∧ q.taddr = t.taddr ∧ q.texec = p.exec ∧ q.trep = p.rep.word
    ∧ (small → q.tcause.toNat = c.versioned.toNat * 2 ^ 31 + rev.toNat * 2 ^ 30 + t.code * 2 ^ 16 + t.lane * 2 ^ 8 + t.cause
      ∧ q.tinfo.toNat = tag * 2 ^ 16 + t.opc * 2 ^ 8 + w)
  let parks (r : State) (kind : Nat) := ∃ (g' : Group) (rec_ : FaultRec), r.group? gid = some g'
    ∧ g'.parked = some { record := (s.ctx c.ctx).nextFault, split := sp, trap := t }
    ∧ (r.ctx c.ctx).faults = (s.ctx c.ctx).faults ++ [rec_] ∧ rec_.id = (s.ctx c.ctx).nextFault ∧ rec_.kind = kind
    ∧ rec_.cause = (if kind = 2 then 0x18 else t.cause) ∧ rec_.ncause = (if kind = 2 then t.cause else 0)
    ∧ rec_.addr = t.page.getD t.taddr ∧ rec_.lane = t.lane ∧ rec_.tag = tag ∧ rec_.ngrp = 1 ∧ rec_.index = none
  (g.endReq = true → s.trapEntry gid sp t pc w rev = s.setGroup (g.setSplit (p.backAt pc w)))
  ∧ (g.endReq = false → p.hmode = true → s.trapEntry gid sp t pc w rev = s.park gid sp 2 t ∧ parks (s.trapEntry gid sp t pc w rev) 2)
  ∧ (g.endReq = false → p.hmode = false → tvec ≠ 0 → ∃ (g' : Group) (q : Split), (s.trapEntry gid sp t pc w rev).group? gid = some g' ∧ g'.split? sp = some q
      ∧ set q.trap ∧ q.exec = p.memb ∧ q.memb = p.memb ∧ q.hmode = true ∧ StandsAt q tvec ∧ q.stack = p.stack ∧ q.jpc = p.jpc
      ∧ g'.v = g.v ∧ g'.sr = g.sr ∧ (∀ n, n ≠ sp → g'.split? n = g.split? n)
      ∧ (s.trapEntry gid sp t pc w rev).mem = s.mem)
  ∧ (g.endReq = false → p.hmode = false → tvec = 0 → ∃ (g' : Group) (q : Split), (s.trapEntry gid sp t pc w rev).group? gid = some g' ∧ g'.split? sp = some q
      ∧ set q.trap ∧ q.pc = pc ∧ q.entry = w ∧ q.hmode = false ∧ parks (s.trapEntry gid sp t pc w rev) 1)
  ∧ (g.endReq = false → p.hmode = false → c.versioned = true → c.discarded = false → tvec ≠ 0 → ∀ v, s.version? c.cid = some v →
      (s.trapEntry gid sp t pc w rev).version? c.cid = some (Version.empty c.cid v.holder)
      ∧ (s.trapEntry gid sp t pc w rev).crew? c.cid = some { c with discarded := true }
      ∧ ∀ h x, h ≠ gid → s.group? h = some x → (s.trapEntry gid sp t pc w rev).group? h
          = some (if x.cid = c.cid then { x with endReq := true } else x))
  ∧ (∀ d (q : TrapRegs), q = p.trap → p.trapReg d 0x30 = q.tcause ∧ p.trapReg d 0x35 = q.tinfo ||| (if p.hmode then 16 else 0))
  ∧ (t.cause ≠ 0x05 → t.cause ≠ 0x07 → t.fetch = false →
      (t.next = false → s.raise gid sp t = s.trapEntry gid sp t p.pc (if p.cl.isSome then p.widx else p.entry) false)
      ∧ ∀ cl, p.cl = some cl → t.next = true →
        let n := p.widx + 1 + if carriesLit (nth 0 cl.words (p.widx - 1)) then 1 else 0
        (n ≤ cl.words.length → s.raise gid sp t = s.trapEntry gid sp t p.pc n false)
        ∧ (cl.words.length < n → s.raise gid sp t
            = (s.trapEntry gid sp t (p.pc + BitVec.ofNat 64 (8 * (cl.words.length + 1))) 0 false).lastIssued g p))
  ∧ (t.fetch = true → t.next = false → t.cause ≠ 0x05 → t.cause ≠ 0x07 →
      s.raise gid sp t = s.trapEntry gid sp t p.pc (if t.cause = 0x0F then 0 else p.entry) false)
  ∧ (t.cause = 0x07 → t.fetch = false → t.next = false →
      let loc := locOf c.cluster g.core
      let addr := if t.inside = true then 0 else (s.lookUp c.ctx t.taddr.toNat).getD 0
      (∀ l, s.replayLaunch c = some l → s.raise gid sp t = { s with agenda := .replay ⟨l.lid, loc, addr⟩ :: s.agenda })
      ∧ (s.replayLaunch c = none → c.versioned = true →
          s.raise gid sp t = s.trapEntry gid sp t p.pc (if p.cl.isSome then p.widx else p.entry) false)
      ∧ (s.replayLaunch c = none → c.versioned = false →
          s.raise gid sp t = s.fatal (c.cluster / 24) 0x20 { addr, loc, ctx := some c.ctx, cause := 0x07 }))
  ∧ (t.cause = 0x05 → (s.ctx c.ctx).halt = none → s.raise gid sp t = s.park gid sp 0 t)
  ∧ (t.cause = 0x05 → s.raise gid sp t = s.park gid sp 0 t ∨ ((s.ctx c.ctx).halt ≠ none
      ∧ s.raise gid sp t = s.setGroup (g.setSplit { p with hold := .halted })))
  ∧ ∀ (k : Issuer) (o : OpE),
    (Accepted (.trap o) s k → Traps (.trap o) s k s { cause := 0x15, code := o.mode.toNat % 256, next := true })
    ∧ (Accepted (.bkpt o) s k → Traps (.bkpt o) s k s { cause := 0x14, code := o.mode.toNat % 256, next := true })

/-- R387, R397, R398: RTT: outside the handler it traps; it resumes the split where the trap registers say, ends a revived group,
or starts the unit again; PHINT checks its ranges, and holds its split only while a stop of its group is pending. -/
def Says.ReturnAndHint : Prop := ∀ (s : State) (k : Issuer) (o : OpE),
  (Accepted (.rtt o) s k → k.p.hmode = false → Traps (.rtt o) s k s { cause := 0x01 })
  ∧ (Accepted (.rtt o) s k → k.p.hmode = true →
    (k.p.trap.tcause.getLsbD 31 = false → k.p.trap.tcause.getLsbD 30 = false →
      ∃ (t : State) (g : Group) (p : Split), exec (.rtt o) s = .next t ∧ OutsideKept s t ∧ t.group? k.g.gid = some g ∧ g.split? k.p.num = some p
        ∧ g.v = k.g.v ∧ g.sr = k.g.sr ∧ p.exec = k.p.trap.texec &&& k.p.memb ∧ p.memb = k.p.memb ∧ p.pc = k.p.trap.tepc
        ∧ p.entry = k.p.trap.tinfo.toNat % 16 ∧ p.hmode = false ∧ p.cl = none
        ∧ p.rep = (let n := k.p.trap.trep.toNat
            if n.testBit 16 then { act := true, step := n / 2 ^ 12 % 16, next := n / 64 % 64, remain := n % 64 } else Rep.idle))
    ∧ (k.p.trap.tcause.getLsbD 31 = true → ∃ t, exec (.rtt o) s = .next t ∧ t.mem = s.mem
        ∧ t.crew? k.c.cid = some { k.c with restart := true } ∧ ∀ g ∈ t.groups, g.cid = k.c.cid → g.splits = [])
    ∧ (k.p.trap.tcause.getLsbD 31 = false → k.p.trap.tcause.getLsbD 30 = true → ∃ t, exec (.rtt o) s = .next t ∧ t.mem = s.mem
        ∧ ∀ g, t.group? k.g.gid = some g → g.revived = false ∧ g.split? k.p.num = none))
  ∧ (Accepted (.phint o) s k →
    let fits (w : Word) := w.toNat / 2 ^ 16 = 0 ∨ w.toNat % 2 ^ 16 + w.toNat / 2 ^ 16 ≤ (k.c.scratchSize + 63) / 64
    (¬ fits (k.s o.b) ∨ ¬ fits (k.s o.c) → Traps (.phint o) s k s { cause := 0x01 })
    ∧ (fits (k.s o.b) → fits (k.s o.c) → k.g.stopReq = false → OnlyMoves (.phint o) s k)
    ∧ (fits (k.s o.b) → fits (k.s o.c) → k.g.stopReq = true → exec (.phint o) s
        = .next (s.setGroup (k.g.setSplit { k.p with hold := .phint (k.s64 o.a) (k.s o.b) (k.s o.c) }))))

/-- R399, R401: TLBINV drops the cached translations of the pages that its range touches, or all; HALT stops its split after its
word and, unless one is in force, halts its context with a record of KIND 3. -/
def Says.InvalidateAndHalt : Prop := ∀ (s : State) (k : Issuer) (o : OpE),
  (Accepted (.tlbinv o) s k →
    let n := (k.s o.b).toNat
    let va := (k.s64 o.a).toNat
    let first := va / 24576
    let last := (va + 24576 * n - 1) / 24576
    (n = 0 ∨ 2 ^ 24 ≤ n → Traps (.tlbinv o) s k s { cause := 0x01 })
    ∧ (0 < n → n < 2 ^ 24 → ¬ Room s k → Holds (.tlbinv o) s s)
    ∧ (0 < n → n < 2 ^ 24 → Room s k → Issues (.tlbinv o) s k s (.tlbinv first (last - first + 1) false)))
  ∧ (Accepted (.tlbinvAll o) s k → (Room s k → Issues (.tlbinvAll o) s k s (.tlbinv 0 0 true))
    ∧ (¬ Room s k → Holds (.tlbinvAll o) s s))
  ∧ (∀ op x g c first n all, InFlight s op x g c → x.kind = .tlbinv first n all → ∃ t : State, Performs op s x t
      ∧ t = s.setCtx c.ctx { s.ctx c.ctx with tlb := (t.ctx c.ctx).tlb }
      ∧ (all = true → (t.ctx c.ctx).tlb = [])
      ∧ (all = false → ∀ e, e ∈ (t.ctx c.ctx).tlb ↔ e ∈ (s.ctx c.ctx).tlb ∧ (first + n ≤ e.vpn ∨ e.vpn + e.pages ≤ first)))
  ∧ (Accepted (.halt o) s k →
    let x := s.ctx k.c.ctx
    let stops (t : State) := exec (.halt o) s = .next t ∧ t.mem = s.mem ∧ ∃ g p, t.group? k.g.gid = some g
      ∧ g.split? k.p.num = some p ∧ p.hold = .halted ∧ StandsAt p k.p.nextClause ∧ p.exec = k.p.exec ∧ p.memb = k.p.memb
    (x.halt ≠ none → ∃ t, stops t ∧ t.ctx k.c.ctx = x)
    ∧ (x.halt = none → ∃ t r, stops t ∧ t.ctx k.c.ctx = { x with
          halt := some x.nextFault, faults := x.faults ++ [r], nextFault := x.nextFault + 1 }
        ∧ r.id = x.nextFault ∧ r.kind = 3 ∧ r.cause = 0 ∧ r.lane = 0xFF ∧ r.pc = k.p.pc ∧ r.addr = 0 ∧ r.index = none))

/-- R389, R400, Table 16-6: CTXSAVE and CTXLOAD: outside the handler they trap, a misaligned address traps, and a register count
that is not the group's; it waits while an engine owns a line of its image (R47); the image holds the group's registers at their places, and CTXLOAD writes the named blocks below
the count, s0 to s123 and s127. -/
def Obligations.SaveImages : Prop := ∀ (s : State) (k : Issuer) (o : OpE),
  let va := k.s64 o.a
  let at_ (im : List Byte) (off n : Nat) := ofBytes ((im.drop off).take n)
  (∀ i, i = .ctxsave o ∨ i = .ctxload o → Accepted i s k →
    (k.p.hmode = false → Traps i s k s { cause := 0x01 })
    ∧ (k.p.hmode = true → va.toNat % 192 ≠ 0 → Traps i s k s { cause := 0x04, taddr := va }))
  ∧ (∀ (c : Crew) (l : List Seg), ∀ n ∈ l.flatMap Seg.lines, rangeOf (192 * n) = .device → (s.dirAt n).st = .k →
    (s.dirAt n).sharers = 0 → s.readsNow c l = false)
  ∧ (k.g.count ≤ 512 → k.g.count % 16 = 0 → k.g.gidx < 16 → k.g.prio < 16 → (∀ p ∈ k.g.splits, p.stack.length ≤ 16) →
    let im := s.image k.g k.c
    im.length = 0xC40 + 384 * k.g.count
    ∧ at_ im 0 8 % 2 ^ 10 = k.g.count ∧ at_ im 0 8 / 2 ^ 10 % 16 = k.g.gidx ∧ at_ im 0 8 / 2 ^ 14 % 16 = k.g.prio
    ∧ at_ im 8 8 = 2 ^ (k.g.count / 8) - 1
    ∧ at_ im 0x10 8 = k.g.hstat.toNat + k.g.soft0.toNat * 2 ^ 32
    ∧ at_ im 0x18 8 = ((s.groups ++ s.saved.flatMap fun v => v.groups).filter fun h =>
        !h.retired && keyLt (s.ageKey h) (s.ageKey k.g)).length % 2 ^ 64
    ∧ (∀ n p, n < 4 → k.g.split? n = some p → at_ im (0x40 + 128 * n) 8 = p.pc.toNat)
    ∧ (∀ i < 128, (i < 124 ∨ i = 127) → at_ im (0xA40 + 4 * i) 4 = (NMap.get 0 k.g.sr i).toNat)
    ∧ ∀ r l, r < k.g.count → l < 96 → at_ im (0xC40 + 384 * r + 4 * l) 4 = (k.g.rdV r l).toNat)
  ∧ (Accepted (.ctxsave o) s k → k.p.hmode = true → va.toNat % 192 = 0 →
    let im := s.image k.g k.c
    (∀ t s1, s.range k.c .dst {} false va.toNat im.length = (.error t, s1) → Traps (.ctxsave o) s k s1 t)
    ∧ ∀ dst s1, s.range k.c .dst {} false va.toNat im.length = (.ok dst, s1) →
      (s1.dstRoom k.c dst = false → Traps (.ctxsave o) s k s1 { cause := 0x17, taddr := va })
      ∧ (s1.dstRoom k.c dst = true → ¬ Room s1 k → Holds (.ctxsave o) s s1)
      ∧ (s1.dstRoom k.c dst = true → Room s1 k → Issues (.ctxsave o) s k (s1.markDst k.c dst) (.ctxsave (dst.map Prod.fst) im)))
  ∧ (Accepted (.ctxload o) s k → k.p.hmode = true → va.toNat % 192 = 0 →
    (∀ t s1, s.range k.c .src {} false va.toNat 0xC40 = (.error t, s1) → Traps (.ctxload o) s k s1 t)
    ∧ (∀ a s1, s.range k.c .src {} false va.toNat 0xC40 = (.ok a, s1) → s1.readsNow k.c (a.map Prod.fst) = false →
      Holds (.ctxload o) s (s1.askReads k.c (a.map Prod.fst)))
    ∧ ∀ a s1, s.range k.c .src {} false va.toNat 0xC40 = (.ok a, s1) → s1.readsNow k.c (a.map Prod.fst) = true →
      (∀ x ∈ a, s1.segPoisoned k.c x.1 = false) →
      let head := s1.loadBytes k.c (a.map Prod.fst)
      let len := 0xC40 + 3072 * ((List.range 64).filter fun j => (at_ head 8 8).testBit j).length
      (at_ head 0 8 % 2 ^ 10 ≠ k.g.count → Traps (.ctxload o) s k s1 { cause := 0x01 })
      ∧ (at_ head 0 8 % 2 ^ 10 = k.g.count → ∀ b s2, s1.range k.c .src {} false va.toNat len = (.ok b, s2) →
        (s2.readsNow k.c (b.map Prod.fst) = false → Holds (.ctxload o) s (s2.askReads k.c (b.map Prod.fst)))
        ∧ (s2.readsNow k.c (b.map Prod.fst) = true → (∀ x ∈ b, s2.segPoisoned k.c x.1 = false) → Room s2 k → Issues (.ctxload o) s k s2 (.ctxload (b.map Prod.fst)))))
  ∧ ∀ op x g c, InFlight s op x g c → c.versioned = false →
    (∀ src, x.kind = .ctxload src → (∀ y ∈ segAddrs src, s.lineReady c y.1 y.2.2 false = true) → ∃ g', Performs op s x (s.setGroup g')
      ∧ (∀ i < 124, NMap.get 0 g'.sr i = BitVec.ofNat 32 (at_ (s.loadBytes c src) (0xA40 + 4 * i) 4))
      ∧ NMap.get 0 g'.sr 127 = BitVec.ofNat 32 (at_ (s.loadBytes c src) (0xA40 + 508) 4)
      ∧ { g' with v := [], sr := [] } = { g with v := [], sr := [] }
      ∧ ∀ r l, l < 96 → let blocks := (List.range 64).filter fun j => (at_ (s.loadBytes c src) 8 8).testBit j
        ((g.count ≤ r ∨ r / 8 ∉ blocks) → g'.rdV r l = g.rdV r l)
        ∧ ∀ j, r < g.count → blocks[j]? = some (r / 8) → g'.rdV r l
            = BitVec.ofNat 32 (at_ (s.loadBytes c src) (0xC40 + 3072 * j + 384 * (r % 8) + 4 * l) 4))
    ∧ ∀ pa im ent, x.kind = .ctxsave [{ va := 0, place := .phys pa false, len := im.length, ent := ent }] im →
      pa + im.length ≤ 0xC000000000 → s.dirtyPending ent = false →
      (∀ y, pa ≤ y → y < pa + im.length → s.lineReady c y false true = true) → ∃ t, Performs op s x t
        ∧ (∀ j b, im[j]? = some b → t.rdB (pa + j) = b) ∧ ∀ a, a < pa ∨ pa + im.length ≤ a → t.rdB a = s.rdB a

/-! ### Fault service and pre-emption -/

/-- R381, R382: the fault ring: a record is written whole, PROD advances and MSI-X vector 1 is signalled, where there is room. -/
def Says.FaultService : Prop := ∀ (s : State) (ctx : Nat),
  let x := s.ctx ctx
  let prod := s.rdN x.fring 8
  let idle (pa : Nat) := s.dirReady (pa / 192) (.wr none none []) = true
  let slot (i : Nat) := x.fring + 64 + 64 * (i % 2 ^ x.frlog)
  (x.faults = [] → exec (.faultRecordWrite ctx) s = .next s)
  ∧ (∀ (pre : List FaultRec) (r : FaultRec) (post : List FaultRec), x.faults = pre ++ r :: post → (∀ q ∈ pre, q.index ≠ none) → r.index = none →
    (∀ q ∈ x.faults, q.index ≠ none → q.shown = q.ngrp) →
    (x.fring = 0 ∨ 2 ^ x.frlog ≤ prod - s.rdN (x.fring + 8) 8 → exec (.faultRecordWrite ctx) s = .next s)
    ∧ (x.fring ≠ 0 → prod - s.rdN (x.fring + 8) 8 < 2 ^ x.frlog → s.replyPending x prod = false → idle (slot prod) → idle x.fring →
      ∃ t : State, exec (.faultRecordWrite ctx) s = .next t ∧ t.msix = s.msix ++ [1] ∧ t.rdN x.fring 8 = (prod + 1) % 2 ^ 64
        ∧ t.ctx ctx = { x with faults := updWhere (fun q => q.id == r.id) (fun _ => { r with index := some prod, shown := r.ngrp }) x.faults }
        ∧ t.rdN (slot prod) 8 = r.addr.toNat ∧ t.rdN (slot prod + 8) 8 = r.pc.toNat ∧ t.rdN (slot prod + 16) 4 = r.ncause % 2 ^ 32
        ∧ t.rdN (slot prod + 20) 2 = r.tag % 2 ^ 16 ∧ t.rdN (slot prod + 22) 1 = r.write.toNat + 2 * r.fetch.toNat
        ∧ t.rdN (slot prod + 23) 1 = r.cause % 256 ∧ t.rdN (slot prod + 24) 1 = r.kind % 256 ∧ t.rdN (slot prod + 25) 1 = r.lane % 256
        ∧ t.rdN (slot prod + 26) 2 = r.ngrp % 2 ^ 16 ∧ t.rdN (slot prod + 28) 4 = r.loc % 2 ^ 32 ∧ t.rdN (slot prod + 32) 8 = 0
        ∧ ∀ a, (a < slot prod ∨ slot prod + 64 ≤ a) → (a < x.fring ∨ x.fring + 8 ≤ a) → t.rdB a = s.rdB a))
  ∧ (∀ (page gid : Nat) (g : Group) (c : Crew) (p : Split) (t : Trap), s.group? gid = some g → s.crew? g.cid = some c → c.ctx = ctx → g.split? p.num = some p →
    page = t.taddr.toNat / 24576 * 24576 → t.page = none →
    (∀ (pre : List FaultRec) (r : FaultRec) (post : List FaultRec), x.faults = pre ++ r :: post → (∀ q ∈ pre, ¬ (q.kind = 0 ∧ q.addr.toNat = page)) → r.kind = 0 → r.addr.toNat = page →
      s.park gid p.num 0 t = (s.setCtx ctx { x with
        faults := updWhere (fun q => q.id == r.id) (fun q => { q with ngrp := q.ngrp + 1 }) x.faults }).setGroup
          { g.setSplit p.unstalled with parked := some { record := r.id, split := p.num, trap := t } })
    ∧ ((∀ q ∈ x.faults, ¬ (q.kind = 0 ∧ q.addr.toNat = page)) → ∃ r : FaultRec, ((s.park gid p.num 0 t).ctx ctx).faults = x.faults ++ [r]
        ∧ r.id = x.nextFault ∧ r.kind = 0 ∧ r.addr.toNat = page ∧ r.ngrp = 1 ∧ r.pc = p.pc ∧ r.cause = t.cause ∧ r.lane = t.lane
        ∧ r.fetch = t.fetch ∧ r.write = t.write))

/-- R382: a reply acts on the groups parked on its record by the record's KIND; END of KIND 3 or 4 ends every group of the
context, the saved ones too. -/
def Says.FaultReplies : Prop := ∀ (s : State) (ctx : Nat),
  let x := s.ctx ctx
  let slot (i : Nat) := x.fring + 64 + 64 * (i % 2 ^ x.frlog)
  ∀ id n i, let e : Instr := if n = 1 then .replyRetry ctx id else if n = 2 then .replyDeliver ctx id
      else if n = 3 then .replyEnd ctx id else .replyResume ctx id
    1 ≤ n → n ≤ 4 → ∀ r : FaultRec, x.faults.find? (fun q => q.id == id) = some r → (∀ k, r.index = some k → k = i) →
    (r.index = none ∨ s.rdN (slot i + 32) 8 ≠ n → exec e s = .next s)
    ∧ (r.index = some i → s.rdN (slot i + 32) 8 = n → (∀ v ∈ s.saved, v.crew.ctx ≠ ctx) →
      let s1 := s.setCtx ctx { x with faults := x.faults.filter fun q => q.id != id }
      (∀ (g : Group) (c : Crew) (p : Split) (t : Trap), r.kind ≤ 2 → s.groups.filter (fun g => g.parked.any fun k => k.record == id) = [g] → s.group? g.gid = some g →
        s.crew? g.cid = some c → c.ctx = ctx → g.parked = some { record := id, split := p.num, trap := t } → g.split? p.num = some p →
        let s2 := s1.setGroup { g with parked := none }
        (n = 1 → r.kind = 0 → exec e s = .next s2)
        ∧ (n = 1 → r.kind ≠ 0 → exec e s = .next (s2.rtt g.gid p.num))
        ∧ (n = 2 → r.kind = 0 → exec e s = .next (s2.trapEntry g.gid p.num t (p.returnPoint t).1 (p.returnPoint t).2 false))
        ∧ (n = 2 → r.kind ≠ 0 → x.tvec ≠ 0 → exec e s = .next (s1.setGroup
            { g.setSplit (p.enterHandler x.tvec) with parked := none }))
        ∧ (n = 2 → r.kind = 1 → x.tvec = 0 → exec e s = .next (s2.park g.gid p.num 1 t))
        ∧ (3 ≤ n → ∃ t, exec e s = .next t ∧ t.mem = s.mem ∧ t.ctx ctx = s1.ctx ctx
            ∧ ∀ h, t.group? g.gid = some h → h.splits = [] ∧ h.parked = none))
      ∧ (r.kind = 3 → ∃ t, exec e s = .next t ∧ t.mem = s.mem ∧ t.ctx ctx = { s1.ctx ctx with halt := none }
        ∧ (n ≠ 3 → ∀ gid g, s.group? gid = some g → t.group? gid = some (if s.ctxOf g = ctx then { g with
            splits := g.splits.map fun p => if p.hold = .halted then { p with hold := .none } else p } else g))
        ∧ (n = 3 → ∀ g ∈ t.groups, ∀ c, s.crew? g.cid = some c → c.ctx = ctx → g.retired = false → g.splits = []))
      ∧ (r.kind = 4 → ∃ t, exec e s = .next t ∧ t.mem = s.mem ∧ t.ctx ctx = { s1.ctx ctx with out := false }
        ∧ (n ≠ 3 → t.groups = s.groups)))
    ∧ (r.index = some i → s.rdN (slot i + 32) 8 = n → n = 3 → r.kind = 3 ∨ r.kind = 4 → ∃ t, exec e s = .next t
      ∧ ∀ v ∈ t.saved, v.crew.ctx = ctx → ∀ g ∈ v.groups, g.splits = [] ∧ g.parked = none)

/-- R27, R28, R388 to R392, R394: a group stops when each of its splits is at a pre-emption point and its operations are complete;
a parked one of a context that is switched out stops at once; a crew is saved when all its groups have stopped, its barriers as
words of Table 08-4, and resumes on the best cluster where it can start whole, where the instructions that were blocked execute
again; a time slice that expires, or too many parked groups, request stops. -/
def Obligations.Preemption : Prop := ∀ (s : State),
  (∀ gid x c, s.group? gid = some x → s.crew? x.cid = some c →
    let mayStop := x.stopReq = true ∧ x.stopped = false ∧ x.retired = false ∧ x.splits ≠ [] ∧ c.restart = false
      ∧ (s.ctx c.ctx).halt = none
    let stops := exec (.groupStop gid) s = .next (s.setGroup { x with stopped := true })
    (¬ mayStop → exec (.groupStop gid) s = .next s)
    ∧ (mayStop → x.parked ≠ none → (s.ctx c.ctx).out = true → stops)
    ∧ (x.parked ≠ none → (s.ctx c.ctx).out = false → exec (.groupStop gid) s = .next s)
    ∧ (x.parked = none → (c.outst ≠ 0 ∨ (∃ y ∈ s.copies, y.gid = gid) ∨ (∃ p ∈ x.splits, p.retained ≠ none)
        ∨ ∃ p ∈ x.live, (∀ b r0 r1, p.hold ≠ .phint b r0 r1) ∧ (∀ n d o, p.hold ≠ .grow n d o) ∧ s.asleep x p = false) →
      exec (.groupStop gid) s = .next s)
    ∧ (mayStop → x.parked = none → c.outst = 0 → (∀ y ∈ s.copies, y.gid ≠ gid) → (∀ o ∈ s.ops, o.gid ≠ gid) →
      (∀ p ∈ x.splits, p.retained = none ∧ ((∃ b r0 r1, p.hold = .phint b r0 r1) ∨ ∃ n d o, p.hold = .grow n d o)) → stops))
  ∧ (∀ cid c, s.crew? cid = some c → let gs := s.groups.filter fun g => g.cid == cid
    (s.canSave c = false → exec (.crewSave cid) s = .next s)
    ∧ ((∃ g ∈ gs, g.retired = false ∧ (g.stopped = false ∨ (g.parked ≠ none ∧ (s.ctx c.ctx).out = false))) →
      exec (.crewSave cid) s = .next s)
    ∧ ((∀ g ∈ gs, g.retired = true ∨ (g.stopped = true ∧ (g.parked = none ∨ (s.ctx c.ctx).out = true))) →
      (∃ g ∈ gs, g.retired = false) → c.restart = false → c.outst = 0 → (s.ctx c.ctx).save ≠ 0 →
      (∀ l, s.launch? c.lid = some l → l.replay = []) →
      (∀ y ∈ s.copies, y.cid ≠ cid) → (∀ y ∈ s.sreds, y.cid ≠ cid) →
      (∀ o ∈ s.ops, ∀ g ∈ gs, g.gid = o.gid → o.again ≠ none) →
      ∃ t v, exec (.crewSave cid) s = .next t ∧ t.mem = s.mem ∧ t.saved = s.saved ++ [v]
      ∧ t.crews = s.crews.filter (fun y => y.cid != cid) ∧ t.groups = s.groups.filter (fun g => g.cid != cid)
      ∧ (∀ o, o ∈ t.ops ↔ o ∈ s.ops ∧ ∀ g ∈ gs, g.gid ≠ o.gid)
      ∧ (∀ o, o ∈ v.ops ↔ o ∈ s.ops ∧ ∃ g ∈ gs, g.gid = o.gid)
      ∧ v.crew = { c with slice := 0, bars := [] } ∧ v.bars.length = c.bars.length
      ∧ (∀ (i : Nat) (b : Bar) (w : DWord), c.bars[i]? = some b → v.bars[i]? = some w →
        b.phase < 2 ^ 16 → b.scope < 8 → b.expect < 32 →
        w.toNat = b.phase * 2 ^ 48 + b.scope * 2 ^ 32 + b.arrived.toNat * 2 ^ 16 + b.expect ∧ Bar.ofWord w = b)
      ∧ v.groups.length = gs.length
      ∧ ∀ (i : Nat) (g h : Group), gs[i]? = some g → v.groups[i]? = some h → g.retired = false →
        h.sr = g.sr ∧ h.count = g.count ∧ h.stopped = false ∧ h.stopReq = false
        ∧ (∀ p ∈ g.splits, ∀ cl b r0 r1, p.hold = .phint b r0 r1 → p.cl = some cl → carriesLit (nth 0 cl.words (p.widx - 1)) = false →
          ∃ q ∈ h.splits, q.num = p.num ∧ q.exec = p.exec ∧ q.stack = p.stack ∧ q.hold = .none ∧ q.watch = none
            ∧ (p.widx < cl.words.length → q.pc = p.pc ∧ q.entry = p.widx + 1)
            ∧ (cl.words.length ≤ p.widx → q.pc = p.nextClause ∧ q.entry = 0))
        ∧ (∀ p b r0 r1, g.parked = none → g.live = [p] → p.hold = .phint b r0 r1 → ∀ r l, l < 96 → r < 512 →
          h.rdV r l = if b.getLsbD (r / 8) = true ∧ r / 8 < g.count / 8 then g.rdV r l else 0)))
  ∧ (∀ cid, (∀ v ∈ s.saved, v.crew.cid ≠ cid) → exec (.crewResume cid) s = .next s)
  ∧ (∀ cid v u, s.saved.find? (fun v => v.crew.cid == cid) = some v → s.specOf v.crew 0 = some u →
    ((∀ k < 96, s.resumeAt v k = none) → exec (.crewResume cid) s = .next s)
    ∧ ∀ k, Best s u (fun k => k < 96 ∧ (s.resumeAt v k).isSome = true) k → (∀ l ∈ (s.cluster k).cache, l.dirty = 0) →
      (∀ y ∈ s.crews, y.cid ≠ cid) → ∃ r gs,
      exec (.crewResume cid) s = .next (v.crew.claims.foldl (fun (s : State) t => s.claimTile cid t)
        (v.ops.foldl (fun (s : State) o => s.executeAgain o) r))
      ∧ r.mem = s.mem ∧ r.ops = s.ops
      ∧ r.saved = s.saved.filter (fun y => y.crew.cid != cid) ∧ r.groups = s.groups ++ gs ∧ gs.length = v.groups.length
      ∧ (∀ (i : Nat) (g : Group), v.groups[i]? = some g → ∃ h, gs[i]? = some h ∧ { h with core := g.core } = g ∧ (g.retired = false → h.core / 4 = k)
          ∧ (g.retired = false → g.pinned = true → h.core = g.core))
      ∧ ∃ d, r.crew? cid = some d ∧ d.cluster = k ∧ { d with cluster := 0, scratchBase := 0 }
          = { v.crew with cluster := 0, scratchBase := 0, claims := [], bars := v.bars.map Bar.ofWord })
  ∧ (∀ (o : Op) (g : Group) (c : Crew) (p : Split), s.group? o.gid = some g → s.crew? g.cid = some c → g.split? o.split = some p →
    let k : Issuer := { g, p, c }
    let goes (s : State) (kind : OpKind) := s.executeAgain o = { s with ops := s.ops ++ [{ o with kind }] }
    let traps (t : Trap) := s.executeAgain o = s.owe g.gid p.num { t with opc := o.opc }
    let onTags (e : OpE) (kind : OpKind) :=
      (s.tagFree k (tagsOf (k.s64 e.a)) = false → traps { cause := 0x06 })
      ∧ (s.tagFree k (tagsOf (k.s64 e.a)) = true → s.executeAgain o = { s.bindTags k (tagsOf (k.s64 e.a)) with
          ops := (s.bindTags k (tagsOf (k.s64 e.a))).ops ++ [{ o with kind }] })
    (o.again = none → goes s o.kind) ∧ (∀ e, o.again = some (.nbarsync e) → goes s o.kind)
    ∧ (∀ e, o.again = some (.mwait e) → goes s .done)
    ∧ (∀ e, o.again = some (.nbarwait e) → let ph := (k.s e.a).toNat % 2 ^ 16
        goes s (if (nth (Bar.reset 0) c.bars e.d).phase ≠ ph then .done else .nbarwait e.d ph))
    ∧ (∀ e, o.again = some (.evwait e) → goes s (.evwait e.d (e.mode.toNat % 4) (k.s64 e.a)))
    ∧ (∀ e, o.again = some (.tagwany e) → onTags e (.tagwany e.d (k.s64 e.a) (e.mode.toNat.testBit 0)))
    ∧ (∀ e, o.again = some (.tagwall e) → onTags e (.tagwall (k.s64 e.a)))
    ∧ ∀ e, o.again = some (.tbwait e) → (∀ t, s.tbKey c (k.s64 e.a) = .error t → traps t)
      ∧ ∀ key, s.tbKey c (k.s64 e.a) = .ok key →
        let ph := (k.s e.c).toNat % 2 ^ 16
        (s.tbLive c.cluster key = true → s.tbWord c.cluster key / 2 ^ 48 % 2 ^ 16 ≠ ph →
            goes s (.late [] [(e.d, 0)] none 6 (e.mode.toNat.testBit 0)))
        ∧ (s.tbLive c.cluster key = true → s.tbWord c.cluster key / 2 ^ 48 % 2 ^ 16 = ph →
            goes s (.tbwait e.d key ph (e.mode.toNat.testBit 0) false))
        ∧ (s.tbLive c.cluster key = false → goes s (.tbwait e.d key ph (e.mode.toNat.testBit 0) true)))
  ∧ (∀ cid c, s.crew? cid = some c → let n := (s.ctx c.ctx).tslice
    (n = 0 ∨ c.slice < 1000 * n → exec (.timeSliceExpiry cid) s = .next s)
    ∧ (n ≠ 0 → 1000 * n ≤ c.slice → s.placeWanted c.cluster = true → exec (.timeSliceExpiry cid) s = .next { s with
        groups := s.groups.map fun g => if g.cid = cid then { g with stopReq := true } else g })
    ∧ (n ≠ 0 → 1000 * n ≤ c.slice → s.placeWanted c.cluster = false →
        exec (.timeSliceExpiry cid) s = .next (s.setCrew { c with slice := 0 })))
  ∧ ∀ ctx, let x := s.ctx ctx
    let gs := s.groupsOf ctx
    let parked := (gs.filter fun g => g.parked.isSome).length
    (x.pshare = 0 ∨ x.out = true ∨ parked = 0 ∨ parked * 256 < x.pshare * gs.length → exec (.parkedShareSwitch ctx) s = .next s)
    ∧ (x.pshare ≠ 0 → x.out = false → 0 < parked → x.pshare * gs.length ≤ parked * 256 → (∀ d, (s.die d).steals = []) →
      ∃ t r, exec (.parkedShareSwitch ctx) s = .next t ∧ t.mem = s.mem
      ∧ t.ctx ctx = { x with out := true, faults := x.faults ++ [r], nextFault := x.nextFault + 1 }
      ∧ r.kind = 4 ∧ r.id = x.nextFault ∧ r.ngrp = gs.length ∧ r.index = none
      ∧ t.groups = s.groups.map fun g => if s.ctxOf g = ctx then { g with stopReq := true } else g)

/-! ### The directory -/

/-- R41 to R45, R47, R49, Tables 02-3 to 02-5: every request at the home of a line: it waits while the line is busy or an engine
owns it, though an engine's source read never waits for that; a request that needs an entry of a full set has the least recently
used one recalled, or waits where there is none, as does the access of a group that needs one; else it is acted on at once, or begins a transaction with the copies to
invalidate and the owner to ask; and the state that it leaves, cell by cell. A unit's commit at one line is its whole
commit. -/
def Says.DirectoryRequests : Prop := ∀ (s : State) (line : Nat), 192 * line + 192 ≤ 0xC000000000 →
  let e := s.dirAt line
  let held (i : Nat) := i < 32 ∧ e.sharers.getLsbD i = true
  let pairs (pa : Nat) (bs : List Byte) := bs.mapIdx fun j b => (pa + j, b)
  let sent (i : Instr) (r : DReq) : Prop :=
    (∃ sl, i = .rds sl line ∧ r = .rds sl ∧ sl < 32 ∧ s.sliceHolds sl line = false) ∨ (∃ n b, i = .rdu n line b ∧ r = .rdu n b)
    ∨ (∃ sl c pa bs, i = .wr sl c pa bs ∧ r = .wr sl c (pairs pa bs) ∧ pa / 192 = line ∧ pa % 192 + bs.length ≤ 192)
    ∨ (∃ sl, i = .dirty sl line ∧ r = .dirty sl ∧ ∀ t, e.txn = some t → t.fwd = false)
    ∨ (∃ u v, i = .vwr u line ∧ s.version? u = some v ∧ line ∉ v.lines ∧ r = .vwr u v.holder)
    ∨ (∃ u c, i = .dis u line ∧ s.unitCrew? u = some c ∧ c.discarded = true ∧ r = .dis u)
    ∨ (i = .recall line ∧ r = .recall ∧ e.st ≠ .u)
  let waits (r : DReq) := e.st = .k ∧ (∀ n, r ≠ .rdu n true) ∧ (∀ u, r ≠ .dis u) ∧ ∀ n, r ≠ .dirty n
  let passes (r : DReq) := e.st = .k ∧ ∃ n, r = .rdu n true
  let set := s.snoopSet line
  let full (r : DReq) := e.st = .u ∧ ((∃ n, r = .rds n) ∨ ∃ u h, r = .vwr u h) ∧ 16 ≤ set.length
  let now (r : DReq) := e.txn = none ∧ (e.queue = [] ∨ passes r) ∧ ¬ waits r
  (∀ x, x ∈ set → x.2.st ≠ .u ∧ x.1 % 16384 = line % 16384 ∧ homeSlice (192 * x.1) = homeSlice (192 * line))
  ∧ (∀ i r, sent i r →
    (¬ now r ∨ (full r ∧ snoopVictim set = none) → exec i s = .next (s.setDir line { e with queue := e.queue ++ [r] }))
    ∧ (∀ v, now r → full r → snoopVictim set = some v →
      (∃ x, (v, x) ∈ set ∧ x.st ≠ .k ∧ x.txn = none ∧ ∀ y ∈ set, y.2.st ≠ .k → y.2.txn = none → x.used ≤ y.2.used)
      ∧ exec i s = .next ((s.dirWholeAt v .recall).dirBegin line r) ∧ ((s.dirWholeAt v .recall).dirAt v).st = .u)
    ∧ (now r → ¬ full r →
      (dirAcks e r ≠ [] ∨ dirFwd e r = true → exec i s = .next (s.setDir line { e with
        txn := some { req := r, acks := dirAcks e r, acked := [], fwd := dirFwd e r, fwdDone := false } }))
      ∧ (dirAcks e r = [] → dirFwd e r = false → dirSpills e r = none → ∃ t, exec i s = .next t
        ∧ t.dirAt line = { dirNext e r (s.dirClock + 1) with queue := e.queue }
        ∧ ((∀ sl c bs, r ≠ .wr sl c bs) → (∀ u, r ≠ .cmt u) → t.mem = s.mem)
        ∧ ∀ sl c pa bs, r = .wr sl c (pairs pa bs) → ∀ a, t.rdB a
            = if h : pa ≤ a ∧ a - pa < bs.length then bs[a - pa]'h.2 else s.rdB a)))
  ∧ (∀ (c : Crew) pa nc write, pa / 192 = line → let need := s.creating c pa nc write
      (need = none ∨ (∃ r, need = some r ∧ (s.dirRoom line r = true ∨ r ∈ e.queue)) → s.askEntry c pa nc write = s)
      ∧ ∀ r, need = some r → s.dirRoom line r = false → r ∉ e.queue →
        s.askEntry c pa nc write = s.setDir line { e with queue := e.queue ++ [r] })
  ∧ (∀ u v c, s.version? u = some v → s.crew? u = some c →
      (line ∉ v.lines → exec (.cmt u line) s = .next s)
      ∧ (line ∈ v.lines → ∃ t, exec (.cmt u line) s = .next t
          ∧ (if c.task.isSome then exec (.taskCompletion u) s else exec (.crewRetire u) s) = .next t))
  ∧ (∀ u c, s.unitCrew? u = some c → c.discarded = false → exec (.dis u line) s = .next s)
  ∧ (∀ r i, i ∈ dirAcks e r ↔
      (((∃ sl c bs, r = .wr sl c bs ∧ sl ≠ some i) ∨ ∃ a b, r = .orB a b) ∧ (e.st = .s ∨ e.st = .v) ∧ held i)
      ∨ ((r = .recall ∨ (∃ c, r = .getk c) ∨ ∃ u, r = .cmt u) ∧ (e.st = .s ∨ e.st = .v) ∧ held i)
      ∨ ((r = .recall ∨ ∃ c, r = .getk c) ∧ (e.st = .e ∨ e.st = .m) ∧ i = e.owner))
  ∧ (∀ r, dirFwd e r = true ↔ (e.st = .e ∨ e.st = .m) ∧ ((∃ n, r = .rds n) ∨ (∃ n b, r = .rdu n b) ∨ (∃ sl c bs, r = .wr sl c bs)
      ∨ (∃ a b, r = .orB a b) ∨ (∃ u h, r = .vwr u h) ∨ ∃ u, r = .cmt u))
  ∧ (∀ r u, dirSpills e r = some u ↔ e.st = .v ∧ e.unit = u ∧ (r = .recall ∨ (∃ c, r = .getk c) ∨ ∃ v h, r = .vwr v h ∧ v ≠ u))
  ∧ ∀ clk, e.owner < 32 → let N (r : DReq) := dirNext e r clk
    let exactly (n : DirEntry) (p : Nat → Prop) := ∀ i < 32, n.sharers.getLsbD i = true ↔ p i
    (∀ sl < 32,
      (e.st = .u ∨ e.st = .k → (N (.rds sl)).st = .e ∧ (N (.rds sl)).owner = sl ∧ exactly (N (.rds sl)) (fun i => i = sl))
      ∧ (e.st = .s → (N (.rds sl)).st = .s ∧ exactly (N (.rds sl)) (fun i => held i ∨ i = sl))
      ∧ (e.st = .e ∨ e.st = .m → (N (.rds sl)).st = .s ∧ exactly (N (.rds sl)) (fun i => i = e.owner ∨ i = sl))
      ∧ (e.st = .v → (N (.rds sl)).st = .v ∧ (N (.rds sl)).unit = e.unit ∧ exactly (N (.rds sl)) (fun i => held i ∨ i = sl)))
    ∧ (∀ n b, (N (.rdu n b)).st = e.st ∧ (N (.rdu n b)).sharers = e.sharers ∧ (N (.rdu n b)).owner = e.owner)
    ∧ (∀ sl c bs, let n := N (.wr sl c bs)
      let kept (i : Nat) := held i ∧ sl = some i
      (e.st = .u ∨ e.st = .k → n = DirEntry.u)
      ∧ (e.st = .s → (∀ i, ¬ kept i) → n = DirEntry.u) ∧ (e.st = .s → (∃ i, kept i) → n.st = .s ∧ exactly n kept)
      ∧ (e.st = .e ∨ e.st = .m → n.st = .m ∧ n.owner = e.owner) ∧ (e.st = .v → n.st = .v ∧ n.unit = e.unit ∧ exactly n kept))
    ∧ (∀ a b, let n := N (.orB a b)
      (e.st = .u ∨ e.st = .k ∨ e.st = .s → n = DirEntry.u) ∧ (e.st = .e ∨ e.st = .m → n.st = .m ∧ n.owner = e.owner)
      ∧ (e.st = .v → n.st = .v ∧ n.unit = e.unit ∧ n.sharers = 0))
    ∧ (∀ sl, e.st = .e → e.owner = sl → (N (.dirty sl)).st = .m ∧ (N (.dirty sl)).owner = sl)
    ∧ (∀ c, (N (.getk c)).st = .k ∧ (N (.getk c)).engine = c ∧ (N (.getk c)).sharers = 0)
    ∧ (∀ u h, let n := N (.vwr u h)
      n.st = .v ∧ n.unit = u ∧ n.holder = h ∧ (e.st = .u ∨ e.st = .k → n.sharers = 0)
      ∧ (e.st = .s ∨ e.st = .v → n.sharers = e.sharers) ∧ (e.st = .e ∨ e.st = .m → exactly n (fun i => i = e.owner)))
    ∧ (∀ u, (e.st = .v → e.unit = u → N (.cmt u) = DirEntry.u) ∧ (e.st = .v → e.unit ≠ u → (N (.cmt u)).st = .v ∧ (N (.cmt u)).unit = e.unit)
      ∧ (e.st = .e ∨ e.st = .m → (N (.cmt u)).st = .m) ∧ (e.st = .u ∨ e.st = .s ∨ e.st = .k → N (.cmt u) = DirEntry.u))
    ∧ (∀ u, (e.st ≠ .v ∨ e.unit ≠ u → N (.dis u) = e) ∧ (e.st = .v → e.unit = u → e.sharers = 0 → N (.dis u) = DirEntry.u)
      ∧ (e.st = .v → e.unit = u → e.sharers ≠ 0 → (N (.dis u)).st = .s ∧ (N (.dis u)).sharers = e.sharers))
    ∧ (∀ sl < 32, (e.st = .s → (∀ i, held i → i = sl) → N (.evc sl) = DirEntry.u)
      ∧ (e.st = .s → (∃ i, held i ∧ i ≠ sl) → (N (.evc sl)).st = .s ∧ exactly (N (.evc sl)) (fun i => held i ∧ i ≠ sl))
      ∧ (e.st = .v → (N (.evc sl)).st = .v ∧ exactly (N (.evc sl)) (fun i => held i ∧ i ≠ sl))
      ∧ (e.st = .e → e.owner = sl → N (.evc sl) = DirEntry.u) ∧ (e.st = .m → e.owner = sl → N (.wbe sl) = DirEntry.u))
    ∧ N .recall = DirEntry.u

/-- R36, R39, R44, R45, R47, R49, R51, R52, R356, R384: what follows a request: a slice that invalidates drops its clusters' copies and wakes
their watches; the last acknowledgement, or the owner's answer, ends the transaction; an engine takes and gives up its lines, or
loses them to an older one, or has an accepted one's line recalled; a free home goes on with its queue;
slices and clusters drop and fill copies, versions spill to their log, and a discarded one sends Dis to each of its lines. That a fill
brings all four sectors is the choice of log 94, that a unit whose spill finds no room keeps an empty version that of log 48. -/
def Says.DirectoryAnswers : Prop := ∀ (s : State) (line : Nat),
  let e := s.dirAt line
  let dev := 192 * line + 192 ≤ 0xC000000000
  let rid (w : State) (sl : Nat) := (∀ c ∈ clustersOfSlice sl, ∀ l ∈ (w.cluster c).cache, l.nc = true ∨ l.line ≠ line)
    ∧ ∀ g ∈ w.groups, ∀ p ∈ g.splits, ∀ x, p.watch = some x → x.slice = sl → x.line = line → x.trig = true
  let lives (r : DReq) := ∀ u h, r = .vwr u h → (s.version? u).isSome = true
  (e.txn = none → ∀ sl, exec (.invalidate sl line) s = .next s ∧ exec (.invAck sl line) s = .next s
      ∧ exec (.fwd line) s = .next s ∧ exec (.fwdAnswer line) s = .next s)
  ∧ (∀ t, e.txn = some t → ∀ sl,
    (sl ∉ t.acks → exec (.invalidate sl line) s = .next s)
    ∧ (sl ∈ t.acks → ∃ w, exec (.invalidate sl line) s = .next w ∧ w.mem = s.mem ∧ rid w sl
        ∧ w.dirAt line = { e with txn := some { t with acks := t.acks.filter (fun i => i != sl), acked := t.acked ++ [sl] } })
    ∧ (sl ∉ t.acked → exec (.invAck sl line) s = .next s)
    ∧ (sl ∈ t.acked → let rest := t.acked.filter fun i => i != sl
      (t.acks ≠ [] ∨ rest ≠ [] → exec (.invAck sl line) s = .next (s.setDir line { e with txn := some { t with acked := rest } }))
      ∧ (t.acks = [] → rest = [] → e.queue = [] → dirSpills e t.req = none → lives t.req → ∃ w, exec (.invAck sl line) s = .next w
        ∧ w.dirAt line = dirNext { e with txn := none } t.req (s.dirClock + 1)
        ∧ ∀ k c pa bs, t.req = .wr k c (pairsAt pa bs) → ∀ a, w.rdB a
          = if h : pa ≤ a ∧ a - pa < bs.length then bs[a - pa]'h.2 else s.rdB a))
    ∧ (t.fwd = false ∨ t.fwdDone = true → exec (.fwd line) s = .next s)
    ∧ (t.fwd = true → t.fwdDone = false → (e.st = .e ∨ e.st = .m) → ∃ w, exec (.fwd line) s = .next w
        ∧ w.dirAt line = { e with txn := some { t with fwdDone := true } }
        ∧ ∀ k c pa bs, t.req = .wr k c (pairsAt pa bs) → ∀ a, w.rdB a
          = if h : pa ≤ a ∧ a - pa < bs.length then bs[a - pa]'h.2 else s.rdB a)
    ∧ (t.fwd = false ∨ t.fwdDone = false → exec (.fwdAnswer line) s = .next s)
    ∧ (t.fwd = true → t.fwdDone = true → e.queue = [] → lives t.req → ∃ w, exec (.fwdAnswer line) s = .next w ∧ w.mem = s.mem
        ∧ w.dirAt line = dirNext { e with txn := none } t.req (s.dirClock + 1)))
  ∧ (∀ cmd c, s.kcmd? cmd = some c →
    (s.kTurn cmd = false ∨ c.need = [] → exec (.getk cmd) s = .next s)
    ∧ (∀ rest, s.kTurn cmd = true → c.need = line :: rest → e.txn = none → e.queue = [] → e.st ≠ .k → e.st ≠ .v →
      (e.st ≠ .u ∨ (s.snoopSet line).length < 16) → ∃ w, exec (.getk cmd) s = .next w ∧ w.mem = s.mem
        ∧ (w.dirAt line).st = .k ∧ (w.dirAt line).engine = cmd
        ∧ (w.kcmd? cmd).map (fun k => (k.need, k.held)) = some (rest, c.held ++ [line]))
    ∧ (∀ d rest, s.kTurn cmd = true → c.need = line :: rest → e.st = .k → s.kcmd? e.engine = some d → d.accepted = false →
      (∀ k ∈ s.kcmds, k.id = e.engine → k = d) → d.age ≤ c.age → exec (.getk cmd) s = .next s)
    ∧ (∀ d rest, s.kTurn cmd = true → c.need = line :: rest → e.st = .k → s.kcmd? e.engine = some d → d.accepted = false →
      (∀ k ∈ s.kcmds, k.id = e.engine → k = d) → c.age < d.age → e.engine ≠ cmd → e.txn = none → line ∈ d.held →
      (∀ l ∈ d.held, (s.dirAt l).queue = []) → (s.snoopSet line).length ≤ 16 →
      ∃ w, exec (.getk cmd) s = .next w ∧ w.mem = s.mem ∧ (w.dirAt line).st = .k ∧ (w.dirAt line).engine = cmd
        ∧ (w.kcmd? e.engine).map (fun k => (k.need, k.held)) = some (sortAsc (d.held ++ d.need), [])
        ∧ (w.kcmd? cmd).map (fun k => (k.need, k.held)) = some (rest, c.held ++ [line]))
    ∧ (∀ v rest, s.kTurn cmd = true → c.need = line :: rest → e.st = .u → 16 ≤ (s.snoopSet line).length →
      snoopVictim (s.snoopSet line) = none → s.kVictim line = some v → (s.dirAt v).st = .k → 192 * v + 192 ≤ 0xC000000000 →
      let own (x : DirEntry) := x.st = .k ∧ x.txn = none ∧ ∃ d, s.kcmd? x.engine = some d ∧ d.accepted = true
      (∃ x, (v, x) ∈ s.snoopSet line ∧ own x ∧ ∀ y ∈ s.snoopSet line, own y.2 → x.since ≤ y.2.since)
      ∧ (.recall ∈ (s.dirAt v).queue → exec (.getk cmd) s = .next s)
      ∧ (.recall ∉ (s.dirAt v).queue → exec (.getk cmd) s
          = .next (s.setDir v { s.dirAt v with queue := (s.dirAt v).queue ++ [.recall] })))
    ∧ (s.copy? cmd = none ∨ c.accepted = false → exec (.endk cmd line) s = .next s))
  ∧ (∀ cmd, s.kcmd? cmd = none →
    (e.st ≠ .k ∨ e.engine ≠ cmd → exec (.endk cmd line) s = .next s)
    ∧ (e.st = .k → e.engine = cmd → e.queue = [] → exec (.endk cmd line) s = .next (s.setDir line DirEntry.u)))
  ∧ (e.queue = [] ∨ e.txn ≠ none → s.homeGo line = s)
  ∧ (∀ r, e.queue = [r] → e.txn = none →
    (dirWaits e r = true → s.homeGo line = s)
    ∧ (dirWaits e r = false → e.st ≠ .u ∨ (s.snoopSet line).length < 16 →
      s.homeGo line = (s.setDir line { e with queue := [] }).dirBegin line r))
  ∧ (∀ sl,
    (e.st = .m ∨ s.sliceHolds sl line = false → exec (.evc sl line) s = .next s)
    ∧ (dev → e.st ≠ .m → e.sharers.getLsbD sl = true → e.txn = none → e.queue = [] → e.st ≠ .u → ∃ w, exec (.evc sl line) s = .next w
        ∧ w.mem = s.mem ∧ rid w sl ∧ w.dirAt line = dirNext e (.evc sl) (s.dirClock + 1))
    ∧ (e.st ≠ .m ∨ e.owner ≠ sl ∨ s.sliceHolds sl line = false → exec (.wbe sl line) s = .next s)
    ∧ (dev → e.st = .m → e.owner = sl → e.sharers.getLsbD sl = true → e.txn = none → e.queue = [] → ∃ w, exec (.wbe sl line) s = .next w
        ∧ w.mem = s.mem ∧ rid w sl ∧ w.dirAt line = DirEntry.u))
  ∧ (∀ u v, s.version? u = some v → v.lines.Nodup → line ∈ v.lines → (s.discardVersion u).dirAt line
      = if e.txn = none ∧ e.queue = [] then dirNext e (.dis u) s.dirClock else { e with queue := e.queue ++ [.dis u] })
  ∧ (∀ u v c, s.version? u = some v → s.crew? u = some c →
    (line ∉ v.lines ∨ line ∈ v.spilled → exec (.versionSpill u line) s = .next s)
    ∧ (line ∈ v.lines → line ∉ v.spilled → (s.ctx c.ctx).vlog ≠ 0 → s.vlogUsed c.ctx < (s.ctx c.ctx).vlogsz →
        exec (.versionSpill u line) s = .next (s.setVersion { v with spilled := v.spilled ++ [line] }))
    ∧ (line ∈ v.lines → line ∉ v.spilled → ((s.ctx c.ctx).vlog = 0 ∨ (s.ctx c.ctx).vlogsz ≤ s.vlogUsed c.ctx) →
      ∃ w, exec (.versionSpill u line) s = .next w ∧ w.mem = s.mem ∧ w.version? u = some (Version.empty u v.holder)
        ∧ w.crew? u = some { c with discarded := true }
        ∧ ∀ gid g p, s.group? gid = some g → g.cid = u → g.retired = false → g.splits = [p] → p.retained = none →
          w.group? gid = some { g with splits := [{ p with owed := p.owed ++ [{ cause := 0x16 }] }] }))
  ∧ ∀ c,
    let ls := (s.cluster c).cache.filter fun l => l.line == line
    ((∀ l ∈ ls, l.dirty = 0) → ∃ w, exec (.cacheEvict c line) s = .next w ∧ w.mem = s.mem
      ∧ (w.cluster c).cache = (s.cluster c).cache.filter (fun l => l.line != line)
      ∧ ∀ d, d ≠ c → w.cluster d = s.cluster d)
    ∧ ((∃ l ∈ ls, s.canWriteBack l = false) → exec (.cacheEvict c line) s = .next s)
    ∧ ∀ ctx tile, (∀ x, (walk s (s.ctx ctx).root tile).res = .error x → exec (.cacheFill c line ctx tile) s = .next s)
      ∧ ∀ t, (walk s (s.ctx ctx).root tile).res = .ok t →
        let there := (t.pa + (tile - t.vpn) * 24576) / 24576 = line / 128
          ∧ (t.nc = true → c / 24 = homeDie (192 * line)) ∧ (t.nc = false → s.sliceHolds (8 * (c / 24) + c % 24 / 3) line = true)
        let answers := t.nc = true → s.dirReady line (.rdu 0 false) = true
        let ways := (s.cluster c).banksIn .cache
        let set := (s.cluster c).cache.filter fun l => l.line % 256 == line % 256
        let filled (nc : Bool) (way : Nat) : CLine := { line, ctx, tile, nc, way, valid := 15, dirty := 0, victim := false
                                                        data := if nc then s.rdBytes (192 * line) 192 else [] }
        (¬ (dev ∧ there ∧ answers) → exec (.cacheFill c line ctx tile) s = .next s)
        ∧ (s.bankChange c = none →
        (dev → there → answers → (∀ l ∈ (s.cluster c).cache, l.line = line → l.nc ≠ t.nc) →
          (∃ b ∈ ways, ∀ l ∈ set, l.way ≠ b) →
          ∃ w, ∃ b ∈ ways, (∀ l ∈ set, l.way ≠ b) ∧ exec (.cacheFill c line ctx tile) s = .next w ∧ w.mem = s.mem
          ∧ (w.cluster c).cache = (s.cluster c).cache ++ [filled t.nc b]
          ∧ ∀ i r, (s.cluster c).resFind ctx tile = some (i, r) → r.lines < 128 →
            (w.cluster c).res = NMap.set none (s.cluster c).res i (some { r with lines := r.lines + 1 }))
        ∧ (dev → there → answers → (∀ l ∈ (s.cluster c).cache, l.line = line → l.nc ≠ t.nc) → (∀ l ∈ set, l.dirty = 0) → ways ≠ [] →
          (∀ b ∈ ways, ∃ l ∈ set, l.way = b) →
          ∃ w, ∃ v ∈ set, v.way ∈ ways ∧ exec (.cacheFill c line ctx tile) s = .next w ∧ w.mem = s.mem ∧ (w.cluster c).cache
            = (s.cluster c).cache.filter (fun l => !(l.line == v.line && l.nc == v.nc)) ++ [filled t.nc v.way])
        ∧ (∀ l, dev → there → answers → (s.cluster c).holds line t.nc = some l → l.way ∈ ways →
          (l.valid = 15 → exec (.cacheFill c line ctx tile) s = .next s)
          ∧ (l.valid ≠ 15 → ∃ w, exec (.cacheFill c line ctx tile) s = .next w ∧ w.mem = s.mem
            ∧ (w.cluster c).cache = (s.cluster c).cache.map fun x => if x.line = line ∧ x.nc = t.nc then
                { l with valid := 15, data := s.sectorData line t.nc l.data l.valid 15 } else x)))
        ∧ ∀ (old : List Byte) (have_ want : BitVec 4) (i : Nat), i < 192 → s.sectorData line false old have_ want = []
          ∧ nth 0 (s.sectorData line true old have_ want) i = if have_.getLsbD (i / 48) then nth 0 old i
            else if want.getLsbD (i / 48) then s.rdB (192 * line + i) else 0

/-! ### The device's outside -/

/-- R375, R380, R411, R429, Table 16-1: CTXCMD's three operations: a registration, which needs every die booted, reads the descriptor and makes every share full, a
re-registration keeps what the context holds, and a teardown ends everything of the context and then releases what it owns. -/
def Obligations.ContextCommands : Prop := ∀ (s : State) (ctx : Nat), ctx < 32 →
  let w := s.bar0.ctxcmd.toNat
  let named (op : Nat) := w.testBit 31 = true ∧ w % 32 = ctx ∧ w / 256 % 4 = op
  let up := s.contained = none ∧ ∀ d ∈ s.dies, d.stageRejected = none
  let pa := s.bar0.ctxdesc.toNat
  let n := s.rdN pa 192
  let f (hi lo : Nat) := n / 2 ^ lo % 2 ^ (hi + 1 - lo)
  let ready := s.dirReady (pa / 192) (.rdu 0 false) = true ∧ s.poisoned pa 192 = false
  let done (t : State) := t.bar0 = { s.bar0 with ctxcmd := s.bar0.ctxcmd &&& 0x7FFFFFFF }
  let reads (x : Context) := x.registered = true ∧ x.descPa = pa ∧ x.root = f 63 0 ∧ x.tvec.toNat = f 127 64 ∧ x.fring = f 191 128
    ∧ x.vlog = f 255 192 ∧ x.hold = f 319 256 ∧ x.snap = f 383 320 ∧ x.save = f 447 384 ∧ x.rtback = f 511 448 ∧ x.vlogsz = f 543 512
    ∧ x.holdsz = f 575 544 ∧ x.snapsz = f 607 576 ∧ x.frlog = f 611 608 ∧ x.pshare = f 623 616 ∧ x.tslice = f 639 624
    ∧ (∀ c < 8, nth 0 x.ecost c = f (8 * c + 647) (8 * c + 640)) ∧ (∀ q < 8, nth 0 x.qhdr q = f (64 * q + 1087) (64 * q + 1024))
    ∧ x.tlb = []
  let booted := ∀ d ∈ s.dies, d.meas ≠ []
  (∀ op i, (op = 1 ∧ i = .registerContext ctx) ∨ (op = 2 ∧ i = .reRegisterContext ctx) ∨ (op = 3 ∧ i = .tearDownContext ctx) →
    (¬ named op ∨ ¬ up ∨ (op = 1 ∧ ¬ booted) → exec i s = .next s))
  ∧ (∀ i, (named 1 ∧ booted ∧ i = .registerContext ctx) ∨ (named 2 ∧ (s.ctx ctx).registered = true ∧ i = .reRegisterContext ctx) → up →
    (s.dirReady (pa / 192) (.rdu 0 false) = false → exec i s = .next s)
    ∧ (s.dirReady (pa / 192) (.rdu 0 false) = true → s.poisoned pa 192 = true → exec i s
        = .next (s.fatal 0 0x20 { addr := pa, ctx := some ctx, cause := 0x07 })))
  ∧ (named 1 → booted → up → ready → (s.ctx ctx).registered = false → ∃ t, exec (.registerContext ctx) s = .next t ∧ t.mem = s.mem ∧ done t
      ∧ reads (t.ctx ctx) ∧ (t.ctx ctx).ev = 0 ∧ (∀ c, c ≠ ctx → t.ctx c = s.ctx c)
      ∧ ∀ k < 96, (t.share ctx k).level = 256 * (if s.bar0.failsafe then 1 else (s.share ctx k).capk))
  ∧ (∀ i, (named 1 ∧ booted ∧ i = .registerContext ctx) ∨ (named 2 ∧ i = .reRegisterContext ctx) → up → ready → (s.ctx ctx).registered = true →
      ∃ t, exec i s = .next t ∧ t.mem = s.mem ∧ done t ∧ reads (t.ctx ctx) ∧ (∀ c, c ≠ ctx → t.ctx c = s.ctx c)
      ∧ t.shares = s.shares ∧ (t.ctx ctx).ev = (s.ctx ctx).ev ∧ (t.ctx ctx).handles = (s.ctx ctx).handles
      ∧ (t.ctx ctx).faults = (s.ctx ctx).faults)
  ∧ (named 2 → up → (s.ctx ctx).registered = false → ∃ t, exec (.reRegisterContext ctx) s = .next t ∧ done t
      ∧ { t with bar0 := s.bar0 } = s)
  ∧ (named 3 → up → s.tearBusy ctx = true → ∃ t, exec (.tearDownContext ctx) s = .next t ∧ t.mem = s.mem ∧ t.bar0 = s.bar0
      ∧ (∀ l, l ∈ t.launches → l.ctx ≠ ctx) ∧ (∀ v ∈ t.saved, v.crew.ctx ≠ ctx) ∧ (t.ctx ctx).out = true
      ∧ ∀ g ∈ t.groups, ∀ c, s.crew? g.cid = some c → c.ctx = ctx → g.splits = [])
  ∧ (named 3 → up → s.tearBusy ctx = false → (∀ c ∈ s.crews, c.ctx ≠ ctx) → (∀ c ∈ s.copies, c.ctx ≠ ctx) → (∀ c ∈ s.sreds, c.ctx ≠ ctx) →
      (∀ e ∈ s.cores, ∀ c ∈ e.2.mq, c.ctx ≠ ctx) → (∀ e ∈ s.tiles, ∀ c ∈ e.2.cmds, c.ctx ≠ ctx) →
      (∀ e ∈ s.clusters, ∀ l ∈ e.2.cache, l.dirty = 0) → ∃ t, exec (.tearDownContext ctx) s = .next t ∧ t.mem = s.mem ∧ done t
      ∧ t.ctx ctx = Context.none
      ∧ (∀ x, (s.tile x).tag = some ctx → (t.tile x).mode = .off ∧ (t.tile x).tag = none ∧ (t.tile x).fill = 0 ∧ (t.tile x).cells = [])
      ∧ ∀ k i, i < 32 → (s.cluster k).banks.length = 32 → ((s.cluster k).bank i).mode = .fifo → ((s.cluster k).bank i).owner = some ctx →
        ((t.cluster k).bank i).mode = .cache)

/-- R45, R411, R426, R427, Table 17-2: the host's writes and reads of BAR0, and accesses to device memory by the host and from the
fabric, which are answered in the order of arrival, each once its lines' homes act on it; a host's write takes its turn there. In
containment and in boot failure nothing but BBOXSEL is written, and BAR2 is not served. Log 115 (DESIGN CHOICE): a 64-bit register
is read and written whole at its own offset, and a write at its upper half's offset is ignored. -/
def Obligations.HostPort : Prop := ∀ (s : State),
  let b := s.bar0
  let up := s.contained = none ∧ ∀ d ∈ s.dies, d.stageRejected = none
  let free (a n : Nat) (r : DReq) := ∀ l, a < 192 * l + 192 → 192 * l < a + n → 192 * l + 192 ≤ 0xC000000000 → s.dirReady l r = true
  let readable (a n : Nat) := ∀ l, a < 192 * l + 192 → 192 * l < a + n → s.dirReady l (.rdu 0 false) = true
  let sees (a : Nat) : Byte := if a < 0xC000000000 then s.rdB a else 0xFF
  let stores (t : State) (a : Nat) (bs : List Byte) := ∀ x, t.rdB x
    = if h : a ≤ x ∧ x - a < bs.length ∧ x < 0xC000000000 then bs[x - a]'h.2.1 else s.rdB x
  (∀ val, exec (.bar0Write 0x300 val) s = .next { s with bar0 := { b with bboxsel := val % 4 } })
  ∧ (∀ off val, ¬ up → off ≠ 0x300 → exec (.bar0Write off val) s = .next s)
  ∧ (up → ∀ val,
    exec (.bar0Write 0x100 val) s = .next { s with bar0 := { b with ctxdesc := BitVec.ofNat 64 val } }
    ∧ (b.ctxcmd.getLsbD 31 = true → exec (.bar0Write 0x108 val) s = .next s)
    ∧ (b.ctxcmd.getLsbD 31 = false → ∃ c : Word, exec (.bar0Write 0x108 val) s = .next { s with bar0 := { b with ctxcmd := c } }
      ∧ c.toNat = val % 32 + val / 256 % 4 * 256 + if val / 256 % 4 = 0 then 0 else 2 ^ 31)
    ∧ exec (.bar0Write 0x200 val) s = .next { s with bar0 := { b with errbase := BitVec.ofNat 64 val } }
    ∧ (∃ c : Word, exec (.bar0Write 0x208 val) s = .next { s with bar0 := { b with errctl := c } }
      ∧ c.toNat = val % 16 + val / 2 ^ 31 % 2 * 2 ^ 31)
    ∧ exec (.bar0Write 0x218 val) s = .next { s with bar0 := { b with errcons := val } }
    ∧ (∀ n < 1024, ∃ t, exec (.bar0Write (0x2000 + 2 * n) val) s = .next t ∧ { t with bar0 := b } = s
      ∧ ∀ m, NMap.get 0 t.bar0.fabroute m = if m = n then BitVec.ofNat 16 val &&& 0x8FFF else NMap.get 0 b.fabroute m)
    ∧ ∀ off, off ∉ [0x100, 0x108, 0x200, 0x208, 0x218, 0x300] → (off < 0x2000 ∨ 0x2800 ≤ off ∨ off % 2 = 1) →
        exec (.bar0Write off val) s = .next s)
  ∧ s.bar0Read 0 = some s.devident ∧ s.bar0Read 0x300 = some b.bboxsel
  ∧ (∀ o, o % 8 = 0 → o < 4096 → s.bar0Read (0x1000 + o)
      = some ((NMap.get 0 (s.die b.bboxsel).bbox (o / 64)).toNat / 2 ^ (8 * (o % 64)) % 2 ^ 64))
  ∧ (up → s.bar0Read 0x100 = some b.ctxdesc.toNat ∧ s.bar0Read 0x108 = some b.ctxcmd.toNat ∧ s.bar0Read 0x200 = some b.errbase.toNat
    ∧ s.bar0Read 0x208 = some b.errctl.toNat ∧ s.bar0Read 0x210 = some b.errprod ∧ s.bar0Read 0x218 = some b.errcons
    ∧ (∀ n < 1024, s.bar0Read (0x2000 + 2 * n) = some (NMap.get 0 b.fabroute n).toNat)
    ∧ s.bar0Read 0x3000 = some (b.failsafe.toNat * 2 ^ 31 + b.throttle.toNat * 2 ^ 30 + b.capw % 4096 * 2 ^ 16 + b.avgw % 65536))
  ∧ (∀ (i : Instr) (r : Inbound), ((∃ a n, i = .hostRead a n ∧ r = .read a n) ∨ (∃ a bs, i = .hostWrite a bs ∧ r = .write a bs)
      ∨ ∃ node p a k n o c bs, i = .inboundFabricRequest ⟨node, p⟩ a k n o c bs ∧ r = .peer node a k n o c bs) →
    (¬ up → exec i s = .next (s.refusedInbound r))
    ∧ (up → s.inbound ≠ [] → exec i s = .next { s with inbound := s.inbound ++ [r] })
    ∧ (up → s.inbound = [] → exec i s = .next ((s.taken r).getD { s with inbound := [r] })))
  ∧ (s.inbound = [] → s.inboundGo = s)
  ∧ (∀ r l, s.inbound = r :: l → let s1 : State := { s with inbound := l }
    (¬ up → s.inboundGo = s1.refusedInbound r) ∧ (up → s.inboundGo = (s1.taken r).getD s))
  ∧ (∀ a n, s.refusedInbound (.read a n) = { s with hostRead := { bytes := [], ep := false, ur := true } })
  ∧ (∀ a bs, s.refusedInbound (.write a bs) = s)
  ∧ (∀ a n, (¬ readable a n → s.taken (.read a n) = none)
    ∧ (readable a n → 0 < n → ∃ r, s.taken (.read a n) = some { s with hostRead := r }
      ∧ r.ur = false ∧ r.ep = s.poisoned a n ∧ r.bytes = (List.range n).map fun i => sees (a + i)))
  ∧ (∀ a bs, (free a bs.length (.wr none none []) → ∃ t, s.taken (.write a bs) = some t ∧ stores t a bs)
    ∧ ∀ l, a / 192 = l → bs ≠ [] → a % 192 + bs.length ≤ 192 → 192 * l + 192 ≤ 0xC000000000 →
      s.dirReady l (.wr none none (pairsAt a bs)) = false → s.taken (.write a bs)
        = some (s.setDir l { s.dirAt l with queue := (s.dirAt l).queue ++ [.wr none none (pairsAt a bs)] }))
  ∧ (∀ node a k n o c bs, let len := if k = 1 then bs.length else n
    let e : Inbound := .peer node a k n o c bs
    let answer (t : State) (l : List Byte) (ep bad : Bool) := t.fabricRead = { bytes := l, ep := ep, ur := bad }
    let fails := s.taken e = some { s with fabricRead := { bytes := [], ep := false, ur := true } }
    s.refusedInbound e = { s with fabricRead := { bytes := [], ep := false, ur := true } }
    ∧ (Config.aperture s.tick node < a + len ∨ 0xC000000000 < a + len → fails)
    ∧ (a + len ≤ Config.aperture s.tick node → a + len ≤ 0xC000000000 →
      (k = 0 → ¬ readable a n → s.taken e = none)
      ∧ (k = 0 → 0 < n → readable a n → s.taken e
        = some { s with fabricRead := { bytes := s.rdBytes a n, ep := s.poisoned a n, ur := false } })
      ∧ (k = 1 → free a len (.wr none none []) → ∃ t, s.taken e = some t ∧ answer t [] false false ∧ stores t a bs)
      ∧ (4 < k → fails)
      ∧ (∀ aop, (k = 2 ∧ aop = 0) ∨ (k = 3 ∧ aop = 8) ∨ (k = 4 ∧ aop = 9) →
        ((n ≠ 4 ∧ n ≠ 8) ∨ a % n ≠ 0 → fails)
        ∧ ((n = 4 ∨ n = 8) → a % n = 0 →
          (¬ free a n (.wr none none []) → s.taken e = none)
          ∧ (free a n (.wr none none []) → s.poisoned a n = true → ∃ t, s.taken e = some t ∧ answer t [] true false ∧ t.mem = s.mem)
          ∧ (free a n (.wr none none []) → s.poisoned a n = false → ∃ t, s.taken e = some t
            ∧ answer t (toBytes n (s.rdN a n)) false false ∧ stores t a (toBytes n (atomNew aop n 0 (s.rdN a n) o c)))))))
  ∧ ∀ die port node, exec (.fabricWriteNotAccepted die port node) s
      = .next (s.fatal die 0x24 { loc := die % 4 * 2 ^ 15, detail := port % 16 * 2 ^ 32 + node % 1024 * 2 ^ 40 })

/-- R412 to R415, R417, R419, Tables 17-3 and 17-4: every error makes a record in its die's black box, sets AER by its class and is
queued for the error ring, with the number of suppressed ones that it tells of; a record that a full ring drops is counted with
those; a class 2 error is contained; poison stands for an error that nothing has consumed; an error that a unit consumes names the
unit's cluster and core (log 61). Log 116 (DESIGN CHOICE): the number suppressed stands in DETAIL [31:0] in place of what Table
17-4 gives there, the unit tag of 0x05. -/
def Obligations.Errors : Prop := ∀ (s : State) (die : Nat), s.dies.length = 4 → die < 4 →
  let d := s.die die
  let loc := die * 2 ^ 15
  let record (cls ev : Nat) (i : ErrInfo) (r : BitVec 512) := i.detail < 2 ^ 256 → d.seq + 1 < 2 ^ 64 → d.stamp < 2 ^ 64 → i.addr < 2 ^ 64 →
    i.loc < 2 ^ 32 → i.cause < 256 → cls < 4 → ev < 256 → (∀ c, i.ctx = some c → c < 32) →
    r.toNat = i.detail * 2 ^ 256 + i.addr * 2 ^ 192 + i.loc * 2 ^ 160 + (match i.ctx with
      | some c => 2 ^ 157 + c * 2 ^ 152
      | none => 0) + i.cause * 2 ^ 144 + cls * 2 ^ 136 + ev * 2 ^ 128 + d.stamp * 2 ^ 64 + (d.seq + 1)
  let boxed (t : State) (r : BitVec 512) := (t.die die).seq = d.seq + 1
    ∧ ∀ j, NMap.get 0 (t.die die).bbox j = if j = (d.seq + 1) % 64 then r else NMap.get 0 d.bbox j
  (∀ a, exec (.memoryErrorCorrected die a) s = .next (s.logError die 0 0x01 { loc := loc, addr := a }))
  ∧ exec (.hostLinkReplay die) s = .next (s.logError die 0 0x02 { loc := loc })
  ∧ (∀ p, exec (.dieToDieFlitRetry die p) s = .next (s.logError die 0 0x03 { loc := loc, detail := p % 256 * 2 ^ 32 }))
  ∧ (∀ p, exec (.fabricFlitRetry die p) s = .next (s.logError die 0 0x04 { loc := loc, detail := p % 16 * 2 ^ 32 }))
  ∧ (∀ cls ev i, cls ≤ 1 → s.contained = none →
    let late := cls = 0 ∧ ∃ t, NMap.get none d.lastClass0 ev = some t ∧ d.stamp < t + 100000
    let m := NMap.get 0 d.suppressed ev
    ∃ r, let t := s.logError die cls ev i
      boxed t r ∧ t.mem = s.mem ∧ t.contained = none
      ∧ t.aer.sent = s.aer.sent ++ [cls] ∧ (cls = 0 → t.aer.corrected = true ∧ t.aer.severity = s.aer.severity)
      ∧ (cls = 1 → t.aer.uncorrected = true ∧ t.aer.severity = false)
      ∧ (cls = 0 ∨ s.aer.uncorrected = true → t.aer.headerLog = s.aer.headerLog)
      ∧ (cls = 1 → s.aer.uncorrected = false → t.aer.headerLog.toNat = r.toNat / 2 ^ 128 % 2 ^ 128)
      ∧ (late → (t.die die).errQ = d.errQ ∧ NMap.get 0 (t.die die).suppressed ev = m + 1 ∧ record cls ev i r)
      ∧ (¬ late → (t.die die).errQ = d.errQ ++ [(r, if cls = 0 then m else 0)]
        ∧ record cls ev (if cls = 0 ∧ m ≠ 0 then { i with detail := i.detail / 2 ^ 32 * 2 ^ 32 + m % 2 ^ 32 } else i) r))
  ∧ (∀ ev i, ∃ r, let t := s.fatal die ev i
      record 2 ev i r ∧ boxed t r ∧ t.mem = s.mem
      ∧ (s.contained ≠ none → t.contained = s.contained ∧ t.aer = s.aer ∧ t.agenda = s.agenda)
      ∧ (s.contained = none → s.aer.uncorrected = false → t.aer.headerLog.toNat = r.toNat / 2 ^ 128 % 2 ^ 128)
      ∧ (s.contained = none → t.contained = some 0 ∧ t.aer.uncorrected = true ∧ t.aer.severity = true ∧ (t.die die).errQ = d.errQ ++ [(r, 0)]
        ∧ t.agenda.head? = some (.containment die)))
  ∧ (∀ h a, let carried := rangeOf a ≠ .reserved ∧ (h ≤ 3 ∨ h = 5)
    (carried → ∃ t : State, exec (.uncorrectableError die ⟨h, a⟩ .none) s = .next t ∧ { t with poison := [] } = { s with poison := [] }
      ∧ ∀ q, q ∈ t.poison ↔ q ∈ s.poison ∨ q = a / 48)
    ∧ (¬ carried → exec (.uncorrectableError die ⟨h, a⟩ .none) s
        = .next (s.fatal die 0x26 { loc := loc, addr := a, detail := h % 256 })))
  ∧ (∀ h a cid c, s.crew? cid = some c →
    let e : Instr := .uncorrectableError die ⟨h, a⟩ (.unit cid)
    let at_ := locOf c.cluster ((s.groups.find? fun g => g.cid == cid).elim 0 fun g => g.core)
    let lost := exec e s = .next (s.fatal die 0x20 { loc := at_, addr := a, ctx := some c.ctx, cause := 0x07 })
    (∀ l, s.replayLaunch c = some l → exec e s = .next (s.replayOf l { die, event := 0x10, loc := at_, addr := a }))
    ∧ (s.replayLaunch c = none → s.firstSplit cid = none → lost)
    ∧ (s.replayLaunch c = none → ∀ g n, s.firstSplit cid = some (g, n) →
      (c.versioned = true → exec e s = .next (s.owe g n { cause := 0x07 })) ∧ (c.versioned = false → lost)))
  ∧ (∀ h a g n x p, s.group? g = some x → x.split? n = some p →
    (p.cl = none → exec (.uncorrectableError die ⟨h, a⟩ (.split g n)) s = .next s)
    ∧ ∀ cl, p.cl = some cl → exec (.uncorrectableError die ⟨h, a⟩ (.split g n)) s
        = .next (s.raise g n { cause := 0x07, opc := (nth 0 cl.words (p.widx - 1)).toNat / 2 ^ 56 % 256, inside := true }))
  ∧ (∀ h a i o l, s.op? i = some o → (o.kind.accs.find? fun x => (x.lineIn .fabric).isSome || (x.lineIn .host).isSome) = some l →
    (o.kind.isStore = true → exec (.uncorrectableError die ⟨h, a⟩ (.op i)) s = .next s)
    ∧ (o.kind.isStore = false → exec (.uncorrectableError die ⟨h, a⟩ (.op i)) s = .next ((s.completionTrap o.gid o.split
        { cause := 0x07, lane := l.lane, taddr := BitVec.ofNat 64 l.va, opc := o.opc, inside := l.place.inside }).finishOp o)))
  ∧ (let b := s.bar0
    let size := 2 ^ (b.errctl.toNat % 16)
    let room := b.errctl.getLsbD 31 = true ∧ b.errprod < b.errcons + size
    let pa := 0x8000000000000 + b.errbase.toNat + 64 * (b.errprod % size)
    (d.errQ = [] ∨ s.contained ≠ none → exec (.errorRecordWrite die) s = .next s)
    ∧ (∀ r n l, d.errQ = (r, n) :: l → s.contained = none →
      (room → ∃ t, exec (.errorRecordWrite die) s = .next t ∧ t.rdN pa 64 = r.toNat ∧ (∀ x, x < pa ∨ pa + 64 ≤ x → t.rdB x = s.rdB x)
        ∧ t.bar0 = { b with errprod := b.errprod + 1 } ∧ t.msix = s.msix ++ [0] ∧ (t.die die).errQ = l)
      ∧ (¬ room → let light (x : BitVec 512 × Nat) : Bool := x.1.toNat / 2 ^ 136 % 4 == 0
        ∃ t, exec (.errorRecordWrite die) s = .next t ∧ t.mem = s.mem ∧ t.bar0 = b ∧ t.msix = s.msix
        ∧ (t.die die).errQ = d.errQ.filter (fun x => !light x)
        ∧ ∀ ev, NMap.get 0 (t.die die).suppressed ev
          = NMap.get 0 d.suppressed ev
            + ((d.errQ.filter fun x => light x && x.1.toNat / 2 ^ 128 % 256 == ev).map fun x => x.2 + 1).sum)))
  ∧ (s.contained = none ∨ s.contained = some 5 → exec (.containment die) s = .next s)
  ∧ (s.contained = some 0 → ∃ t, exec (.containment die) s = .next t ∧ t.contained = some 5 ∧ t.aer.sent = s.aer.sent ++ [2]
      ∧ (t.die die).seq = d.seq + 5 ∧ (∀ e < 4, e ≠ die → (t.die e).seq = (s.die e).seq + 4) ∧ (t.die die).errQ = d.errQ.dropLast
      ∧ t.groups = s.groups ∧ t.crews = s.crews)

/-- R416, R418 to R424: the resets and what each keeps; retention, which an idle cluster enters with its dirty lines written back, and
the loss of what it held; the share's rate and cap, the node cap and its acknowledgement, the watchdog's values, the power
events that are signalled, and the stretched clocks. -/
def Says.ResetsAndPower : Prop := ∀ (s : State), s.dies.length = 4 →
  let clean (t : State) := (∀ a, t.rdB a = if a < 0xC000000000 then 0 else s.rdB a)
    ∧ (NMap.wf Tile.reset s.tiles = true → ∀ x, let u := t.tile x
        let v := s.tile x
        u.fill = v.fill ∧ u.cells = v.cells ∧ u.lifeBase = v.lifeBase ∧ u.life0 = v.life0 ∧ u.life1 = v.life1 ∧ u.mode = .off
        ∧ u.tag = none ∧ u.q = [] ∧ u.busy = .idle)
    ∧ t.groups = [] ∧ t.crews = [] ∧ t.saved = [] ∧ t.launches = [] ∧ t.ops = [] ∧ t.copies = [] ∧ t.sreds = [] ∧ t.versions = []
    ∧ t.dir = [] ∧ t.poison = [] ∧ t.clusters = [] ∧ t.cores = [] ∧ t.ctxs = [] ∧ t.shares = [] ∧ t.bar0 = Bar0.reset
    ∧ t.contained = none ∧ t.tripped = false ∧ t.inbound = [] ∧ t.pwrRuns = s.pwrNext
  (∃ t, exec .powerOn s = .next t ∧ clean t ∧ t.dies = List.replicate 4 Die.reset)
  ∧ (∃ t, exec .hotReset s = .next t ∧ clean t ∧ ∀ d < 4, let u := t.die d
      let v := s.die d
      ∃ r, { u with bbox := [], seq := 0, stamp := 0 } = Die.reset ∧ u.seq = v.seq + 1 ∧ u.stamp = v.stamp
      ∧ (∀ j, NMap.get 0 u.bbox j = if j = (v.seq + 1) % 64 then r else NMap.get 0 v.bbox j)
      ∧ r.toNat / 2 ^ 128 % 256 = 0x31 ∧ r.toNat / 2 ^ 136 % 4 = 0)
  ∧ (∀ k < 96, let c := s.cluster k
    let idle := (∀ g ∈ s.groups, g.core / 4 = k → g.retired = true) ∧ ∀ i r, (i, some r) ∈ c.ready → r.st ≠ .ready
    (c.retention = true ∨ ¬ idle ∨ (∃ l ∈ c.cache, s.canWriteBack l = false) → exec (.retentionEnter k) s = .next s)
    ∧ (c.retention = false → idle → (∀ l ∈ c.cache, l.dirty = 0) → (∀ d, (s.die d).steals = []) →
      exec (.retentionEnter k) s = .next (s.setCluster k { c with retention := true }))
    ∧ (c.retention = false → ∀ b, exec (.retentionExit k b) s = .next s)
    ∧ (c.retention = true → exec (.retentionExit k false) s = .next (s.setCluster k { c with retention := false }))
    ∧ (c.retention = true → (∀ b ∈ c.banks, b.mode ≠ .fifo) → (∀ v ∈ s.saved, v.crew.cluster ≠ k) → (s.die (k / 24)).steals = [] →
      ∃ t, exec (.retentionExit k true) s = .next t ∧ t.mem = s.mem
      ∧ t.cluster k = { Cluster.reset with ready := c.ready, stretched := c.stretched, limited := c.limited }
      ∧ (∀ j, j ≠ k → t.cluster j = s.cluster j) ∧ (∀ j, t.core j = if j / 4 = k then Core.reset else s.core j)
      ∧ (NMap.wf Tile.reset s.tiles = true → ∀ x, let v := s.tile x
        t.tile x = if x / 64 / 4 = k then { Tile.reset with
          fill := v.fill, cells := v.cells, lifeBase := v.lifeBase, life0 := v.life0, life1 := v.life1 } else v))
    ∧ ∀ x, s.lossOwners k = [x] → c.retention = true → ∀ l, s.launches = [l] → l.ctx = x → l.started = true →
      ∃ t : State, t.mem = s.mem
        ∧ (l.replayable = false → exec (.retentionExit k true) s
          = .next (t.fatal (k / 24) 0x21 { loc := locOf k 0, ctx := some x }))
        ∧ (l.replayable = true → exec (.retentionExit k true) s = .next (t.replayOf l { die := k / 24, event := 0x11, loc := locOf k 0, addr := 0 })))
  ∧ (∀ ctx k r p b w, ∃ t, exec (.powerRateUpdate ctx k ⟨r, p⟩ ⟨b, w⟩) s = .next t
      ∧ (t.share ctx k).rate = r % 2 ^ 16 ∧ (t.share ctx k).capk = p % 2 ^ 16
      ∧ (t.share ctx k).level = min (256 * if s.bar0.failsafe then 1 else p % 2 ^ 16) (s.share ctx k).level
      ∧ t.bar0 = { s.bar0 with throttle := b, avgw := w % 2 ^ 16 }
      ∧ t.msix = if b = s.bar0.throttle then s.msix else s.msix ++ [3])
  ∧ (∀ w, let cap := if w < 1200 then 1200 else if 3000 < w then 3000 else w
    exec (.nodeCapMessage w) s = .next { s with
      bar0 := { s.bar0 with capw := cap }, acks := s.acks ++ [cap], msix := if cap = s.bar0.capw then s.msix else s.msix ++ [3] })
  ∧ (∀ i, i = .watchdogExpiry ∨ i = .firmwareUpdateStart → ∃ t, exec i s = .next t ∧ t.bar0 = { s.bar0 with failsafe := true }
      ∧ t.mem = s.mem ∧ t.msix = s.msix ++ [3]
      ∧ (∀ c k, (t.shareNow c k).rate = 1 ∧ (t.shareNow c k).capk = 1 ∧ (t.share c k).level = min 256 (s.share c k).level)
      ∧ (t.die 0).seq = (s.die 0).seq + 1
      ∧ t.pwrRuns = s.pwrRuns ∧ (i = .watchdogExpiry → t.pwrNext = s.pwrNext))
  ∧ (∃ t, exec .watchdogService s = .next t ∧ t.bar0 = { s.bar0 with failsafe := false }
      ∧ t.msix = (if s.bar0.failsafe = true then s.msix ++ [3] else s.msix)
      ∧ { t with bar0 := s.bar0, msix := s.msix, shares := s.shares } = s
      ∧ ∀ c k, t.share c k = { s.share c k with level := min (256 * (s.share c k).capk) (s.share c k).level })
  ∧ (∀ k, exec (.droopStretch k) s = .next (s.setCluster k { s.cluster k with stretched := true })
      ∧ exec (.droopRelease k) s = .next (s.setCluster k { s.cluster k with stretched := false }))
  ∧ (∀ die pair, let k := 24 * die + 2 * pair
    let put (t : State) (j : Nat) (v : Bool) := t.setCluster j { s.cluster j with limited := v }
    (∀ b, exec (.seriesPairOvercurrent die pair b true) s = .next (put (put s k false) (k + 1) false))
    ∧ exec (.seriesPairOvercurrent die pair true false) s = .next (put (put s k true) (k + 1) true)
    ∧ ∃ j, (j = k ∨ j = k + 1) ∧ exec (.seriesPairOvercurrent die pair false false) s = .next (put s j true))
  ∧ ∀ die sensor, exec (.thermalTrip die sensor) s
      = .next { s.fatal die 0x25 { loc := die % 4 * 2 ^ 15, detail := sensor % 2 ^ 16 } with tripped := true }

/-- R415, R419, R429, R430: a firmware stage that is verified and no rollback is measured by extension and recorded; another leaves its
die in its boot state; and every SPDM request is answered by a signed response, over MCTP even in containment. -/
def Says.FirmwareAndIdentity : Prop := ∀ (s : State),
  (∀ die stage dg v rb, die < 4 → s.dies.length = 4 → let d := s.die die
    let event (u : Die) (code detail : Nat) :=
      let r := (NMap.get 0 u.bbox ((d.seq + 1) % 64)).toNat
      r / 2 ^ 128 % 256 = code ∧ r / 2 ^ 256 = detail
    (d.stageRejected ≠ none → exec (.bootStageVerify die stage dg v rb) s = .next s)
    ∧ (d.stageRejected = none → v = true → rb = false → ∃ t, exec (.bootStageVerify die stage dg v rb) s = .next t
      ∧ (t.die die).stageRejected = none ∧ (t.die die).seq = d.seq + 1 ∧ t.mem = s.mem
      ∧ (∀ j, nth 0 (t.die die).meas j = if j = stage then extend (nth 0 d.meas j) dg else nth 0 d.meas j)
      ∧ event (t.die die) 0x32 (stage % 256))
    ∧ (d.stageRejected = none → v = false ∨ rb = true → ∃ t, exec (.bootStageVerify die stage dg v rb) s = .next t
      ∧ (t.die die).stageRejected = some stage ∧ (t.die die).seq = d.seq + 1 ∧ (t.die die).meas = d.meas ∧ t.bootFailed = true
      ∧ event (t.die die) 0x33 (stage % 256 + if v = true then 256 else 0)))
  ∧ (s.bootFailed = true → s.devident / 2 ^ 20 = 0)
  ∧ (∀ off, s.contained ≠ none ∨ s.bootFailed = true → off ≠ 0 → off ≠ 0x300 → (off < 0x1000 ∨ 0x2000 ≤ off) → s.bar0Read off = none)
  ∧ ∀ m nonce i code body, (i, code, body) ∈ [
        (Instr.getVersion m, 0, Config.spdmBody 0 0), (.getCapabilities m, 1, Config.spdmBody 1 0),
        (.negotiateAlgorithms m, 2, Config.spdmBody 2 0), (.getDigests m, 3, Config.spdmBody 3 0),
        (.getCertificate m, 4, Config.spdmBody 4 0), (.challenge m nonce, 5, Config.spdmBody 5 nonce),
        (.getMeasurements m, 6, (s.dies.flatMap fun d => d.meas) ++ [extend 0 s.pwrRuns])] →
      (s.contained = none ∨ m = true → exec i s = .next { s with
        spdm := s.spdm ++ [{ code, mctp := m, body, sig := Config.sign (s.dies.map fun d => d.meas.headD 0) body }] })
      ∧ (s.contained ≠ none → m = false → exec i s = .next s)

/-! ### Statements in parts -/

/-- Bit fields, addresses, moves and the operations across lanes: `Says.FieldsAddressesMoves`, `Says.CrossLane`. -/
def Obligations.FieldsMovesLanes : Prop := Says.FieldsAddressesMoves ∧ Says.CrossLane

/-- Branches, divergence and joins: `Says.Branches`, `Says.Divergence`. -/
def Obligations.ControlFlow : Prop := Says.Branches ∧ Says.Divergence

/-- The end of splits, NOP and YIELD, the repeat, and the growth of the register allocation: `Says.ExitNopYield`, `Says.RepeatAndAdvance`, `Says.RegisterGrowth`. -/
def Obligations.ExitRepeatGrow : Prop := Says.ExitNopYield ∧ Says.RepeatAndAdvance ∧ Says.RegisterGrowth

/-- The special registers, read and written: `Says.SpecialRegisterReads`, `Says.SpecialRegisterWrites`. -/
def Obligations.SpecialRegisters : Prop := Says.SpecialRegisterReads ∧ Says.SpecialRegisterWrites

/-- Rounding to a format and to an integer: `Says.FloatRounding`, `Says.IntegerRounding`. -/
def Obligations.Rounding : Prop := Says.FloatRounding ∧ Says.IntegerRounding

/-- The packed formats: slots, conversions and arithmetic: `Says.FormatSlots`, `Says.Conversions`, `Says.PackedArithmetic`. -/
def Obligations.PackedFormats : Prop := Says.FormatSlots ∧ Says.Conversions ∧ Says.PackedArithmetic

/-- The walk of the page tables and the end of the address space: `Says.TranslationWalk`, `Says.VirtualAddressEnd`. -/
def Obligations.Translation : Prop := Says.TranslationWalk ∧ Says.VirtualAddressEnd

/-- The issue of loads, stores, atomics and maintenance: `Says.MemoryIssue`, `Says.MemoryIssueHeld`. -/
def Obligations.MemoryIssues : Prop := Says.MemoryIssue ∧ Says.MemoryIssueHeld

/-- The completion of loads and stores, and of the maintenance of lines: `Says.LoadStoreCompletion`, `Says.MaintenanceCompletion`. -/
def Obligations.LoadsAndStores : Prop := Says.LoadStoreCompletion ∧ Says.MaintenanceCompletion

/-- Every word is an instruction whose words it is, or is rejected by name: `Says.EncodeOfDecode`, `Says.UnassignedWords`. -/
def Obligations.WordsOfInstructions : Prop := Says.EncodeOfDecode ∧ Says.UnassignedWords

/-- A step runs the instruction that is decoded, or the event that is due: `Says.StepDecodes`, `Says.StepEvents`. -/
def Obligations.StepRunsDecoded : Prop := Says.StepDecodes ∧ Says.StepEvents

/-- The start of a clause, and its checks: `Says.StepStartsClause`, `Says.ClauseChecks`. -/
def Obligations.ClauseStart : Prop := Says.StepStartsClause ∧ Says.ClauseChecks

/-- Memory reads back what was written, and equal memories are equal data: `Says.MemoryReadWrite`, `Says.MemoryCanonical`. -/
def Obligations.MemoryBytes : Prop := Says.MemoryReadWrite ∧ Says.MemoryCanonical

/-- Fences, the group barrier and the named barriers: `Says.Fences`, `Says.GroupBarrier`, `Says.NamedBarriers`. -/
def Obligations.FencesAndBarriers : Prop := Says.Fences ∧ Says.GroupBarrier ∧ Says.NamedBarriers

/-- Monitors and tickets: `Says.MonitorWait`, `Says.Tickets`. -/
def Obligations.MonitorsAndTickets : Prop := Says.MonitorWait ∧ Says.Tickets

/-- The Hensel unit: its registers, its loads and its arithmetic: `Says.HenselRegisters`, `Says.HenselOperations`. -/
def Obligations.HenselUnit : Prop := Says.HenselRegisters ∧ Says.HenselOperations

/-- The issue of matrix instructions: `Says.MultiplyIssue`, `Says.MatrixClaims`, `Says.MatrixMemoryIssue`. -/
def Obligations.MatrixIssue : Prop := Says.MultiplyIssue ∧ Says.MatrixClaims ∧ Says.MatrixMemoryIssue

/-- The issue of crossbar instructions and of CBMVM: `Says.CrossbarIssue`, `Says.MultiplyCommand`. -/
def Obligations.CrossbarIssues : Prop := Says.CrossbarIssue ∧ Says.MultiplyCommand

/-- CBSTAT, CBREAD and the gates: `Says.CrossbarStatus`, `Says.Gates`. -/
def Obligations.CrossbarQueries : Prop := Says.CrossbarStatus ∧ Says.Gates

/-- A tile executes its commands in order: `Says.TileCommands`, `Says.TileEvents`. -/
def Obligations.TileExecution : Prop := Says.TileCommands ∧ Says.TileEvents

/-- The product of a crossbar tile: `Says.MultiplyIsExact`, `Says.MultiplyPerform`. -/
def Obligations.CrossbarMultiply : Prop := Says.MultiplyIsExact ∧ Says.MultiplyPerform

/-- Copy tags and transaction barriers: `Says.CopyTags`, `Says.TransactionBarriers`. -/
def Obligations.CopyTagsAndBarriers : Prop := Says.CopyTags ∧ Says.TransactionBarriers

/-- The issue of copies and the checks of a layout record: `Says.CopyIssue`, `Says.LayoutChecks`. -/
def Obligations.CopyIssues : Prop := Says.CopyIssue ∧ Says.LayoutChecks

/-- The streamed reductions: issue, progress and status: `Says.ReduceIssue`, `Says.ReduceProgress`, `Says.ReduceStatus`. -/
def Obligations.StreamedReduction : Prop := Says.ReduceIssue ∧ Says.ReduceProgress ∧ Says.ReduceStatus

/-- The insertion and the cancellation of tasks: `Says.TaskSpawn`, `Says.TaskCancel`. -/
def Obligations.Tasks : Prop := Says.TaskSpawn ∧ Says.TaskCancel

/-- Events, and launches from the device: `Says.Events`, `Says.Launching`. -/
def Obligations.EventsAndLaunches : Prop := Says.Events ∧ Says.Launching

/-- A launch from the queue to its end: `Says.Admission`, `Says.Distribution`, `Says.LaunchEnds`. -/
def Obligations.LaunchLife : Prop := Says.Admission ∧ Says.Distribution ∧ Says.LaunchEnds

/-- The start of crews and of tasks, and stealing: `Says.CrewStarts`, `Says.TaskDispatch`, `Says.Stealing`. -/
def Obligations.StartsAndSteals : Prop := Says.CrewStarts ∧ Says.TaskDispatch ∧ Says.Stealing

/-- Retirement, completion, redundancy and replay: `Says.Retirement`, `Says.Completion`, `Says.RedundancyAndReplay`. -/
def Obligations.EndsOfWork : Prop := Says.Retirement ∧ Says.Completion ∧ Says.RedundancyAndReplay

/-- The return from a trap, PHINT, TLBINV and HALT: `Says.ReturnAndHint`, `Says.InvalidateAndHalt`. -/
def Obligations.ReturnHintHalt : Prop := Says.ReturnAndHint ∧ Says.InvalidateAndHalt

/-- The fault ring and the replies to it: `Says.FaultService`, `Says.FaultReplies`. -/
def Obligations.FaultRing : Prop := Says.FaultService ∧ Says.FaultReplies

/-- The coherence directory: `Says.DirectoryRequests`, `Says.DirectoryAnswers`. -/
def Obligations.Directory : Prop := Says.DirectoryRequests ∧ Says.DirectoryAnswers

/-- Resets, power, firmware and identity: `Says.ResetsAndPower`, `Says.FirmwareAndIdentity`. -/
def Obligations.ResetPowerIdentity : Prop := Says.ResetsAndPower ∧ Says.FirmwareAndIdentity
end

