-- ==== Sys2Proof/Laws/Map.lean ====
section
/-! SUPPORT. The laws of the sparse map: a read after a write, and the canonical form. -/

namespace Sys2Proof

theorem NMap.get_nil {α : Type} (d : α) (k : Nat) : NMap.get d ([] : NMap α) k = d := rfl

theorem NMap.get_insert {α : Type} (d : α) (k : Nat) (v : α) (j : Nat) :
    ∀ m : NMap α, (∀ e ∈ m, e.1 ≠ k) → NMap.get d (NMap.insert k v m) j = if j = k then v else NMap.get d m j
  | [], _ => rfl
  | (i, w) :: m, h => by
    have hi : i ≠ k := h (i, w) List.mem_cons_self
    have ih := NMap.get_insert d k v j m fun e he => h e (List.mem_cons_of_mem _ he)
    unfold NMap.insert
    by_cases hk : k < i
    · simp [hk, NMap.get]
    · rw [if_neg hk]
      by_cases hj : j = i
      · subst hj
        simp [NMap.get, hi]
      · simp [NMap.get, hj, ih]

theorem NMap.get_filter_ne {α : Type} (d : α) (k j : Nat) :
    ∀ m : NMap α, NMap.get d (m.filter fun e => e.1 != k) j = if j = k then d else NMap.get d m j
  | [] => by simp [NMap.get]
  | (i, w) :: m => by
    have ih := NMap.get_filter_ne d k j m
    by_cases hi : i = k
    · subst hi
      by_cases hj : j = i
      · simp [hj] at ih ⊢
        exact ih
      · simp [hj, NMap.get] at ih ⊢
        exact ih
    · by_cases hj : j = i
      · subst hj
        simp [hi, NMap.get]
      · simp [hi, hj, NMap.get] at ih ⊢
        exact ih

/-- A read after a write: the value at the key that was written, and every other key as before. -/
theorem NMap.get_set {α : Type} [DecidableEq α] (d : α) (m : NMap α) (k : Nat) (v : α) (j : Nat) :
    NMap.get d (NMap.set d m k v) j = if j = k then v else NMap.get d m j := by
  unfold NMap.set
  by_cases hv : v = d
  · subst hv
    rw [if_pos rfl, NMap.get_filter_ne]
  · rw [if_neg hv, NMap.get_insert _ _ _ _ _ (by simp), NMap.get_filter_ne]
    by_cases hj : j = k <;> simp [hj]

@[simp] theorem NMap.get_set_self {α : Type} [DecidableEq α] (d : α) (m : NMap α) (k : Nat) (v : α) :
    NMap.get d (NMap.set d m k v) k = v := by simp [NMap.get_set]

theorem NMap.get_set_ne {α : Type} [DecidableEq α] (d : α) (m : NMap α) (v : α) {j k : Nat} (h : j ≠ k) :
    NMap.get d (NMap.set d m k v) j = NMap.get d m j := by simp [NMap.get_set, h]

theorem NMap.wfFrom_mono {α : Type} [DecidableEq α] (d : α) {lo lo' : Nat} (hl : lo' ≤ lo) :
    ∀ m : NMap α, NMap.wfFrom d lo m = true → NMap.wfFrom d lo' m = true
  | [], _ => rfl
  | (j, v) :: m, h => by
    simp only [NMap.wfFrom, Bool.and_eq_true, decide_eq_true_eq] at h ⊢
    exact ⟨⟨by omega, h.1.2⟩, h.2⟩

theorem NMap.wfFrom_filter {α : Type} [DecidableEq α] (d : α) (p : Nat × α → Bool) :
    ∀ (m : NMap α) (lo : Nat), NMap.wfFrom d lo m = true → NMap.wfFrom d lo (m.filter p) = true
  | [], _, _ => rfl
  | (j, v) :: m, lo, h => by
    simp only [NMap.wfFrom, Bool.and_eq_true, decide_eq_true_eq] at h
    have ih := NMap.wfFrom_filter d p m (j + 1) h.2
    by_cases hp : p (j, v) = true
    · rw [List.filter_cons_of_pos hp]
      simp only [NMap.wfFrom, Bool.and_eq_true, decide_eq_true_eq]
      exact ⟨h.1, ih⟩
    · rw [List.filter_cons_of_neg hp]
      exact NMap.wfFrom_mono d (by omega) _ ih

theorem NMap.wfFrom_insert {α : Type} [DecidableEq α] (d : α) (k : Nat) (v : α) (hv : v ≠ d) :
    ∀ (m : NMap α) (lo : Nat), lo ≤ k → (∀ e ∈ m, e.1 ≠ k) → NMap.wfFrom d lo m = true →
      NMap.wfFrom d lo (NMap.insert k v m) = true
  | [], lo, hl, _, _ => by simp [NMap.insert, NMap.wfFrom, hl, hv]
  | (j, w) :: m, lo, hl, hk, h => by
    have hj : j ≠ k := hk (j, w) List.mem_cons_self
    simp only [NMap.wfFrom, Bool.and_eq_true, decide_eq_true_eq] at h
    unfold NMap.insert
    by_cases hkj : k < j
    · rw [if_pos hkj]
      simp only [NMap.wfFrom, Bool.and_eq_true, decide_eq_true_eq]
      exact ⟨⟨hl, by simp [hv]⟩, ⟨by omega, h.1.2⟩, h.2⟩
    · rw [if_neg hkj]
      simp only [NMap.wfFrom, Bool.and_eq_true, decide_eq_true_eq]
      exact ⟨h.1, NMap.wfFrom_insert d k v hv m (j + 1) (by omega) (fun e he => hk e (List.mem_cons_of_mem _ he)) h.2⟩

/-- A write keeps the canonical form. -/
theorem NMap.wf_set {α : Type} [DecidableEq α] (d : α) (m : NMap α) (k : Nat) (v : α) (h : NMap.wf d m = true) :
    NMap.wf d (NMap.set d m k v) = true := by
  unfold NMap.set NMap.wf at *
  by_cases hv : v = d
  · rw [if_pos hv]
    exact NMap.wfFrom_filter d _ m 0 h
  · rw [if_neg hv]
    exact NMap.wfFrom_insert d k v hv _ 0 (Nat.zero_le _) (by simp) (NMap.wfFrom_filter d _ m 0 h)

/-- Dropping entries keeps the canonical form. -/
theorem NMap.wf_filter {α : Type} [DecidableEq α] (d : α) (p : Nat × α → Bool) (m : NMap α) (h : NMap.wf d m = true) :
    NMap.wf d (m.filter p) = true := NMap.wfFrom_filter d p m 0 h

end Sys2Proof
end

