-- ==== Sys2Proof/Laws/State.lean ====
section
/-! SUPPORT. What each update of a part of the state leaves as it was, one lemma for each field, and what a read of the part
gives after it. -/

namespace Sys2Proof.Machine

/-! ### setGroup -/

@[simp] theorem State.setGroup_mem (s : State) (g : Group) : (s.setGroup g).mem = s.mem := rfl
@[simp] theorem State.setGroup_dir (s : State) (g : Group) : (s.setGroup g).dir = s.dir := rfl
@[simp] theorem State.setGroup_dirClock (s : State) (g : Group) : (s.setGroup g).dirClock = s.dirClock := rfl
@[simp] theorem State.setGroup_clusters (s : State) (g : Group) : (s.setGroup g).clusters = s.clusters := rfl
@[simp] theorem State.setGroup_cores (s : State) (g : Group) : (s.setGroup g).cores = s.cores := rfl
@[simp] theorem State.setGroup_tiles (s : State) (g : Group) : (s.setGroup g).tiles = s.tiles := rfl
@[simp] theorem State.setGroup_dies (s : State) (g : Group) : (s.setGroup g).dies = s.dies := rfl
@[simp] theorem State.setGroup_ctxs (s : State) (g : Group) : (s.setGroup g).ctxs = s.ctxs := rfl
@[simp] theorem State.setGroup_shares (s : State) (g : Group) : (s.setGroup g).shares = s.shares := rfl
@[simp] theorem State.setGroup_launches (s : State) (g : Group) : (s.setGroup g).launches = s.launches := rfl
@[simp] theorem State.setGroup_crews (s : State) (g : Group) : (s.setGroup g).crews = s.crews := rfl
@[simp] theorem State.setGroup_saved (s : State) (g : Group) : (s.setGroup g).saved = s.saved := rfl
@[simp] theorem State.setGroup_versions (s : State) (g : Group) : (s.setGroup g).versions = s.versions := rfl
@[simp] theorem State.setGroup_ops (s : State) (g : Group) : (s.setGroup g).ops = s.ops := rfl
@[simp] theorem State.setGroup_copies (s : State) (g : Group) : (s.setGroup g).copies = s.copies := rfl
@[simp] theorem State.setGroup_sreds (s : State) (g : Group) : (s.setGroup g).sreds = s.sreds := rfl
@[simp] theorem State.setGroup_updates (s : State) (g : Group) : (s.setGroup g).updates = s.updates := rfl
@[simp] theorem State.setGroup_poison (s : State) (g : Group) : (s.setGroup g).poison = s.poison := rfl
@[simp] theorem State.setGroup_bar0 (s : State) (g : Group) : (s.setGroup g).bar0 = s.bar0 := rfl
@[simp] theorem State.setGroup_aer (s : State) (g : Group) : (s.setGroup g).aer = s.aer := rfl
@[simp] theorem State.setGroup_msix (s : State) (g : Group) : (s.setGroup g).msix = s.msix := rfl
@[simp] theorem State.setGroup_hostRead (s : State) (g : Group) : (s.setGroup g).hostRead = s.hostRead := rfl
@[simp] theorem State.setGroup_fabricRead (s : State) (g : Group) : (s.setGroup g).fabricRead = s.fabricRead := rfl
@[simp] theorem State.setGroup_spdm (s : State) (g : Group) : (s.setGroup g).spdm = s.spdm := rfl
@[simp] theorem State.setGroup_contained (s : State) (g : Group) : (s.setGroup g).contained = s.contained := rfl
@[simp] theorem State.setGroup_tripped (s : State) (g : Group) : (s.setGroup g).tripped = s.tripped := rfl
@[simp] theorem State.setGroup_acks (s : State) (g : Group) : (s.setGroup g).acks = s.acks := rfl
@[simp] theorem State.setGroup_pwrRuns (s : State) (g : Group) : (s.setGroup g).pwrRuns = s.pwrRuns := rfl
@[simp] theorem State.setGroup_pwrNext (s : State) (g : Group) : (s.setGroup g).pwrNext = s.pwrNext := rfl
@[simp] theorem State.setGroup_inbound (s : State) (g : Group) : (s.setGroup g).inbound = s.inbound := rfl
@[simp] theorem State.setGroup_nextId (s : State) (g : Group) : (s.setGroup g).nextId = s.nextId := rfl
@[simp] theorem State.setGroup_cur (s : State) (g : Group) : (s.setGroup g).cur = s.cur := rfl
@[simp] theorem State.setGroup_agenda (s : State) (g : Group) : (s.setGroup g).agenda = s.agenda := rfl
@[simp] theorem State.setGroup_waiting (s : State) (g : Group) : (s.setGroup g).waiting = s.waiting := rfl
@[simp] theorem State.setGroup_tick (s : State) (g : Group) : (s.setGroup g).tick = s.tick := rfl

/-! ### setCrew -/

@[simp] theorem State.setCrew_mem (s : State) (c : Crew) : (s.setCrew c).mem = s.mem := rfl
@[simp] theorem State.setCrew_dir (s : State) (c : Crew) : (s.setCrew c).dir = s.dir := rfl
@[simp] theorem State.setCrew_dirClock (s : State) (c : Crew) : (s.setCrew c).dirClock = s.dirClock := rfl
@[simp] theorem State.setCrew_clusters (s : State) (c : Crew) : (s.setCrew c).clusters = s.clusters := rfl
@[simp] theorem State.setCrew_cores (s : State) (c : Crew) : (s.setCrew c).cores = s.cores := rfl
@[simp] theorem State.setCrew_tiles (s : State) (c : Crew) : (s.setCrew c).tiles = s.tiles := rfl
@[simp] theorem State.setCrew_dies (s : State) (c : Crew) : (s.setCrew c).dies = s.dies := rfl
@[simp] theorem State.setCrew_ctxs (s : State) (c : Crew) : (s.setCrew c).ctxs = s.ctxs := rfl
@[simp] theorem State.setCrew_shares (s : State) (c : Crew) : (s.setCrew c).shares = s.shares := rfl
@[simp] theorem State.setCrew_launches (s : State) (c : Crew) : (s.setCrew c).launches = s.launches := rfl
@[simp] theorem State.setCrew_groups (s : State) (c : Crew) : (s.setCrew c).groups = s.groups := rfl
@[simp] theorem State.setCrew_saved (s : State) (c : Crew) : (s.setCrew c).saved = s.saved := rfl
@[simp] theorem State.setCrew_versions (s : State) (c : Crew) : (s.setCrew c).versions = s.versions := rfl
@[simp] theorem State.setCrew_ops (s : State) (c : Crew) : (s.setCrew c).ops = s.ops := rfl
@[simp] theorem State.setCrew_copies (s : State) (c : Crew) : (s.setCrew c).copies = s.copies := rfl
@[simp] theorem State.setCrew_sreds (s : State) (c : Crew) : (s.setCrew c).sreds = s.sreds := rfl
@[simp] theorem State.setCrew_updates (s : State) (c : Crew) : (s.setCrew c).updates = s.updates := rfl
@[simp] theorem State.setCrew_poison (s : State) (c : Crew) : (s.setCrew c).poison = s.poison := rfl
@[simp] theorem State.setCrew_bar0 (s : State) (c : Crew) : (s.setCrew c).bar0 = s.bar0 := rfl
@[simp] theorem State.setCrew_aer (s : State) (c : Crew) : (s.setCrew c).aer = s.aer := rfl
@[simp] theorem State.setCrew_msix (s : State) (c : Crew) : (s.setCrew c).msix = s.msix := rfl
@[simp] theorem State.setCrew_hostRead (s : State) (c : Crew) : (s.setCrew c).hostRead = s.hostRead := rfl
@[simp] theorem State.setCrew_fabricRead (s : State) (c : Crew) : (s.setCrew c).fabricRead = s.fabricRead := rfl
@[simp] theorem State.setCrew_spdm (s : State) (c : Crew) : (s.setCrew c).spdm = s.spdm := rfl
@[simp] theorem State.setCrew_contained (s : State) (c : Crew) : (s.setCrew c).contained = s.contained := rfl
@[simp] theorem State.setCrew_tripped (s : State) (c : Crew) : (s.setCrew c).tripped = s.tripped := rfl
@[simp] theorem State.setCrew_acks (s : State) (c : Crew) : (s.setCrew c).acks = s.acks := rfl
@[simp] theorem State.setCrew_pwrRuns (s : State) (c : Crew) : (s.setCrew c).pwrRuns = s.pwrRuns := rfl
@[simp] theorem State.setCrew_pwrNext (s : State) (c : Crew) : (s.setCrew c).pwrNext = s.pwrNext := rfl
@[simp] theorem State.setCrew_inbound (s : State) (c : Crew) : (s.setCrew c).inbound = s.inbound := rfl
@[simp] theorem State.setCrew_nextId (s : State) (c : Crew) : (s.setCrew c).nextId = s.nextId := rfl
@[simp] theorem State.setCrew_cur (s : State) (c : Crew) : (s.setCrew c).cur = s.cur := rfl
@[simp] theorem State.setCrew_agenda (s : State) (c : Crew) : (s.setCrew c).agenda = s.agenda := rfl
@[simp] theorem State.setCrew_waiting (s : State) (c : Crew) : (s.setCrew c).waiting = s.waiting := rfl
@[simp] theorem State.setCrew_tick (s : State) (c : Crew) : (s.setCrew c).tick = s.tick := rfl

/-! ### setLaunch -/

@[simp] theorem State.setLaunch_mem (s : State) (l : Launch) : (s.setLaunch l).mem = s.mem := rfl
@[simp] theorem State.setLaunch_dir (s : State) (l : Launch) : (s.setLaunch l).dir = s.dir := rfl
@[simp] theorem State.setLaunch_dirClock (s : State) (l : Launch) : (s.setLaunch l).dirClock = s.dirClock := rfl
@[simp] theorem State.setLaunch_clusters (s : State) (l : Launch) : (s.setLaunch l).clusters = s.clusters := rfl
@[simp] theorem State.setLaunch_cores (s : State) (l : Launch) : (s.setLaunch l).cores = s.cores := rfl
@[simp] theorem State.setLaunch_tiles (s : State) (l : Launch) : (s.setLaunch l).tiles = s.tiles := rfl
@[simp] theorem State.setLaunch_dies (s : State) (l : Launch) : (s.setLaunch l).dies = s.dies := rfl
@[simp] theorem State.setLaunch_ctxs (s : State) (l : Launch) : (s.setLaunch l).ctxs = s.ctxs := rfl
@[simp] theorem State.setLaunch_shares (s : State) (l : Launch) : (s.setLaunch l).shares = s.shares := rfl
@[simp] theorem State.setLaunch_crews (s : State) (l : Launch) : (s.setLaunch l).crews = s.crews := rfl
@[simp] theorem State.setLaunch_groups (s : State) (l : Launch) : (s.setLaunch l).groups = s.groups := rfl
@[simp] theorem State.setLaunch_saved (s : State) (l : Launch) : (s.setLaunch l).saved = s.saved := rfl
@[simp] theorem State.setLaunch_versions (s : State) (l : Launch) : (s.setLaunch l).versions = s.versions := rfl
@[simp] theorem State.setLaunch_ops (s : State) (l : Launch) : (s.setLaunch l).ops = s.ops := rfl
@[simp] theorem State.setLaunch_copies (s : State) (l : Launch) : (s.setLaunch l).copies = s.copies := rfl
@[simp] theorem State.setLaunch_sreds (s : State) (l : Launch) : (s.setLaunch l).sreds = s.sreds := rfl
@[simp] theorem State.setLaunch_updates (s : State) (l : Launch) : (s.setLaunch l).updates = s.updates := rfl
@[simp] theorem State.setLaunch_poison (s : State) (l : Launch) : (s.setLaunch l).poison = s.poison := rfl
@[simp] theorem State.setLaunch_bar0 (s : State) (l : Launch) : (s.setLaunch l).bar0 = s.bar0 := rfl
@[simp] theorem State.setLaunch_aer (s : State) (l : Launch) : (s.setLaunch l).aer = s.aer := rfl
@[simp] theorem State.setLaunch_msix (s : State) (l : Launch) : (s.setLaunch l).msix = s.msix := rfl
@[simp] theorem State.setLaunch_hostRead (s : State) (l : Launch) : (s.setLaunch l).hostRead = s.hostRead := rfl
@[simp] theorem State.setLaunch_fabricRead (s : State) (l : Launch) : (s.setLaunch l).fabricRead = s.fabricRead := rfl
@[simp] theorem State.setLaunch_spdm (s : State) (l : Launch) : (s.setLaunch l).spdm = s.spdm := rfl
@[simp] theorem State.setLaunch_contained (s : State) (l : Launch) : (s.setLaunch l).contained = s.contained := rfl
@[simp] theorem State.setLaunch_tripped (s : State) (l : Launch) : (s.setLaunch l).tripped = s.tripped := rfl
@[simp] theorem State.setLaunch_acks (s : State) (l : Launch) : (s.setLaunch l).acks = s.acks := rfl
@[simp] theorem State.setLaunch_pwrRuns (s : State) (l : Launch) : (s.setLaunch l).pwrRuns = s.pwrRuns := rfl
@[simp] theorem State.setLaunch_pwrNext (s : State) (l : Launch) : (s.setLaunch l).pwrNext = s.pwrNext := rfl
@[simp] theorem State.setLaunch_inbound (s : State) (l : Launch) : (s.setLaunch l).inbound = s.inbound := rfl
@[simp] theorem State.setLaunch_nextId (s : State) (l : Launch) : (s.setLaunch l).nextId = s.nextId := rfl
@[simp] theorem State.setLaunch_cur (s : State) (l : Launch) : (s.setLaunch l).cur = s.cur := rfl
@[simp] theorem State.setLaunch_agenda (s : State) (l : Launch) : (s.setLaunch l).agenda = s.agenda := rfl
@[simp] theorem State.setLaunch_waiting (s : State) (l : Launch) : (s.setLaunch l).waiting = s.waiting := rfl
@[simp] theorem State.setLaunch_tick (s : State) (l : Launch) : (s.setLaunch l).tick = s.tick := rfl

/-! ### setOp -/

@[simp] theorem State.setOp_mem (s : State) (o : Op) : (s.setOp o).mem = s.mem := rfl
@[simp] theorem State.setOp_dir (s : State) (o : Op) : (s.setOp o).dir = s.dir := rfl
@[simp] theorem State.setOp_dirClock (s : State) (o : Op) : (s.setOp o).dirClock = s.dirClock := rfl
@[simp] theorem State.setOp_clusters (s : State) (o : Op) : (s.setOp o).clusters = s.clusters := rfl
@[simp] theorem State.setOp_cores (s : State) (o : Op) : (s.setOp o).cores = s.cores := rfl
@[simp] theorem State.setOp_tiles (s : State) (o : Op) : (s.setOp o).tiles = s.tiles := rfl
@[simp] theorem State.setOp_dies (s : State) (o : Op) : (s.setOp o).dies = s.dies := rfl
@[simp] theorem State.setOp_ctxs (s : State) (o : Op) : (s.setOp o).ctxs = s.ctxs := rfl
@[simp] theorem State.setOp_shares (s : State) (o : Op) : (s.setOp o).shares = s.shares := rfl
@[simp] theorem State.setOp_launches (s : State) (o : Op) : (s.setOp o).launches = s.launches := rfl
@[simp] theorem State.setOp_crews (s : State) (o : Op) : (s.setOp o).crews = s.crews := rfl
@[simp] theorem State.setOp_groups (s : State) (o : Op) : (s.setOp o).groups = s.groups := rfl
@[simp] theorem State.setOp_saved (s : State) (o : Op) : (s.setOp o).saved = s.saved := rfl
@[simp] theorem State.setOp_versions (s : State) (o : Op) : (s.setOp o).versions = s.versions := rfl
@[simp] theorem State.setOp_copies (s : State) (o : Op) : (s.setOp o).copies = s.copies := rfl
@[simp] theorem State.setOp_sreds (s : State) (o : Op) : (s.setOp o).sreds = s.sreds := rfl
@[simp] theorem State.setOp_updates (s : State) (o : Op) : (s.setOp o).updates = s.updates := rfl
@[simp] theorem State.setOp_poison (s : State) (o : Op) : (s.setOp o).poison = s.poison := rfl
@[simp] theorem State.setOp_bar0 (s : State) (o : Op) : (s.setOp o).bar0 = s.bar0 := rfl
@[simp] theorem State.setOp_aer (s : State) (o : Op) : (s.setOp o).aer = s.aer := rfl
@[simp] theorem State.setOp_msix (s : State) (o : Op) : (s.setOp o).msix = s.msix := rfl
@[simp] theorem State.setOp_hostRead (s : State) (o : Op) : (s.setOp o).hostRead = s.hostRead := rfl
@[simp] theorem State.setOp_fabricRead (s : State) (o : Op) : (s.setOp o).fabricRead = s.fabricRead := rfl
@[simp] theorem State.setOp_spdm (s : State) (o : Op) : (s.setOp o).spdm = s.spdm := rfl
@[simp] theorem State.setOp_contained (s : State) (o : Op) : (s.setOp o).contained = s.contained := rfl
@[simp] theorem State.setOp_tripped (s : State) (o : Op) : (s.setOp o).tripped = s.tripped := rfl
@[simp] theorem State.setOp_acks (s : State) (o : Op) : (s.setOp o).acks = s.acks := rfl
@[simp] theorem State.setOp_pwrRuns (s : State) (o : Op) : (s.setOp o).pwrRuns = s.pwrRuns := rfl
@[simp] theorem State.setOp_pwrNext (s : State) (o : Op) : (s.setOp o).pwrNext = s.pwrNext := rfl
@[simp] theorem State.setOp_inbound (s : State) (o : Op) : (s.setOp o).inbound = s.inbound := rfl
@[simp] theorem State.setOp_nextId (s : State) (o : Op) : (s.setOp o).nextId = s.nextId := rfl
@[simp] theorem State.setOp_cur (s : State) (o : Op) : (s.setOp o).cur = s.cur := rfl
@[simp] theorem State.setOp_agenda (s : State) (o : Op) : (s.setOp o).agenda = s.agenda := rfl
@[simp] theorem State.setOp_waiting (s : State) (o : Op) : (s.setOp o).waiting = s.waiting := rfl
@[simp] theorem State.setOp_tick (s : State) (o : Op) : (s.setOp o).tick = s.tick := rfl

/-! ### dropOp -/

@[simp] theorem State.dropOp_mem (s : State) (i : Nat) : (s.dropOp i).mem = s.mem := rfl
@[simp] theorem State.dropOp_dir (s : State) (i : Nat) : (s.dropOp i).dir = s.dir := rfl
@[simp] theorem State.dropOp_dirClock (s : State) (i : Nat) : (s.dropOp i).dirClock = s.dirClock := rfl
@[simp] theorem State.dropOp_clusters (s : State) (i : Nat) : (s.dropOp i).clusters = s.clusters := rfl
@[simp] theorem State.dropOp_cores (s : State) (i : Nat) : (s.dropOp i).cores = s.cores := rfl
@[simp] theorem State.dropOp_tiles (s : State) (i : Nat) : (s.dropOp i).tiles = s.tiles := rfl
@[simp] theorem State.dropOp_dies (s : State) (i : Nat) : (s.dropOp i).dies = s.dies := rfl
@[simp] theorem State.dropOp_ctxs (s : State) (i : Nat) : (s.dropOp i).ctxs = s.ctxs := rfl
@[simp] theorem State.dropOp_shares (s : State) (i : Nat) : (s.dropOp i).shares = s.shares := rfl
@[simp] theorem State.dropOp_launches (s : State) (i : Nat) : (s.dropOp i).launches = s.launches := rfl
@[simp] theorem State.dropOp_crews (s : State) (i : Nat) : (s.dropOp i).crews = s.crews := rfl
@[simp] theorem State.dropOp_groups (s : State) (i : Nat) : (s.dropOp i).groups = s.groups := rfl
@[simp] theorem State.dropOp_saved (s : State) (i : Nat) : (s.dropOp i).saved = s.saved := rfl
@[simp] theorem State.dropOp_versions (s : State) (i : Nat) : (s.dropOp i).versions = s.versions := rfl
@[simp] theorem State.dropOp_copies (s : State) (i : Nat) : (s.dropOp i).copies = s.copies := rfl
@[simp] theorem State.dropOp_sreds (s : State) (i : Nat) : (s.dropOp i).sreds = s.sreds := rfl
@[simp] theorem State.dropOp_updates (s : State) (i : Nat) : (s.dropOp i).updates = s.updates := rfl
@[simp] theorem State.dropOp_poison (s : State) (i : Nat) : (s.dropOp i).poison = s.poison := rfl
@[simp] theorem State.dropOp_bar0 (s : State) (i : Nat) : (s.dropOp i).bar0 = s.bar0 := rfl
@[simp] theorem State.dropOp_aer (s : State) (i : Nat) : (s.dropOp i).aer = s.aer := rfl
@[simp] theorem State.dropOp_msix (s : State) (i : Nat) : (s.dropOp i).msix = s.msix := rfl
@[simp] theorem State.dropOp_hostRead (s : State) (i : Nat) : (s.dropOp i).hostRead = s.hostRead := rfl
@[simp] theorem State.dropOp_fabricRead (s : State) (i : Nat) : (s.dropOp i).fabricRead = s.fabricRead := rfl
@[simp] theorem State.dropOp_spdm (s : State) (i : Nat) : (s.dropOp i).spdm = s.spdm := rfl
@[simp] theorem State.dropOp_contained (s : State) (i : Nat) : (s.dropOp i).contained = s.contained := rfl
@[simp] theorem State.dropOp_tripped (s : State) (i : Nat) : (s.dropOp i).tripped = s.tripped := rfl
@[simp] theorem State.dropOp_acks (s : State) (i : Nat) : (s.dropOp i).acks = s.acks := rfl
@[simp] theorem State.dropOp_pwrRuns (s : State) (i : Nat) : (s.dropOp i).pwrRuns = s.pwrRuns := rfl
@[simp] theorem State.dropOp_pwrNext (s : State) (i : Nat) : (s.dropOp i).pwrNext = s.pwrNext := rfl
@[simp] theorem State.dropOp_inbound (s : State) (i : Nat) : (s.dropOp i).inbound = s.inbound := rfl
@[simp] theorem State.dropOp_nextId (s : State) (i : Nat) : (s.dropOp i).nextId = s.nextId := rfl
@[simp] theorem State.dropOp_cur (s : State) (i : Nat) : (s.dropOp i).cur = s.cur := rfl
@[simp] theorem State.dropOp_agenda (s : State) (i : Nat) : (s.dropOp i).agenda = s.agenda := rfl
@[simp] theorem State.dropOp_waiting (s : State) (i : Nat) : (s.dropOp i).waiting = s.waiting := rfl
@[simp] theorem State.dropOp_tick (s : State) (i : Nat) : (s.dropOp i).tick = s.tick := rfl

/-! ### setCluster -/

@[simp] theorem State.setCluster_mem (s : State) (k : Nat) (v : Cluster) : (s.setCluster k v).mem = s.mem := rfl
@[simp] theorem State.setCluster_dir (s : State) (k : Nat) (v : Cluster) : (s.setCluster k v).dir = s.dir := rfl
@[simp] theorem State.setCluster_dirClock (s : State) (k : Nat) (v : Cluster) : (s.setCluster k v).dirClock = s.dirClock := rfl
@[simp] theorem State.setCluster_cores (s : State) (k : Nat) (v : Cluster) : (s.setCluster k v).cores = s.cores := rfl
@[simp] theorem State.setCluster_tiles (s : State) (k : Nat) (v : Cluster) : (s.setCluster k v).tiles = s.tiles := rfl
@[simp] theorem State.setCluster_dies (s : State) (k : Nat) (v : Cluster) : (s.setCluster k v).dies = s.dies := rfl
@[simp] theorem State.setCluster_ctxs (s : State) (k : Nat) (v : Cluster) : (s.setCluster k v).ctxs = s.ctxs := rfl
@[simp] theorem State.setCluster_shares (s : State) (k : Nat) (v : Cluster) : (s.setCluster k v).shares = s.shares := rfl
@[simp] theorem State.setCluster_launches (s : State) (k : Nat) (v : Cluster) : (s.setCluster k v).launches = s.launches := rfl
@[simp] theorem State.setCluster_crews (s : State) (k : Nat) (v : Cluster) : (s.setCluster k v).crews = s.crews := rfl
@[simp] theorem State.setCluster_groups (s : State) (k : Nat) (v : Cluster) : (s.setCluster k v).groups = s.groups := rfl
@[simp] theorem State.setCluster_saved (s : State) (k : Nat) (v : Cluster) : (s.setCluster k v).saved = s.saved := rfl
@[simp] theorem State.setCluster_versions (s : State) (k : Nat) (v : Cluster) : (s.setCluster k v).versions = s.versions := rfl
@[simp] theorem State.setCluster_ops (s : State) (k : Nat) (v : Cluster) : (s.setCluster k v).ops = s.ops := rfl
@[simp] theorem State.setCluster_copies (s : State) (k : Nat) (v : Cluster) : (s.setCluster k v).copies = s.copies := rfl
@[simp] theorem State.setCluster_sreds (s : State) (k : Nat) (v : Cluster) : (s.setCluster k v).sreds = s.sreds := rfl
@[simp] theorem State.setCluster_updates (s : State) (k : Nat) (v : Cluster) : (s.setCluster k v).updates = s.updates := rfl
@[simp] theorem State.setCluster_poison (s : State) (k : Nat) (v : Cluster) : (s.setCluster k v).poison = s.poison := rfl
@[simp] theorem State.setCluster_bar0 (s : State) (k : Nat) (v : Cluster) : (s.setCluster k v).bar0 = s.bar0 := rfl
@[simp] theorem State.setCluster_aer (s : State) (k : Nat) (v : Cluster) : (s.setCluster k v).aer = s.aer := rfl
@[simp] theorem State.setCluster_msix (s : State) (k : Nat) (v : Cluster) : (s.setCluster k v).msix = s.msix := rfl
@[simp] theorem State.setCluster_hostRead (s : State) (k : Nat) (v : Cluster) : (s.setCluster k v).hostRead = s.hostRead := rfl
@[simp] theorem State.setCluster_fabricRead (s : State) (k : Nat) (v : Cluster) : (s.setCluster k v).fabricRead = s.fabricRead := rfl
@[simp] theorem State.setCluster_spdm (s : State) (k : Nat) (v : Cluster) : (s.setCluster k v).spdm = s.spdm := rfl
@[simp] theorem State.setCluster_contained (s : State) (k : Nat) (v : Cluster) : (s.setCluster k v).contained = s.contained := rfl
@[simp] theorem State.setCluster_tripped (s : State) (k : Nat) (v : Cluster) : (s.setCluster k v).tripped = s.tripped := rfl
@[simp] theorem State.setCluster_acks (s : State) (k : Nat) (v : Cluster) : (s.setCluster k v).acks = s.acks := rfl
@[simp] theorem State.setCluster_pwrRuns (s : State) (k : Nat) (v : Cluster) : (s.setCluster k v).pwrRuns = s.pwrRuns := rfl
@[simp] theorem State.setCluster_pwrNext (s : State) (k : Nat) (v : Cluster) : (s.setCluster k v).pwrNext = s.pwrNext := rfl
@[simp] theorem State.setCluster_inbound (s : State) (k : Nat) (v : Cluster) : (s.setCluster k v).inbound = s.inbound := rfl
@[simp] theorem State.setCluster_nextId (s : State) (k : Nat) (v : Cluster) : (s.setCluster k v).nextId = s.nextId := rfl
@[simp] theorem State.setCluster_cur (s : State) (k : Nat) (v : Cluster) : (s.setCluster k v).cur = s.cur := rfl
@[simp] theorem State.setCluster_agenda (s : State) (k : Nat) (v : Cluster) : (s.setCluster k v).agenda = s.agenda := rfl
@[simp] theorem State.setCluster_waiting (s : State) (k : Nat) (v : Cluster) : (s.setCluster k v).waiting = s.waiting := rfl
@[simp] theorem State.setCluster_tick (s : State) (k : Nat) (v : Cluster) : (s.setCluster k v).tick = s.tick := rfl

/-! ### setCore -/

@[simp] theorem State.setCore_mem (s : State) (k : Nat) (v : Core) : (s.setCore k v).mem = s.mem := rfl
@[simp] theorem State.setCore_dir (s : State) (k : Nat) (v : Core) : (s.setCore k v).dir = s.dir := rfl
@[simp] theorem State.setCore_dirClock (s : State) (k : Nat) (v : Core) : (s.setCore k v).dirClock = s.dirClock := rfl
@[simp] theorem State.setCore_clusters (s : State) (k : Nat) (v : Core) : (s.setCore k v).clusters = s.clusters := rfl
@[simp] theorem State.setCore_tiles (s : State) (k : Nat) (v : Core) : (s.setCore k v).tiles = s.tiles := rfl
@[simp] theorem State.setCore_dies (s : State) (k : Nat) (v : Core) : (s.setCore k v).dies = s.dies := rfl
@[simp] theorem State.setCore_ctxs (s : State) (k : Nat) (v : Core) : (s.setCore k v).ctxs = s.ctxs := rfl
@[simp] theorem State.setCore_shares (s : State) (k : Nat) (v : Core) : (s.setCore k v).shares = s.shares := rfl
@[simp] theorem State.setCore_launches (s : State) (k : Nat) (v : Core) : (s.setCore k v).launches = s.launches := rfl
@[simp] theorem State.setCore_crews (s : State) (k : Nat) (v : Core) : (s.setCore k v).crews = s.crews := rfl
@[simp] theorem State.setCore_groups (s : State) (k : Nat) (v : Core) : (s.setCore k v).groups = s.groups := rfl
@[simp] theorem State.setCore_saved (s : State) (k : Nat) (v : Core) : (s.setCore k v).saved = s.saved := rfl
@[simp] theorem State.setCore_versions (s : State) (k : Nat) (v : Core) : (s.setCore k v).versions = s.versions := rfl
@[simp] theorem State.setCore_ops (s : State) (k : Nat) (v : Core) : (s.setCore k v).ops = s.ops := rfl
@[simp] theorem State.setCore_copies (s : State) (k : Nat) (v : Core) : (s.setCore k v).copies = s.copies := rfl
@[simp] theorem State.setCore_sreds (s : State) (k : Nat) (v : Core) : (s.setCore k v).sreds = s.sreds := rfl
@[simp] theorem State.setCore_updates (s : State) (k : Nat) (v : Core) : (s.setCore k v).updates = s.updates := rfl
@[simp] theorem State.setCore_poison (s : State) (k : Nat) (v : Core) : (s.setCore k v).poison = s.poison := rfl
@[simp] theorem State.setCore_bar0 (s : State) (k : Nat) (v : Core) : (s.setCore k v).bar0 = s.bar0 := rfl
@[simp] theorem State.setCore_aer (s : State) (k : Nat) (v : Core) : (s.setCore k v).aer = s.aer := rfl
@[simp] theorem State.setCore_msix (s : State) (k : Nat) (v : Core) : (s.setCore k v).msix = s.msix := rfl
@[simp] theorem State.setCore_hostRead (s : State) (k : Nat) (v : Core) : (s.setCore k v).hostRead = s.hostRead := rfl
@[simp] theorem State.setCore_fabricRead (s : State) (k : Nat) (v : Core) : (s.setCore k v).fabricRead = s.fabricRead := rfl
@[simp] theorem State.setCore_spdm (s : State) (k : Nat) (v : Core) : (s.setCore k v).spdm = s.spdm := rfl
@[simp] theorem State.setCore_contained (s : State) (k : Nat) (v : Core) : (s.setCore k v).contained = s.contained := rfl
@[simp] theorem State.setCore_tripped (s : State) (k : Nat) (v : Core) : (s.setCore k v).tripped = s.tripped := rfl
@[simp] theorem State.setCore_acks (s : State) (k : Nat) (v : Core) : (s.setCore k v).acks = s.acks := rfl
@[simp] theorem State.setCore_pwrRuns (s : State) (k : Nat) (v : Core) : (s.setCore k v).pwrRuns = s.pwrRuns := rfl
@[simp] theorem State.setCore_pwrNext (s : State) (k : Nat) (v : Core) : (s.setCore k v).pwrNext = s.pwrNext := rfl
@[simp] theorem State.setCore_inbound (s : State) (k : Nat) (v : Core) : (s.setCore k v).inbound = s.inbound := rfl
@[simp] theorem State.setCore_nextId (s : State) (k : Nat) (v : Core) : (s.setCore k v).nextId = s.nextId := rfl
@[simp] theorem State.setCore_cur (s : State) (k : Nat) (v : Core) : (s.setCore k v).cur = s.cur := rfl
@[simp] theorem State.setCore_agenda (s : State) (k : Nat) (v : Core) : (s.setCore k v).agenda = s.agenda := rfl
@[simp] theorem State.setCore_waiting (s : State) (k : Nat) (v : Core) : (s.setCore k v).waiting = s.waiting := rfl
@[simp] theorem State.setCore_tick (s : State) (k : Nat) (v : Core) : (s.setCore k v).tick = s.tick := rfl

/-! ### setTile -/

@[simp] theorem State.setTile_mem (s : State) (x : Nat) (v : Tile) : (s.setTile x v).mem = s.mem := rfl
@[simp] theorem State.setTile_dir (s : State) (x : Nat) (v : Tile) : (s.setTile x v).dir = s.dir := rfl
@[simp] theorem State.setTile_dirClock (s : State) (x : Nat) (v : Tile) : (s.setTile x v).dirClock = s.dirClock := rfl
@[simp] theorem State.setTile_clusters (s : State) (x : Nat) (v : Tile) : (s.setTile x v).clusters = s.clusters := rfl
@[simp] theorem State.setTile_cores (s : State) (x : Nat) (v : Tile) : (s.setTile x v).cores = s.cores := rfl
@[simp] theorem State.setTile_dies (s : State) (x : Nat) (v : Tile) : (s.setTile x v).dies = s.dies := rfl
@[simp] theorem State.setTile_ctxs (s : State) (x : Nat) (v : Tile) : (s.setTile x v).ctxs = s.ctxs := rfl
@[simp] theorem State.setTile_shares (s : State) (x : Nat) (v : Tile) : (s.setTile x v).shares = s.shares := rfl
@[simp] theorem State.setTile_launches (s : State) (x : Nat) (v : Tile) : (s.setTile x v).launches = s.launches := rfl
@[simp] theorem State.setTile_crews (s : State) (x : Nat) (v : Tile) : (s.setTile x v).crews = s.crews := rfl
@[simp] theorem State.setTile_groups (s : State) (x : Nat) (v : Tile) : (s.setTile x v).groups = s.groups := rfl
@[simp] theorem State.setTile_saved (s : State) (x : Nat) (v : Tile) : (s.setTile x v).saved = s.saved := rfl
@[simp] theorem State.setTile_versions (s : State) (x : Nat) (v : Tile) : (s.setTile x v).versions = s.versions := rfl
@[simp] theorem State.setTile_ops (s : State) (x : Nat) (v : Tile) : (s.setTile x v).ops = s.ops := rfl
@[simp] theorem State.setTile_copies (s : State) (x : Nat) (v : Tile) : (s.setTile x v).copies = s.copies := rfl
@[simp] theorem State.setTile_sreds (s : State) (x : Nat) (v : Tile) : (s.setTile x v).sreds = s.sreds := rfl
@[simp] theorem State.setTile_updates (s : State) (x : Nat) (v : Tile) : (s.setTile x v).updates = s.updates := rfl
@[simp] theorem State.setTile_poison (s : State) (x : Nat) (v : Tile) : (s.setTile x v).poison = s.poison := rfl
@[simp] theorem State.setTile_bar0 (s : State) (x : Nat) (v : Tile) : (s.setTile x v).bar0 = s.bar0 := rfl
@[simp] theorem State.setTile_aer (s : State) (x : Nat) (v : Tile) : (s.setTile x v).aer = s.aer := rfl
@[simp] theorem State.setTile_msix (s : State) (x : Nat) (v : Tile) : (s.setTile x v).msix = s.msix := rfl
@[simp] theorem State.setTile_hostRead (s : State) (x : Nat) (v : Tile) : (s.setTile x v).hostRead = s.hostRead := rfl
@[simp] theorem State.setTile_fabricRead (s : State) (x : Nat) (v : Tile) : (s.setTile x v).fabricRead = s.fabricRead := rfl
@[simp] theorem State.setTile_spdm (s : State) (x : Nat) (v : Tile) : (s.setTile x v).spdm = s.spdm := rfl
@[simp] theorem State.setTile_contained (s : State) (x : Nat) (v : Tile) : (s.setTile x v).contained = s.contained := rfl
@[simp] theorem State.setTile_tripped (s : State) (x : Nat) (v : Tile) : (s.setTile x v).tripped = s.tripped := rfl
@[simp] theorem State.setTile_acks (s : State) (x : Nat) (v : Tile) : (s.setTile x v).acks = s.acks := rfl
@[simp] theorem State.setTile_pwrRuns (s : State) (x : Nat) (v : Tile) : (s.setTile x v).pwrRuns = s.pwrRuns := rfl
@[simp] theorem State.setTile_pwrNext (s : State) (x : Nat) (v : Tile) : (s.setTile x v).pwrNext = s.pwrNext := rfl
@[simp] theorem State.setTile_inbound (s : State) (x : Nat) (v : Tile) : (s.setTile x v).inbound = s.inbound := rfl
@[simp] theorem State.setTile_nextId (s : State) (x : Nat) (v : Tile) : (s.setTile x v).nextId = s.nextId := rfl
@[simp] theorem State.setTile_cur (s : State) (x : Nat) (v : Tile) : (s.setTile x v).cur = s.cur := rfl
@[simp] theorem State.setTile_agenda (s : State) (x : Nat) (v : Tile) : (s.setTile x v).agenda = s.agenda := rfl
@[simp] theorem State.setTile_waiting (s : State) (x : Nat) (v : Tile) : (s.setTile x v).waiting = s.waiting := rfl
@[simp] theorem State.setTile_tick (s : State) (x : Nat) (v : Tile) : (s.setTile x v).tick = s.tick := rfl

/-! ### setCtx -/

@[simp] theorem State.setCtx_mem (s : State) (c : Nat) (v : Context) : (s.setCtx c v).mem = s.mem := rfl
@[simp] theorem State.setCtx_dir (s : State) (c : Nat) (v : Context) : (s.setCtx c v).dir = s.dir := rfl
@[simp] theorem State.setCtx_dirClock (s : State) (c : Nat) (v : Context) : (s.setCtx c v).dirClock = s.dirClock := rfl
@[simp] theorem State.setCtx_clusters (s : State) (c : Nat) (v : Context) : (s.setCtx c v).clusters = s.clusters := rfl
@[simp] theorem State.setCtx_cores (s : State) (c : Nat) (v : Context) : (s.setCtx c v).cores = s.cores := rfl
@[simp] theorem State.setCtx_tiles (s : State) (c : Nat) (v : Context) : (s.setCtx c v).tiles = s.tiles := rfl
@[simp] theorem State.setCtx_dies (s : State) (c : Nat) (v : Context) : (s.setCtx c v).dies = s.dies := rfl
@[simp] theorem State.setCtx_shares (s : State) (c : Nat) (v : Context) : (s.setCtx c v).shares = s.shares := rfl
@[simp] theorem State.setCtx_launches (s : State) (c : Nat) (v : Context) : (s.setCtx c v).launches = s.launches := rfl
@[simp] theorem State.setCtx_crews (s : State) (c : Nat) (v : Context) : (s.setCtx c v).crews = s.crews := rfl
@[simp] theorem State.setCtx_groups (s : State) (c : Nat) (v : Context) : (s.setCtx c v).groups = s.groups := rfl
@[simp] theorem State.setCtx_saved (s : State) (c : Nat) (v : Context) : (s.setCtx c v).saved = s.saved := rfl
@[simp] theorem State.setCtx_versions (s : State) (c : Nat) (v : Context) : (s.setCtx c v).versions = s.versions := rfl
@[simp] theorem State.setCtx_ops (s : State) (c : Nat) (v : Context) : (s.setCtx c v).ops = s.ops := rfl
@[simp] theorem State.setCtx_copies (s : State) (c : Nat) (v : Context) : (s.setCtx c v).copies = s.copies := rfl
@[simp] theorem State.setCtx_sreds (s : State) (c : Nat) (v : Context) : (s.setCtx c v).sreds = s.sreds := rfl
@[simp] theorem State.setCtx_updates (s : State) (c : Nat) (v : Context) : (s.setCtx c v).updates = s.updates := rfl
@[simp] theorem State.setCtx_poison (s : State) (c : Nat) (v : Context) : (s.setCtx c v).poison = s.poison := rfl
@[simp] theorem State.setCtx_bar0 (s : State) (c : Nat) (v : Context) : (s.setCtx c v).bar0 = s.bar0 := rfl
@[simp] theorem State.setCtx_aer (s : State) (c : Nat) (v : Context) : (s.setCtx c v).aer = s.aer := rfl
@[simp] theorem State.setCtx_msix (s : State) (c : Nat) (v : Context) : (s.setCtx c v).msix = s.msix := rfl
@[simp] theorem State.setCtx_hostRead (s : State) (c : Nat) (v : Context) : (s.setCtx c v).hostRead = s.hostRead := rfl
@[simp] theorem State.setCtx_fabricRead (s : State) (c : Nat) (v : Context) : (s.setCtx c v).fabricRead = s.fabricRead := rfl
@[simp] theorem State.setCtx_spdm (s : State) (c : Nat) (v : Context) : (s.setCtx c v).spdm = s.spdm := rfl
@[simp] theorem State.setCtx_contained (s : State) (c : Nat) (v : Context) : (s.setCtx c v).contained = s.contained := rfl
@[simp] theorem State.setCtx_tripped (s : State) (c : Nat) (v : Context) : (s.setCtx c v).tripped = s.tripped := rfl
@[simp] theorem State.setCtx_acks (s : State) (c : Nat) (v : Context) : (s.setCtx c v).acks = s.acks := rfl
@[simp] theorem State.setCtx_pwrRuns (s : State) (c : Nat) (v : Context) : (s.setCtx c v).pwrRuns = s.pwrRuns := rfl
@[simp] theorem State.setCtx_pwrNext (s : State) (c : Nat) (v : Context) : (s.setCtx c v).pwrNext = s.pwrNext := rfl
@[simp] theorem State.setCtx_inbound (s : State) (c : Nat) (v : Context) : (s.setCtx c v).inbound = s.inbound := rfl
@[simp] theorem State.setCtx_nextId (s : State) (c : Nat) (v : Context) : (s.setCtx c v).nextId = s.nextId := rfl
@[simp] theorem State.setCtx_cur (s : State) (c : Nat) (v : Context) : (s.setCtx c v).cur = s.cur := rfl
@[simp] theorem State.setCtx_agenda (s : State) (c : Nat) (v : Context) : (s.setCtx c v).agenda = s.agenda := rfl
@[simp] theorem State.setCtx_waiting (s : State) (c : Nat) (v : Context) : (s.setCtx c v).waiting = s.waiting := rfl
@[simp] theorem State.setCtx_tick (s : State) (c : Nat) (v : Context) : (s.setCtx c v).tick = s.tick := rfl

/-! ### setDie -/

@[simp] theorem State.setDie_mem (s : State) (d : Nat) (v : Die) : (s.setDie d v).mem = s.mem := rfl
@[simp] theorem State.setDie_dir (s : State) (d : Nat) (v : Die) : (s.setDie d v).dir = s.dir := rfl
@[simp] theorem State.setDie_dirClock (s : State) (d : Nat) (v : Die) : (s.setDie d v).dirClock = s.dirClock := rfl
@[simp] theorem State.setDie_clusters (s : State) (d : Nat) (v : Die) : (s.setDie d v).clusters = s.clusters := rfl
@[simp] theorem State.setDie_cores (s : State) (d : Nat) (v : Die) : (s.setDie d v).cores = s.cores := rfl
@[simp] theorem State.setDie_tiles (s : State) (d : Nat) (v : Die) : (s.setDie d v).tiles = s.tiles := rfl
@[simp] theorem State.setDie_ctxs (s : State) (d : Nat) (v : Die) : (s.setDie d v).ctxs = s.ctxs := rfl
@[simp] theorem State.setDie_shares (s : State) (d : Nat) (v : Die) : (s.setDie d v).shares = s.shares := rfl
@[simp] theorem State.setDie_launches (s : State) (d : Nat) (v : Die) : (s.setDie d v).launches = s.launches := rfl
@[simp] theorem State.setDie_crews (s : State) (d : Nat) (v : Die) : (s.setDie d v).crews = s.crews := rfl
@[simp] theorem State.setDie_groups (s : State) (d : Nat) (v : Die) : (s.setDie d v).groups = s.groups := rfl
@[simp] theorem State.setDie_saved (s : State) (d : Nat) (v : Die) : (s.setDie d v).saved = s.saved := rfl
@[simp] theorem State.setDie_versions (s : State) (d : Nat) (v : Die) : (s.setDie d v).versions = s.versions := rfl
@[simp] theorem State.setDie_ops (s : State) (d : Nat) (v : Die) : (s.setDie d v).ops = s.ops := rfl
@[simp] theorem State.setDie_copies (s : State) (d : Nat) (v : Die) : (s.setDie d v).copies = s.copies := rfl
@[simp] theorem State.setDie_sreds (s : State) (d : Nat) (v : Die) : (s.setDie d v).sreds = s.sreds := rfl
@[simp] theorem State.setDie_updates (s : State) (d : Nat) (v : Die) : (s.setDie d v).updates = s.updates := rfl
@[simp] theorem State.setDie_poison (s : State) (d : Nat) (v : Die) : (s.setDie d v).poison = s.poison := rfl
@[simp] theorem State.setDie_bar0 (s : State) (d : Nat) (v : Die) : (s.setDie d v).bar0 = s.bar0 := rfl
@[simp] theorem State.setDie_aer (s : State) (d : Nat) (v : Die) : (s.setDie d v).aer = s.aer := rfl
@[simp] theorem State.setDie_msix (s : State) (d : Nat) (v : Die) : (s.setDie d v).msix = s.msix := rfl
@[simp] theorem State.setDie_hostRead (s : State) (d : Nat) (v : Die) : (s.setDie d v).hostRead = s.hostRead := rfl
@[simp] theorem State.setDie_fabricRead (s : State) (d : Nat) (v : Die) : (s.setDie d v).fabricRead = s.fabricRead := rfl
@[simp] theorem State.setDie_spdm (s : State) (d : Nat) (v : Die) : (s.setDie d v).spdm = s.spdm := rfl
@[simp] theorem State.setDie_contained (s : State) (d : Nat) (v : Die) : (s.setDie d v).contained = s.contained := rfl
@[simp] theorem State.setDie_tripped (s : State) (d : Nat) (v : Die) : (s.setDie d v).tripped = s.tripped := rfl
@[simp] theorem State.setDie_acks (s : State) (d : Nat) (v : Die) : (s.setDie d v).acks = s.acks := rfl
@[simp] theorem State.setDie_pwrRuns (s : State) (d : Nat) (v : Die) : (s.setDie d v).pwrRuns = s.pwrRuns := rfl
@[simp] theorem State.setDie_pwrNext (s : State) (d : Nat) (v : Die) : (s.setDie d v).pwrNext = s.pwrNext := rfl
@[simp] theorem State.setDie_inbound (s : State) (d : Nat) (v : Die) : (s.setDie d v).inbound = s.inbound := rfl
@[simp] theorem State.setDie_nextId (s : State) (d : Nat) (v : Die) : (s.setDie d v).nextId = s.nextId := rfl
@[simp] theorem State.setDie_cur (s : State) (d : Nat) (v : Die) : (s.setDie d v).cur = s.cur := rfl
@[simp] theorem State.setDie_agenda (s : State) (d : Nat) (v : Die) : (s.setDie d v).agenda = s.agenda := rfl
@[simp] theorem State.setDie_waiting (s : State) (d : Nat) (v : Die) : (s.setDie d v).waiting = s.waiting := rfl
@[simp] theorem State.setDie_tick (s : State) (d : Nat) (v : Die) : (s.setDie d v).tick = s.tick := rfl

/-! ### setShare -/

@[simp] theorem State.setShare_mem (s : State) (c k : Nat) (v : Share) : (s.setShare c k v).mem = s.mem := rfl
@[simp] theorem State.setShare_dir (s : State) (c k : Nat) (v : Share) : (s.setShare c k v).dir = s.dir := rfl
@[simp] theorem State.setShare_dirClock (s : State) (c k : Nat) (v : Share) : (s.setShare c k v).dirClock = s.dirClock := rfl
@[simp] theorem State.setShare_clusters (s : State) (c k : Nat) (v : Share) : (s.setShare c k v).clusters = s.clusters := rfl
@[simp] theorem State.setShare_cores (s : State) (c k : Nat) (v : Share) : (s.setShare c k v).cores = s.cores := rfl
@[simp] theorem State.setShare_tiles (s : State) (c k : Nat) (v : Share) : (s.setShare c k v).tiles = s.tiles := rfl
@[simp] theorem State.setShare_dies (s : State) (c k : Nat) (v : Share) : (s.setShare c k v).dies = s.dies := rfl
@[simp] theorem State.setShare_ctxs (s : State) (c k : Nat) (v : Share) : (s.setShare c k v).ctxs = s.ctxs := rfl
@[simp] theorem State.setShare_launches (s : State) (c k : Nat) (v : Share) : (s.setShare c k v).launches = s.launches := rfl
@[simp] theorem State.setShare_crews (s : State) (c k : Nat) (v : Share) : (s.setShare c k v).crews = s.crews := rfl
@[simp] theorem State.setShare_groups (s : State) (c k : Nat) (v : Share) : (s.setShare c k v).groups = s.groups := rfl
@[simp] theorem State.setShare_saved (s : State) (c k : Nat) (v : Share) : (s.setShare c k v).saved = s.saved := rfl
@[simp] theorem State.setShare_versions (s : State) (c k : Nat) (v : Share) : (s.setShare c k v).versions = s.versions := rfl
@[simp] theorem State.setShare_ops (s : State) (c k : Nat) (v : Share) : (s.setShare c k v).ops = s.ops := rfl
@[simp] theorem State.setShare_copies (s : State) (c k : Nat) (v : Share) : (s.setShare c k v).copies = s.copies := rfl
@[simp] theorem State.setShare_sreds (s : State) (c k : Nat) (v : Share) : (s.setShare c k v).sreds = s.sreds := rfl
@[simp] theorem State.setShare_updates (s : State) (c k : Nat) (v : Share) : (s.setShare c k v).updates = s.updates := rfl
@[simp] theorem State.setShare_poison (s : State) (c k : Nat) (v : Share) : (s.setShare c k v).poison = s.poison := rfl
@[simp] theorem State.setShare_bar0 (s : State) (c k : Nat) (v : Share) : (s.setShare c k v).bar0 = s.bar0 := rfl
@[simp] theorem State.setShare_aer (s : State) (c k : Nat) (v : Share) : (s.setShare c k v).aer = s.aer := rfl
@[simp] theorem State.setShare_msix (s : State) (c k : Nat) (v : Share) : (s.setShare c k v).msix = s.msix := rfl
@[simp] theorem State.setShare_hostRead (s : State) (c k : Nat) (v : Share) : (s.setShare c k v).hostRead = s.hostRead := rfl
@[simp] theorem State.setShare_fabricRead (s : State) (c k : Nat) (v : Share) : (s.setShare c k v).fabricRead = s.fabricRead := rfl
@[simp] theorem State.setShare_spdm (s : State) (c k : Nat) (v : Share) : (s.setShare c k v).spdm = s.spdm := rfl
@[simp] theorem State.setShare_contained (s : State) (c k : Nat) (v : Share) : (s.setShare c k v).contained = s.contained := rfl
@[simp] theorem State.setShare_tripped (s : State) (c k : Nat) (v : Share) : (s.setShare c k v).tripped = s.tripped := rfl
@[simp] theorem State.setShare_acks (s : State) (c k : Nat) (v : Share) : (s.setShare c k v).acks = s.acks := rfl
@[simp] theorem State.setShare_pwrRuns (s : State) (c k : Nat) (v : Share) : (s.setShare c k v).pwrRuns = s.pwrRuns := rfl
@[simp] theorem State.setShare_pwrNext (s : State) (c k : Nat) (v : Share) : (s.setShare c k v).pwrNext = s.pwrNext := rfl
@[simp] theorem State.setShare_inbound (s : State) (c k : Nat) (v : Share) : (s.setShare c k v).inbound = s.inbound := rfl
@[simp] theorem State.setShare_nextId (s : State) (c k : Nat) (v : Share) : (s.setShare c k v).nextId = s.nextId := rfl
@[simp] theorem State.setShare_cur (s : State) (c k : Nat) (v : Share) : (s.setShare c k v).cur = s.cur := rfl
@[simp] theorem State.setShare_agenda (s : State) (c k : Nat) (v : Share) : (s.setShare c k v).agenda = s.agenda := rfl
@[simp] theorem State.setShare_waiting (s : State) (c k : Nat) (v : Share) : (s.setShare c k v).waiting = s.waiting := rfl
@[simp] theorem State.setShare_tick (s : State) (c k : Nat) (v : Share) : (s.setShare c k v).tick = s.tick := rfl

/-! ### setDir -/

@[simp] theorem State.setDir_mem (s : State) (l : Nat) (e : DirEntry) : (s.setDir l e).mem = s.mem := rfl
@[simp] theorem State.setDir_dirClock (s : State) (l : Nat) (e : DirEntry) : (s.setDir l e).dirClock = s.dirClock := rfl
@[simp] theorem State.setDir_clusters (s : State) (l : Nat) (e : DirEntry) : (s.setDir l e).clusters = s.clusters := rfl
@[simp] theorem State.setDir_cores (s : State) (l : Nat) (e : DirEntry) : (s.setDir l e).cores = s.cores := rfl
@[simp] theorem State.setDir_tiles (s : State) (l : Nat) (e : DirEntry) : (s.setDir l e).tiles = s.tiles := rfl
@[simp] theorem State.setDir_dies (s : State) (l : Nat) (e : DirEntry) : (s.setDir l e).dies = s.dies := rfl
@[simp] theorem State.setDir_ctxs (s : State) (l : Nat) (e : DirEntry) : (s.setDir l e).ctxs = s.ctxs := rfl
@[simp] theorem State.setDir_shares (s : State) (l : Nat) (e : DirEntry) : (s.setDir l e).shares = s.shares := rfl
@[simp] theorem State.setDir_launches (s : State) (l : Nat) (e : DirEntry) : (s.setDir l e).launches = s.launches := rfl
@[simp] theorem State.setDir_crews (s : State) (l : Nat) (e : DirEntry) : (s.setDir l e).crews = s.crews := rfl
@[simp] theorem State.setDir_groups (s : State) (l : Nat) (e : DirEntry) : (s.setDir l e).groups = s.groups := rfl
@[simp] theorem State.setDir_saved (s : State) (l : Nat) (e : DirEntry) : (s.setDir l e).saved = s.saved := rfl
@[simp] theorem State.setDir_versions (s : State) (l : Nat) (e : DirEntry) : (s.setDir l e).versions = s.versions := rfl
@[simp] theorem State.setDir_ops (s : State) (l : Nat) (e : DirEntry) : (s.setDir l e).ops = s.ops := rfl
@[simp] theorem State.setDir_copies (s : State) (l : Nat) (e : DirEntry) : (s.setDir l e).copies = s.copies := rfl
@[simp] theorem State.setDir_sreds (s : State) (l : Nat) (e : DirEntry) : (s.setDir l e).sreds = s.sreds := rfl
@[simp] theorem State.setDir_updates (s : State) (l : Nat) (e : DirEntry) : (s.setDir l e).updates = s.updates := rfl
@[simp] theorem State.setDir_poison (s : State) (l : Nat) (e : DirEntry) : (s.setDir l e).poison = s.poison := rfl
@[simp] theorem State.setDir_bar0 (s : State) (l : Nat) (e : DirEntry) : (s.setDir l e).bar0 = s.bar0 := rfl
@[simp] theorem State.setDir_aer (s : State) (l : Nat) (e : DirEntry) : (s.setDir l e).aer = s.aer := rfl
@[simp] theorem State.setDir_msix (s : State) (l : Nat) (e : DirEntry) : (s.setDir l e).msix = s.msix := rfl
@[simp] theorem State.setDir_hostRead (s : State) (l : Nat) (e : DirEntry) : (s.setDir l e).hostRead = s.hostRead := rfl
@[simp] theorem State.setDir_fabricRead (s : State) (l : Nat) (e : DirEntry) : (s.setDir l e).fabricRead = s.fabricRead := rfl
@[simp] theorem State.setDir_spdm (s : State) (l : Nat) (e : DirEntry) : (s.setDir l e).spdm = s.spdm := rfl
@[simp] theorem State.setDir_contained (s : State) (l : Nat) (e : DirEntry) : (s.setDir l e).contained = s.contained := rfl
@[simp] theorem State.setDir_tripped (s : State) (l : Nat) (e : DirEntry) : (s.setDir l e).tripped = s.tripped := rfl
@[simp] theorem State.setDir_acks (s : State) (l : Nat) (e : DirEntry) : (s.setDir l e).acks = s.acks := rfl
@[simp] theorem State.setDir_pwrRuns (s : State) (l : Nat) (e : DirEntry) : (s.setDir l e).pwrRuns = s.pwrRuns := rfl
@[simp] theorem State.setDir_pwrNext (s : State) (l : Nat) (e : DirEntry) : (s.setDir l e).pwrNext = s.pwrNext := rfl
@[simp] theorem State.setDir_inbound (s : State) (l : Nat) (e : DirEntry) : (s.setDir l e).inbound = s.inbound := rfl
@[simp] theorem State.setDir_nextId (s : State) (l : Nat) (e : DirEntry) : (s.setDir l e).nextId = s.nextId := rfl
@[simp] theorem State.setDir_cur (s : State) (l : Nat) (e : DirEntry) : (s.setDir l e).cur = s.cur := rfl
@[simp] theorem State.setDir_agenda (s : State) (l : Nat) (e : DirEntry) : (s.setDir l e).agenda = s.agenda := rfl
@[simp] theorem State.setDir_waiting (s : State) (l : Nat) (e : DirEntry) : (s.setDir l e).waiting = s.waiting := rfl
@[simp] theorem State.setDir_tick (s : State) (l : Nat) (e : DirEntry) : (s.setDir l e).tick = s.tick := rfl

/-! ### setVersion -/

@[simp] theorem State.setVersion_mem (s : State) (v : Version) : (s.setVersion v).mem = s.mem := rfl
@[simp] theorem State.setVersion_dir (s : State) (v : Version) : (s.setVersion v).dir = s.dir := rfl
@[simp] theorem State.setVersion_dirClock (s : State) (v : Version) : (s.setVersion v).dirClock = s.dirClock := rfl
@[simp] theorem State.setVersion_clusters (s : State) (v : Version) : (s.setVersion v).clusters = s.clusters := rfl
@[simp] theorem State.setVersion_cores (s : State) (v : Version) : (s.setVersion v).cores = s.cores := rfl
@[simp] theorem State.setVersion_tiles (s : State) (v : Version) : (s.setVersion v).tiles = s.tiles := rfl
@[simp] theorem State.setVersion_dies (s : State) (v : Version) : (s.setVersion v).dies = s.dies := rfl
@[simp] theorem State.setVersion_ctxs (s : State) (v : Version) : (s.setVersion v).ctxs = s.ctxs := rfl
@[simp] theorem State.setVersion_shares (s : State) (v : Version) : (s.setVersion v).shares = s.shares := rfl
@[simp] theorem State.setVersion_launches (s : State) (v : Version) : (s.setVersion v).launches = s.launches := rfl
@[simp] theorem State.setVersion_crews (s : State) (v : Version) : (s.setVersion v).crews = s.crews := rfl
@[simp] theorem State.setVersion_groups (s : State) (v : Version) : (s.setVersion v).groups = s.groups := rfl
@[simp] theorem State.setVersion_saved (s : State) (v : Version) : (s.setVersion v).saved = s.saved := rfl
@[simp] theorem State.setVersion_ops (s : State) (v : Version) : (s.setVersion v).ops = s.ops := rfl
@[simp] theorem State.setVersion_copies (s : State) (v : Version) : (s.setVersion v).copies = s.copies := rfl
@[simp] theorem State.setVersion_sreds (s : State) (v : Version) : (s.setVersion v).sreds = s.sreds := rfl
@[simp] theorem State.setVersion_updates (s : State) (v : Version) : (s.setVersion v).updates = s.updates := rfl
@[simp] theorem State.setVersion_poison (s : State) (v : Version) : (s.setVersion v).poison = s.poison := rfl
@[simp] theorem State.setVersion_bar0 (s : State) (v : Version) : (s.setVersion v).bar0 = s.bar0 := rfl
@[simp] theorem State.setVersion_aer (s : State) (v : Version) : (s.setVersion v).aer = s.aer := rfl
@[simp] theorem State.setVersion_msix (s : State) (v : Version) : (s.setVersion v).msix = s.msix := rfl
@[simp] theorem State.setVersion_hostRead (s : State) (v : Version) : (s.setVersion v).hostRead = s.hostRead := rfl
@[simp] theorem State.setVersion_fabricRead (s : State) (v : Version) : (s.setVersion v).fabricRead = s.fabricRead := rfl
@[simp] theorem State.setVersion_spdm (s : State) (v : Version) : (s.setVersion v).spdm = s.spdm := rfl
@[simp] theorem State.setVersion_contained (s : State) (v : Version) : (s.setVersion v).contained = s.contained := rfl
@[simp] theorem State.setVersion_tripped (s : State) (v : Version) : (s.setVersion v).tripped = s.tripped := rfl
@[simp] theorem State.setVersion_acks (s : State) (v : Version) : (s.setVersion v).acks = s.acks := rfl
@[simp] theorem State.setVersion_pwrRuns (s : State) (v : Version) : (s.setVersion v).pwrRuns = s.pwrRuns := rfl
@[simp] theorem State.setVersion_pwrNext (s : State) (v : Version) : (s.setVersion v).pwrNext = s.pwrNext := rfl
@[simp] theorem State.setVersion_inbound (s : State) (v : Version) : (s.setVersion v).inbound = s.inbound := rfl
@[simp] theorem State.setVersion_nextId (s : State) (v : Version) : (s.setVersion v).nextId = s.nextId := rfl
@[simp] theorem State.setVersion_cur (s : State) (v : Version) : (s.setVersion v).cur = s.cur := rfl
@[simp] theorem State.setVersion_agenda (s : State) (v : Version) : (s.setVersion v).agenda = s.agenda := rfl
@[simp] theorem State.setVersion_waiting (s : State) (v : Version) : (s.setVersion v).waiting = s.waiting := rfl
@[simp] theorem State.setVersion_tick (s : State) (v : Version) : (s.setVersion v).tick = s.tick := rfl

/-! ### wrB -/

@[simp] theorem State.wrB_dir (s : State) (pa : Nat) (b : Byte) : (s.wrB pa b).dir = s.dir := rfl
@[simp] theorem State.wrB_dirClock (s : State) (pa : Nat) (b : Byte) : (s.wrB pa b).dirClock = s.dirClock := rfl
@[simp] theorem State.wrB_clusters (s : State) (pa : Nat) (b : Byte) : (s.wrB pa b).clusters = s.clusters := rfl
@[simp] theorem State.wrB_cores (s : State) (pa : Nat) (b : Byte) : (s.wrB pa b).cores = s.cores := rfl
@[simp] theorem State.wrB_tiles (s : State) (pa : Nat) (b : Byte) : (s.wrB pa b).tiles = s.tiles := rfl
@[simp] theorem State.wrB_dies (s : State) (pa : Nat) (b : Byte) : (s.wrB pa b).dies = s.dies := rfl
@[simp] theorem State.wrB_ctxs (s : State) (pa : Nat) (b : Byte) : (s.wrB pa b).ctxs = s.ctxs := rfl
@[simp] theorem State.wrB_shares (s : State) (pa : Nat) (b : Byte) : (s.wrB pa b).shares = s.shares := rfl
@[simp] theorem State.wrB_launches (s : State) (pa : Nat) (b : Byte) : (s.wrB pa b).launches = s.launches := rfl
@[simp] theorem State.wrB_crews (s : State) (pa : Nat) (b : Byte) : (s.wrB pa b).crews = s.crews := rfl
@[simp] theorem State.wrB_groups (s : State) (pa : Nat) (b : Byte) : (s.wrB pa b).groups = s.groups := rfl
@[simp] theorem State.wrB_saved (s : State) (pa : Nat) (b : Byte) : (s.wrB pa b).saved = s.saved := rfl
@[simp] theorem State.wrB_versions (s : State) (pa : Nat) (b : Byte) : (s.wrB pa b).versions = s.versions := rfl
@[simp] theorem State.wrB_ops (s : State) (pa : Nat) (b : Byte) : (s.wrB pa b).ops = s.ops := rfl
@[simp] theorem State.wrB_copies (s : State) (pa : Nat) (b : Byte) : (s.wrB pa b).copies = s.copies := rfl
@[simp] theorem State.wrB_sreds (s : State) (pa : Nat) (b : Byte) : (s.wrB pa b).sreds = s.sreds := rfl
@[simp] theorem State.wrB_updates (s : State) (pa : Nat) (b : Byte) : (s.wrB pa b).updates = s.updates := rfl
@[simp] theorem State.wrB_poison (s : State) (pa : Nat) (b : Byte) : (s.wrB pa b).poison = s.poison := rfl
@[simp] theorem State.wrB_bar0 (s : State) (pa : Nat) (b : Byte) : (s.wrB pa b).bar0 = s.bar0 := rfl
@[simp] theorem State.wrB_aer (s : State) (pa : Nat) (b : Byte) : (s.wrB pa b).aer = s.aer := rfl
@[simp] theorem State.wrB_msix (s : State) (pa : Nat) (b : Byte) : (s.wrB pa b).msix = s.msix := rfl
@[simp] theorem State.wrB_hostRead (s : State) (pa : Nat) (b : Byte) : (s.wrB pa b).hostRead = s.hostRead := rfl
@[simp] theorem State.wrB_fabricRead (s : State) (pa : Nat) (b : Byte) : (s.wrB pa b).fabricRead = s.fabricRead := rfl
@[simp] theorem State.wrB_spdm (s : State) (pa : Nat) (b : Byte) : (s.wrB pa b).spdm = s.spdm := rfl
@[simp] theorem State.wrB_contained (s : State) (pa : Nat) (b : Byte) : (s.wrB pa b).contained = s.contained := rfl
@[simp] theorem State.wrB_tripped (s : State) (pa : Nat) (b : Byte) : (s.wrB pa b).tripped = s.tripped := rfl
@[simp] theorem State.wrB_acks (s : State) (pa : Nat) (b : Byte) : (s.wrB pa b).acks = s.acks := rfl
@[simp] theorem State.wrB_pwrRuns (s : State) (pa : Nat) (b : Byte) : (s.wrB pa b).pwrRuns = s.pwrRuns := rfl
@[simp] theorem State.wrB_pwrNext (s : State) (pa : Nat) (b : Byte) : (s.wrB pa b).pwrNext = s.pwrNext := rfl
@[simp] theorem State.wrB_inbound (s : State) (pa : Nat) (b : Byte) : (s.wrB pa b).inbound = s.inbound := rfl
@[simp] theorem State.wrB_nextId (s : State) (pa : Nat) (b : Byte) : (s.wrB pa b).nextId = s.nextId := rfl
@[simp] theorem State.wrB_cur (s : State) (pa : Nat) (b : Byte) : (s.wrB pa b).cur = s.cur := rfl
@[simp] theorem State.wrB_agenda (s : State) (pa : Nat) (b : Byte) : (s.wrB pa b).agenda = s.agenda := rfl
@[simp] theorem State.wrB_waiting (s : State) (pa : Nat) (b : Byte) : (s.wrB pa b).waiting = s.waiting := rfl
@[simp] theorem State.wrB_tick (s : State) (pa : Nat) (b : Byte) : (s.wrB pa b).tick = s.tick := rfl

/-! ### Reads after updates -/

theorem State.setCluster_cluster (s : State) (k : Nat) (v : Cluster) (j : Nat) :
    (s.setCluster k v).cluster j = if j = k then v else s.cluster j := by
  unfold State.setCluster State.cluster
  exact NMap.get_set _ _ _ _ _

theorem State.setCore_core (s : State) (k : Nat) (v : Core) (j : Nat) :
    (s.setCore k v).core j = if j = k then v else s.core j := by
  unfold State.setCore State.core
  exact NMap.get_set _ _ _ _ _

theorem State.setTile_tile (s : State) (x : Nat) (v : Tile) (j : Nat) :
    (s.setTile x v).tile j = if j = x then v else s.tile j := by
  unfold State.setTile State.tile
  exact NMap.get_set _ _ _ _ _

theorem State.setCtx_ctx (s : State) (c : Nat) (v : Context) (j : Nat) :
    (s.setCtx c v).ctx j = if j = c then v else s.ctx j := by
  unfold State.setCtx State.ctx
  exact NMap.get_set _ _ _ _ _

theorem State.setDir_dirAt (s : State) (l : Nat) (v : DirEntry) (j : Nat) :
    (s.setDir l v).dirAt j = if j = l then v else s.dirAt j := by
  unfold State.setDir State.dirAt
  exact NMap.get_set _ _ _ _ _

theorem State.wrB_rdB (s : State) (pa : Nat) (b : Byte) (a : Nat) :
    (s.wrB pa b).rdB a = if a = pa then b else s.rdB a := by
  unfold State.wrB State.rdB
  exact NMap.get_set _ _ _ _ _

theorem find_updWhere {α : Type} (key : α → Nat) (v : α) (n : Nat) :
    ∀ l : List α, (updWhere (fun x => key x == key v) (fun _ => v) l).find? (fun x => key x == n)
      = if n = key v then (l.find? fun x => key x == n).map fun _ => v else l.find? fun x => key x == n
  | [] => by simp [updWhere]
  | x :: l => by
    have ih := find_updWhere key v n l
    have hb : updWhere (fun x => key x == key v) (fun _ => v) (x :: l)
        = (if key x == key v then v else x) :: updWhere (fun x => key x == key v) (fun _ => v) l := rfl
    rw [hb, List.find?_cons, List.find?_cons]
    by_cases hx : key x = key v
    · have hx' : (key x == key v) = true := by simp [hx]
      rw [if_pos hx']
      by_cases hn : n = key v
      · subst hn
        simp [hx]
      · have h1 : (key v == n) = false := by simp [Ne.symm hn]
        have h2 : (key x == n) = false := by simp [hx, Ne.symm hn]
        simp [h1, h2, ih]
    · have hx' : ¬ (key x == key v) = true := by simp [hx]
      rw [if_neg hx']
      by_cases hn : key x = n
      · subst hn
        simp [hx]
      · have h2 : (key x == n) = false := by simp [hn]
        rw [h2, ih]

theorem State.setGroup_group (s : State) (g : Group) (n : Nat) :
    (s.setGroup g).group? n = if n = g.gid then (s.group? n).map fun _ => g else s.group? n :=
  find_updWhere (fun y : Group => y.gid) g n s.groups

theorem State.setCrew_crew (s : State) (c : Crew) (n : Nat) :
    (s.setCrew c).crew? n = if n = c.cid then (s.crew? n).map fun _ => c else s.crew? n :=
  find_updWhere (fun y : Crew => y.cid) c n s.crews

theorem State.setLaunch_launch (s : State) (l : Launch) (n : Nat) :
    (s.setLaunch l).launch? n = if n = l.lid then (s.launch? n).map fun _ => l else s.launch? n :=
  find_updWhere (fun y : Launch => y.lid) l n s.launches

theorem State.setOp_op (s : State) (o : Op) (n : Nat) :
    (s.setOp o).op? n = if n = o.id then (s.op? n).map fun _ => o else s.op? n :=
  find_updWhere (fun y : Op => y.id) o n s.ops

theorem State.setVersion_version (s : State) (v : Version) (n : Nat) :
    (s.setVersion v).version? n = if n = v.cid then (s.version? n).map fun _ => v else s.version? n :=
  find_updWhere (fun y : Version => y.cid) v n s.versions

theorem Group.setSplit_split (g : Group) (p : Split) (n : Nat) :
    (g.setSplit p).split? n = if n = p.num then (g.split? n).map fun _ => p else g.split? n :=
  find_updWhere (fun q : Split => q.num) p n g.splits

@[simp] theorem Group.setSplit_gid (g : Group) (p : Split) : (g.setSplit p).gid = g.gid := rfl
@[simp] theorem Group.setSplit_cid (g : Group) (p : Split) : (g.setSplit p).cid = g.cid := rfl
@[simp] theorem Group.setSplit_gidx (g : Group) (p : Split) : (g.setSplit p).gidx = g.gidx := rfl
@[simp] theorem Group.setSplit_core (g : Group) (p : Split) : (g.setSplit p).core = g.core := rfl
@[simp] theorem Group.setSplit_prio (g : Group) (p : Split) : (g.setSplit p).prio = g.prio := rfl
@[simp] theorem Group.setSplit_age (g : Group) (p : Split) : (g.setSplit p).age = g.age := rfl
@[simp] theorem Group.setSplit_count (g : Group) (p : Split) : (g.setSplit p).count = g.count := rfl
@[simp] theorem Group.setSplit_v (g : Group) (p : Split) : (g.setSplit p).v = g.v := rfl
@[simp] theorem Group.setSplit_sr (g : Group) (p : Split) : (g.setSplit p).sr = g.sr := rfl
@[simp] theorem Group.setSplit_soft0 (g : Group) (p : Split) : (g.setSplit p).soft0 = g.soft0 := rfl
@[simp] theorem Group.setSplit_hstat (g : Group) (p : Split) : (g.setSplit p).hstat = g.hstat := rfl
@[simp] theorem Group.setSplit_claim (g : Group) (p : Split) : (g.setSplit p).claim = g.claim := rfl
@[simp] theorem Group.setSplit_gbarScope (g : Group) (p : Split) : (g.setSplit p).gbarScope = g.gbarScope := rfl
@[simp] theorem Group.setSplit_lastExit (g : Group) (p : Split) : (g.setSplit p).lastExit = g.lastExit := rfl
@[simp] theorem Group.setSplit_retired (g : Group) (p : Split) : (g.setSplit p).retired = g.retired := rfl
@[simp] theorem Group.setSplit_revived (g : Group) (p : Split) : (g.setSplit p).revived = g.revived := rfl
@[simp] theorem Group.setSplit_parked (g : Group) (p : Split) : (g.setSplit p).parked = g.parked := rfl
@[simp] theorem Group.setSplit_endReq (g : Group) (p : Split) : (g.setSplit p).endReq = g.endReq := rfl
@[simp] theorem Group.setSplit_stopReq (g : Group) (p : Split) : (g.setSplit p).stopReq = g.stopReq := rfl
@[simp] theorem Group.setSplit_stopped (g : Group) (p : Split) : (g.setSplit p).stopped = g.stopped := rfl
@[simp] theorem Group.setSplit_pinned (g : Group) (p : Split) : (g.setSplit p).pinned = g.pinned := rfl

@[simp] theorem State.setGroup_crew_same (s : State) (g : Group) (n : Nat) : (s.setGroup g).crew? n = s.crew? n := rfl
@[simp] theorem State.setGroup_launch_same (s : State) (g : Group) (n : Nat) : (s.setGroup g).launch? n = s.launch? n := rfl
@[simp] theorem State.setGroup_op_same (s : State) (g : Group) (n : Nat) : (s.setGroup g).op? n = s.op? n := rfl
@[simp] theorem State.setGroup_version_same (s : State) (g : Group) (n : Nat) : (s.setGroup g).version? n = s.version? n := rfl
@[simp] theorem State.setGroup_cluster_same (s : State) (g : Group) (n : Nat) : (s.setGroup g).cluster n = s.cluster n := rfl
@[simp] theorem State.setGroup_core_same (s : State) (g : Group) (n : Nat) : (s.setGroup g).core n = s.core n := rfl
@[simp] theorem State.setGroup_tile_same (s : State) (g : Group) (n : Nat) : (s.setGroup g).tile n = s.tile n := rfl
@[simp] theorem State.setGroup_ctx_same (s : State) (g : Group) (n : Nat) : (s.setGroup g).ctx n = s.ctx n := rfl
@[simp] theorem State.setGroup_die_same (s : State) (g : Group) (n : Nat) : (s.setGroup g).die n = s.die n := rfl
@[simp] theorem State.setGroup_dirAt_same (s : State) (g : Group) (n : Nat) : (s.setGroup g).dirAt n = s.dirAt n := rfl
@[simp] theorem State.setGroup_rdB_same (s : State) (g : Group) (n : Nat) : (s.setGroup g).rdB n = s.rdB n := rfl
@[simp] theorem State.setCrew_group_same (s : State) (c : Crew) (n : Nat) : (s.setCrew c).group? n = s.group? n := rfl
@[simp] theorem State.setCrew_launch_same (s : State) (c : Crew) (n : Nat) : (s.setCrew c).launch? n = s.launch? n := rfl
@[simp] theorem State.setCrew_op_same (s : State) (c : Crew) (n : Nat) : (s.setCrew c).op? n = s.op? n := rfl
@[simp] theorem State.setCrew_version_same (s : State) (c : Crew) (n : Nat) : (s.setCrew c).version? n = s.version? n := rfl
@[simp] theorem State.setCrew_cluster_same (s : State) (c : Crew) (n : Nat) : (s.setCrew c).cluster n = s.cluster n := rfl
@[simp] theorem State.setCrew_core_same (s : State) (c : Crew) (n : Nat) : (s.setCrew c).core n = s.core n := rfl
@[simp] theorem State.setCrew_tile_same (s : State) (c : Crew) (n : Nat) : (s.setCrew c).tile n = s.tile n := rfl
@[simp] theorem State.setCrew_ctx_same (s : State) (c : Crew) (n : Nat) : (s.setCrew c).ctx n = s.ctx n := rfl
@[simp] theorem State.setCrew_die_same (s : State) (c : Crew) (n : Nat) : (s.setCrew c).die n = s.die n := rfl
@[simp] theorem State.setCrew_dirAt_same (s : State) (c : Crew) (n : Nat) : (s.setCrew c).dirAt n = s.dirAt n := rfl
@[simp] theorem State.setCrew_rdB_same (s : State) (c : Crew) (n : Nat) : (s.setCrew c).rdB n = s.rdB n := rfl
@[simp] theorem State.setLaunch_group_same (s : State) (l : Launch) (n : Nat) : (s.setLaunch l).group? n = s.group? n := rfl
@[simp] theorem State.setLaunch_crew_same (s : State) (l : Launch) (n : Nat) : (s.setLaunch l).crew? n = s.crew? n := rfl
@[simp] theorem State.setLaunch_op_same (s : State) (l : Launch) (n : Nat) : (s.setLaunch l).op? n = s.op? n := rfl
@[simp] theorem State.setLaunch_version_same (s : State) (l : Launch) (n : Nat) : (s.setLaunch l).version? n = s.version? n := rfl
@[simp] theorem State.setLaunch_cluster_same (s : State) (l : Launch) (n : Nat) : (s.setLaunch l).cluster n = s.cluster n := rfl
@[simp] theorem State.setLaunch_core_same (s : State) (l : Launch) (n : Nat) : (s.setLaunch l).core n = s.core n := rfl
@[simp] theorem State.setLaunch_tile_same (s : State) (l : Launch) (n : Nat) : (s.setLaunch l).tile n = s.tile n := rfl
@[simp] theorem State.setLaunch_ctx_same (s : State) (l : Launch) (n : Nat) : (s.setLaunch l).ctx n = s.ctx n := rfl
@[simp] theorem State.setLaunch_die_same (s : State) (l : Launch) (n : Nat) : (s.setLaunch l).die n = s.die n := rfl
@[simp] theorem State.setLaunch_dirAt_same (s : State) (l : Launch) (n : Nat) : (s.setLaunch l).dirAt n = s.dirAt n := rfl
@[simp] theorem State.setLaunch_rdB_same (s : State) (l : Launch) (n : Nat) : (s.setLaunch l).rdB n = s.rdB n := rfl
@[simp] theorem State.setOp_group_same (s : State) (o : Op) (n : Nat) : (s.setOp o).group? n = s.group? n := rfl
@[simp] theorem State.setOp_crew_same (s : State) (o : Op) (n : Nat) : (s.setOp o).crew? n = s.crew? n := rfl
@[simp] theorem State.setOp_launch_same (s : State) (o : Op) (n : Nat) : (s.setOp o).launch? n = s.launch? n := rfl
@[simp] theorem State.setOp_version_same (s : State) (o : Op) (n : Nat) : (s.setOp o).version? n = s.version? n := rfl
@[simp] theorem State.setOp_cluster_same (s : State) (o : Op) (n : Nat) : (s.setOp o).cluster n = s.cluster n := rfl
@[simp] theorem State.setOp_core_same (s : State) (o : Op) (n : Nat) : (s.setOp o).core n = s.core n := rfl
@[simp] theorem State.setOp_tile_same (s : State) (o : Op) (n : Nat) : (s.setOp o).tile n = s.tile n := rfl
@[simp] theorem State.setOp_ctx_same (s : State) (o : Op) (n : Nat) : (s.setOp o).ctx n = s.ctx n := rfl
@[simp] theorem State.setOp_die_same (s : State) (o : Op) (n : Nat) : (s.setOp o).die n = s.die n := rfl
@[simp] theorem State.setOp_dirAt_same (s : State) (o : Op) (n : Nat) : (s.setOp o).dirAt n = s.dirAt n := rfl
@[simp] theorem State.setOp_rdB_same (s : State) (o : Op) (n : Nat) : (s.setOp o).rdB n = s.rdB n := rfl
@[simp] theorem State.dropOp_group_same (s : State) (i : Nat) (n : Nat) : (s.dropOp i).group? n = s.group? n := rfl
@[simp] theorem State.dropOp_crew_same (s : State) (i : Nat) (n : Nat) : (s.dropOp i).crew? n = s.crew? n := rfl
@[simp] theorem State.dropOp_launch_same (s : State) (i : Nat) (n : Nat) : (s.dropOp i).launch? n = s.launch? n := rfl
@[simp] theorem State.dropOp_version_same (s : State) (i : Nat) (n : Nat) : (s.dropOp i).version? n = s.version? n := rfl
@[simp] theorem State.dropOp_cluster_same (s : State) (i : Nat) (n : Nat) : (s.dropOp i).cluster n = s.cluster n := rfl
@[simp] theorem State.dropOp_core_same (s : State) (i : Nat) (n : Nat) : (s.dropOp i).core n = s.core n := rfl
@[simp] theorem State.dropOp_tile_same (s : State) (i : Nat) (n : Nat) : (s.dropOp i).tile n = s.tile n := rfl
@[simp] theorem State.dropOp_ctx_same (s : State) (i : Nat) (n : Nat) : (s.dropOp i).ctx n = s.ctx n := rfl
@[simp] theorem State.dropOp_die_same (s : State) (i : Nat) (n : Nat) : (s.dropOp i).die n = s.die n := rfl
@[simp] theorem State.dropOp_dirAt_same (s : State) (i : Nat) (n : Nat) : (s.dropOp i).dirAt n = s.dirAt n := rfl
@[simp] theorem State.dropOp_rdB_same (s : State) (i : Nat) (n : Nat) : (s.dropOp i).rdB n = s.rdB n := rfl
@[simp] theorem State.setCluster_group_same (s : State) (k : Nat) (v : Cluster) (n : Nat) : (s.setCluster k v).group? n = s.group? n := rfl
@[simp] theorem State.setCluster_crew_same (s : State) (k : Nat) (v : Cluster) (n : Nat) : (s.setCluster k v).crew? n = s.crew? n := rfl
@[simp] theorem State.setCluster_launch_same (s : State) (k : Nat) (v : Cluster) (n : Nat) : (s.setCluster k v).launch? n = s.launch? n := rfl
@[simp] theorem State.setCluster_op_same (s : State) (k : Nat) (v : Cluster) (n : Nat) : (s.setCluster k v).op? n = s.op? n := rfl
@[simp] theorem State.setCluster_version_same (s : State) (k : Nat) (v : Cluster) (n : Nat) : (s.setCluster k v).version? n = s.version? n := rfl
@[simp] theorem State.setCluster_core_same (s : State) (k : Nat) (v : Cluster) (n : Nat) : (s.setCluster k v).core n = s.core n := rfl
@[simp] theorem State.setCluster_tile_same (s : State) (k : Nat) (v : Cluster) (n : Nat) : (s.setCluster k v).tile n = s.tile n := rfl
@[simp] theorem State.setCluster_ctx_same (s : State) (k : Nat) (v : Cluster) (n : Nat) : (s.setCluster k v).ctx n = s.ctx n := rfl
@[simp] theorem State.setCluster_die_same (s : State) (k : Nat) (v : Cluster) (n : Nat) : (s.setCluster k v).die n = s.die n := rfl
@[simp] theorem State.setCluster_dirAt_same (s : State) (k : Nat) (v : Cluster) (n : Nat) : (s.setCluster k v).dirAt n = s.dirAt n := rfl
@[simp] theorem State.setCluster_rdB_same (s : State) (k : Nat) (v : Cluster) (n : Nat) : (s.setCluster k v).rdB n = s.rdB n := rfl
@[simp] theorem State.setCore_group_same (s : State) (k : Nat) (v : Core) (n : Nat) : (s.setCore k v).group? n = s.group? n := rfl
@[simp] theorem State.setCore_crew_same (s : State) (k : Nat) (v : Core) (n : Nat) : (s.setCore k v).crew? n = s.crew? n := rfl
@[simp] theorem State.setCore_launch_same (s : State) (k : Nat) (v : Core) (n : Nat) : (s.setCore k v).launch? n = s.launch? n := rfl
@[simp] theorem State.setCore_op_same (s : State) (k : Nat) (v : Core) (n : Nat) : (s.setCore k v).op? n = s.op? n := rfl
@[simp] theorem State.setCore_version_same (s : State) (k : Nat) (v : Core) (n : Nat) : (s.setCore k v).version? n = s.version? n := rfl
@[simp] theorem State.setCore_cluster_same (s : State) (k : Nat) (v : Core) (n : Nat) : (s.setCore k v).cluster n = s.cluster n := rfl
@[simp] theorem State.setCore_tile_same (s : State) (k : Nat) (v : Core) (n : Nat) : (s.setCore k v).tile n = s.tile n := rfl
@[simp] theorem State.setCore_ctx_same (s : State) (k : Nat) (v : Core) (n : Nat) : (s.setCore k v).ctx n = s.ctx n := rfl
@[simp] theorem State.setCore_die_same (s : State) (k : Nat) (v : Core) (n : Nat) : (s.setCore k v).die n = s.die n := rfl
@[simp] theorem State.setCore_dirAt_same (s : State) (k : Nat) (v : Core) (n : Nat) : (s.setCore k v).dirAt n = s.dirAt n := rfl
@[simp] theorem State.setCore_rdB_same (s : State) (k : Nat) (v : Core) (n : Nat) : (s.setCore k v).rdB n = s.rdB n := rfl
@[simp] theorem State.setTile_group_same (s : State) (x : Nat) (v : Tile) (n : Nat) : (s.setTile x v).group? n = s.group? n := rfl
@[simp] theorem State.setTile_crew_same (s : State) (x : Nat) (v : Tile) (n : Nat) : (s.setTile x v).crew? n = s.crew? n := rfl
@[simp] theorem State.setTile_launch_same (s : State) (x : Nat) (v : Tile) (n : Nat) : (s.setTile x v).launch? n = s.launch? n := rfl
@[simp] theorem State.setTile_op_same (s : State) (x : Nat) (v : Tile) (n : Nat) : (s.setTile x v).op? n = s.op? n := rfl
@[simp] theorem State.setTile_version_same (s : State) (x : Nat) (v : Tile) (n : Nat) : (s.setTile x v).version? n = s.version? n := rfl
@[simp] theorem State.setTile_cluster_same (s : State) (x : Nat) (v : Tile) (n : Nat) : (s.setTile x v).cluster n = s.cluster n := rfl
@[simp] theorem State.setTile_core_same (s : State) (x : Nat) (v : Tile) (n : Nat) : (s.setTile x v).core n = s.core n := rfl
@[simp] theorem State.setTile_ctx_same (s : State) (x : Nat) (v : Tile) (n : Nat) : (s.setTile x v).ctx n = s.ctx n := rfl
@[simp] theorem State.setTile_die_same (s : State) (x : Nat) (v : Tile) (n : Nat) : (s.setTile x v).die n = s.die n := rfl
@[simp] theorem State.setTile_dirAt_same (s : State) (x : Nat) (v : Tile) (n : Nat) : (s.setTile x v).dirAt n = s.dirAt n := rfl
@[simp] theorem State.setTile_rdB_same (s : State) (x : Nat) (v : Tile) (n : Nat) : (s.setTile x v).rdB n = s.rdB n := rfl
@[simp] theorem State.setCtx_group_same (s : State) (c : Nat) (v : Context) (n : Nat) : (s.setCtx c v).group? n = s.group? n := rfl
@[simp] theorem State.setCtx_crew_same (s : State) (c : Nat) (v : Context) (n : Nat) : (s.setCtx c v).crew? n = s.crew? n := rfl
@[simp] theorem State.setCtx_launch_same (s : State) (c : Nat) (v : Context) (n : Nat) : (s.setCtx c v).launch? n = s.launch? n := rfl
@[simp] theorem State.setCtx_op_same (s : State) (c : Nat) (v : Context) (n : Nat) : (s.setCtx c v).op? n = s.op? n := rfl
@[simp] theorem State.setCtx_version_same (s : State) (c : Nat) (v : Context) (n : Nat) : (s.setCtx c v).version? n = s.version? n := rfl
@[simp] theorem State.setCtx_cluster_same (s : State) (c : Nat) (v : Context) (n : Nat) : (s.setCtx c v).cluster n = s.cluster n := rfl
@[simp] theorem State.setCtx_core_same (s : State) (c : Nat) (v : Context) (n : Nat) : (s.setCtx c v).core n = s.core n := rfl
@[simp] theorem State.setCtx_tile_same (s : State) (c : Nat) (v : Context) (n : Nat) : (s.setCtx c v).tile n = s.tile n := rfl
@[simp] theorem State.setCtx_die_same (s : State) (c : Nat) (v : Context) (n : Nat) : (s.setCtx c v).die n = s.die n := rfl
@[simp] theorem State.setCtx_dirAt_same (s : State) (c : Nat) (v : Context) (n : Nat) : (s.setCtx c v).dirAt n = s.dirAt n := rfl
@[simp] theorem State.setCtx_rdB_same (s : State) (c : Nat) (v : Context) (n : Nat) : (s.setCtx c v).rdB n = s.rdB n := rfl
@[simp] theorem State.setDie_group_same (s : State) (d : Nat) (v : Die) (n : Nat) : (s.setDie d v).group? n = s.group? n := rfl
@[simp] theorem State.setDie_crew_same (s : State) (d : Nat) (v : Die) (n : Nat) : (s.setDie d v).crew? n = s.crew? n := rfl
@[simp] theorem State.setDie_launch_same (s : State) (d : Nat) (v : Die) (n : Nat) : (s.setDie d v).launch? n = s.launch? n := rfl
@[simp] theorem State.setDie_op_same (s : State) (d : Nat) (v : Die) (n : Nat) : (s.setDie d v).op? n = s.op? n := rfl
@[simp] theorem State.setDie_version_same (s : State) (d : Nat) (v : Die) (n : Nat) : (s.setDie d v).version? n = s.version? n := rfl
@[simp] theorem State.setDie_cluster_same (s : State) (d : Nat) (v : Die) (n : Nat) : (s.setDie d v).cluster n = s.cluster n := rfl
@[simp] theorem State.setDie_core_same (s : State) (d : Nat) (v : Die) (n : Nat) : (s.setDie d v).core n = s.core n := rfl
@[simp] theorem State.setDie_tile_same (s : State) (d : Nat) (v : Die) (n : Nat) : (s.setDie d v).tile n = s.tile n := rfl
@[simp] theorem State.setDie_ctx_same (s : State) (d : Nat) (v : Die) (n : Nat) : (s.setDie d v).ctx n = s.ctx n := rfl
@[simp] theorem State.setDie_dirAt_same (s : State) (d : Nat) (v : Die) (n : Nat) : (s.setDie d v).dirAt n = s.dirAt n := rfl
@[simp] theorem State.setDie_rdB_same (s : State) (d : Nat) (v : Die) (n : Nat) : (s.setDie d v).rdB n = s.rdB n := rfl
@[simp] theorem State.setShare_group_same (s : State) (c k : Nat) (v : Share) (n : Nat) : (s.setShare c k v).group? n = s.group? n := rfl
@[simp] theorem State.setShare_crew_same (s : State) (c k : Nat) (v : Share) (n : Nat) : (s.setShare c k v).crew? n = s.crew? n := rfl
@[simp] theorem State.setShare_launch_same (s : State) (c k : Nat) (v : Share) (n : Nat) : (s.setShare c k v).launch? n = s.launch? n := rfl
@[simp] theorem State.setShare_op_same (s : State) (c k : Nat) (v : Share) (n : Nat) : (s.setShare c k v).op? n = s.op? n := rfl
@[simp] theorem State.setShare_version_same (s : State) (c k : Nat) (v : Share) (n : Nat) : (s.setShare c k v).version? n = s.version? n := rfl
@[simp] theorem State.setShare_cluster_same (s : State) (c k : Nat) (v : Share) (n : Nat) : (s.setShare c k v).cluster n = s.cluster n := rfl
@[simp] theorem State.setShare_core_same (s : State) (c k : Nat) (v : Share) (n : Nat) : (s.setShare c k v).core n = s.core n := rfl
@[simp] theorem State.setShare_tile_same (s : State) (c k : Nat) (v : Share) (n : Nat) : (s.setShare c k v).tile n = s.tile n := rfl
@[simp] theorem State.setShare_ctx_same (s : State) (c k : Nat) (v : Share) (n : Nat) : (s.setShare c k v).ctx n = s.ctx n := rfl
@[simp] theorem State.setShare_die_same (s : State) (c k : Nat) (v : Share) (n : Nat) : (s.setShare c k v).die n = s.die n := rfl
@[simp] theorem State.setShare_dirAt_same (s : State) (c k : Nat) (v : Share) (n : Nat) : (s.setShare c k v).dirAt n = s.dirAt n := rfl
@[simp] theorem State.setShare_rdB_same (s : State) (c k : Nat) (v : Share) (n : Nat) : (s.setShare c k v).rdB n = s.rdB n := rfl
@[simp] theorem State.setDir_group_same (s : State) (l : Nat) (e : DirEntry) (n : Nat) : (s.setDir l e).group? n = s.group? n := rfl
@[simp] theorem State.setDir_crew_same (s : State) (l : Nat) (e : DirEntry) (n : Nat) : (s.setDir l e).crew? n = s.crew? n := rfl
@[simp] theorem State.setDir_launch_same (s : State) (l : Nat) (e : DirEntry) (n : Nat) : (s.setDir l e).launch? n = s.launch? n := rfl
@[simp] theorem State.setDir_op_same (s : State) (l : Nat) (e : DirEntry) (n : Nat) : (s.setDir l e).op? n = s.op? n := rfl
@[simp] theorem State.setDir_version_same (s : State) (l : Nat) (e : DirEntry) (n : Nat) : (s.setDir l e).version? n = s.version? n := rfl
@[simp] theorem State.setDir_cluster_same (s : State) (l : Nat) (e : DirEntry) (n : Nat) : (s.setDir l e).cluster n = s.cluster n := rfl
@[simp] theorem State.setDir_core_same (s : State) (l : Nat) (e : DirEntry) (n : Nat) : (s.setDir l e).core n = s.core n := rfl
@[simp] theorem State.setDir_tile_same (s : State) (l : Nat) (e : DirEntry) (n : Nat) : (s.setDir l e).tile n = s.tile n := rfl
@[simp] theorem State.setDir_ctx_same (s : State) (l : Nat) (e : DirEntry) (n : Nat) : (s.setDir l e).ctx n = s.ctx n := rfl
@[simp] theorem State.setDir_die_same (s : State) (l : Nat) (e : DirEntry) (n : Nat) : (s.setDir l e).die n = s.die n := rfl
@[simp] theorem State.setDir_rdB_same (s : State) (l : Nat) (e : DirEntry) (n : Nat) : (s.setDir l e).rdB n = s.rdB n := rfl
@[simp] theorem State.setVersion_group_same (s : State) (v : Version) (n : Nat) : (s.setVersion v).group? n = s.group? n := rfl
@[simp] theorem State.setVersion_crew_same (s : State) (v : Version) (n : Nat) : (s.setVersion v).crew? n = s.crew? n := rfl
@[simp] theorem State.setVersion_launch_same (s : State) (v : Version) (n : Nat) : (s.setVersion v).launch? n = s.launch? n := rfl
@[simp] theorem State.setVersion_op_same (s : State) (v : Version) (n : Nat) : (s.setVersion v).op? n = s.op? n := rfl
@[simp] theorem State.setVersion_cluster_same (s : State) (v : Version) (n : Nat) : (s.setVersion v).cluster n = s.cluster n := rfl
@[simp] theorem State.setVersion_core_same (s : State) (v : Version) (n : Nat) : (s.setVersion v).core n = s.core n := rfl
@[simp] theorem State.setVersion_tile_same (s : State) (v : Version) (n : Nat) : (s.setVersion v).tile n = s.tile n := rfl
@[simp] theorem State.setVersion_ctx_same (s : State) (v : Version) (n : Nat) : (s.setVersion v).ctx n = s.ctx n := rfl
@[simp] theorem State.setVersion_die_same (s : State) (v : Version) (n : Nat) : (s.setVersion v).die n = s.die n := rfl
@[simp] theorem State.setVersion_dirAt_same (s : State) (v : Version) (n : Nat) : (s.setVersion v).dirAt n = s.dirAt n := rfl
@[simp] theorem State.setVersion_rdB_same (s : State) (v : Version) (n : Nat) : (s.setVersion v).rdB n = s.rdB n := rfl
@[simp] theorem State.wrB_group_same (s : State) (pa : Nat) (b : Byte) (n : Nat) : (s.wrB pa b).group? n = s.group? n := rfl
@[simp] theorem State.wrB_crew_same (s : State) (pa : Nat) (b : Byte) (n : Nat) : (s.wrB pa b).crew? n = s.crew? n := rfl
@[simp] theorem State.wrB_launch_same (s : State) (pa : Nat) (b : Byte) (n : Nat) : (s.wrB pa b).launch? n = s.launch? n := rfl
@[simp] theorem State.wrB_op_same (s : State) (pa : Nat) (b : Byte) (n : Nat) : (s.wrB pa b).op? n = s.op? n := rfl
@[simp] theorem State.wrB_version_same (s : State) (pa : Nat) (b : Byte) (n : Nat) : (s.wrB pa b).version? n = s.version? n := rfl
@[simp] theorem State.wrB_cluster_same (s : State) (pa : Nat) (b : Byte) (n : Nat) : (s.wrB pa b).cluster n = s.cluster n := rfl
@[simp] theorem State.wrB_core_same (s : State) (pa : Nat) (b : Byte) (n : Nat) : (s.wrB pa b).core n = s.core n := rfl
@[simp] theorem State.wrB_tile_same (s : State) (pa : Nat) (b : Byte) (n : Nat) : (s.wrB pa b).tile n = s.tile n := rfl
@[simp] theorem State.wrB_ctx_same (s : State) (pa : Nat) (b : Byte) (n : Nat) : (s.wrB pa b).ctx n = s.ctx n := rfl
@[simp] theorem State.wrB_die_same (s : State) (pa : Nat) (b : Byte) (n : Nat) : (s.wrB pa b).die n = s.die n := rfl
@[simp] theorem State.wrB_dirAt_same (s : State) (pa : Nat) (b : Byte) (n : Nat) : (s.wrB pa b).dirAt n = s.dirAt n := rfl

end Sys2Proof.Machine
end

