-- ==== Sys2Proof/Laws/Issue.lean ====
section
/-! SUPPORT. The frame of an instruction: what the issuer is, what an accepted instruction answers, and what moving past a
word leaves as it was. -/

namespace Sys2Proof.Machine

open Sys2Proof

theorem State.group_gid {s : State} {n : Nat} {g : Group} (h : s.group? n = some g) : g.gid = n := by
  have := List.find?_some h
  simpa using this

theorem Group.split_num {g : Group} {n : Nat} {p : Split} (h : g.split? n = some p) : p.num = n := by
  have := List.find?_some h
  simpa using this

theorem State.crew_cid {s : State} {n : Nat} {c : Crew} (h : s.crew? n = some c) : c.cid = n := by
  have := List.find?_some h
  simpa using this

/-- The issuer is a resident group, one of its splits, and its crew. -/
theorem State.issuer_spec {s : State} {k : Issuer} (h : s.issuer = some k) :
    s.group? k.g.gid = some k.g ∧ k.g.split? k.p.num = some k.p ∧ s.crew? k.g.cid = some k.c := by
  unfold State.issuer at h
  split at h
  · cases h
  · split at h
    · cases h
    · rename_i c _ g hg
      split at h
      · rename_i p cr hp hc
        cases h
        have e1 := State.group_gid hg
        have e2 := Group.split_num hp
        simp only at e1 e2 ⊢
        rw [e1, e2]
        exact ⟨hg, hp, hc⟩
      · cases h

/-- An accepted instruction answers what its body answers. -/
theorem issue_accepted {i : Instr} {s : State} {k : Issuer} (h : Accepted i s k) (body : Issuer → Res) :
    issue i s body = match body k with
      | .done t => .next (t.advance k.g.gid k.p.num)
      | .went t => .next t
      | .wait t => .next (t.clauseIssued k.g.gid k.p.num)
      | .trap t c => .next (t.raise k.g.gid k.p.num { c with opc := i.opcode.getD 0 }) := by
  unfold issue
  rw [h.1]
  cases hb : body k <;> simp [h.2.1, h.2.2, hb]

theorem issue_done {i : Instr} {s : State} {k : Issuer} (h : Accepted i s k) {body : Issuer → Res} {t : State}
    (hb : body k = .done t) : issue i s body = .next (t.advance k.g.gid k.p.num) := by
  rw [issue_accepted h, hb]

theorem issue_went {i : Instr} {s : State} {k : Issuer} (h : Accepted i s k) {body : Issuer → Res} {t : State}
    (hb : body k = .went t) : issue i s body = .next t := by rw [issue_accepted h, hb]

theorem issue_wait {i : Instr} {s : State} {k : Issuer} (h : Accepted i s k) {body : Issuer → Res} {t : State}
    (hb : body k = .wait t) :
    issue i s body = .next (t.clauseIssued k.g.gid k.p.num) := by rw [issue_accepted h, hb]

theorem issue_trap {i : Instr} {s : State} {k : Issuer} (h : Accepted i s k) {body : Issuer → Res} {t : State} {c : Trap}
    (hb : body k = .trap t c) :
    issue i s body = .next (t.raise k.g.gid k.p.num { c with opc := i.opcode.getD 0 }) := by rw [issue_accepted h, hb]

/-- A long-latency operation is issued where its flags have room. -/
theorem launchOp_room {s : State} {k : Issuer} (h : Room s k) (i : Instr) (kind : OpKind) :
    s.launchOp k i kind = .done (Outstanding s k i kind) := by
  unfold Room at h
  unfold State.launchOp Outstanding
  rw [if_pos h]

theorem State.clauseIssued_group (s : State) (a b n : Nat) :
    (s.clauseIssued a b).group? n = (s.group? n).map fun h => { h with splits := h.splits.map fun p =>
      { p with yieldTo := p.yieldTo.filter fun e => e != (a, b) } } := by
  unfold State.clauseIssued State.group?
  rw [List.find?_map]
  rfl

end Sys2Proof.Machine

namespace Sys2Proof

open Sys2Proof.Machine

/-! ### Frames -/

theorem plainSplit_num (p : Split) : (plainSplit p).num = p.num := rfl

/-- A split replaced by one that differs in its place only. -/
theorem OnlyRegs.replace {s t : State} {k : Issuer} {g : Group} {p q : Split} {vd : Nat → Nat → Prop} {sd : Nat → Prop}
    (h : OnlyRegs s t k g p vd sd) (hn : q.num = p.num) (he : q.exec = p.exec)
    (hp : placelessSplit q = placelessSplit p) :
    OnlyRegs s (t.setGroup (g.setSplit q)) k (g.setSplit q) q vd sd := by
  have hg : g.gid = k.g.gid := State.group_gid h.group
  have hk : p.num = k.p.num := Group.split_num h.split
  refine ⟨?_, ?_, ?_, ?_, ?_, ?_, hp.trans h.place, ?_, ?_⟩
  · exact h.outside
  · intro n hne
    have : n ≠ (g.setSplit q).gid := by simpa [hg] using hne
    rw [State.setGroup_group, if_neg this]
    exact h.others n hne
  · rw [State.setGroup_group, if_pos (by simp [hg]), h.group]
    rfl
  · rw [Group.setSplit_split, if_pos (by omega), h.split]
    rfl
  · exact h.bare
  · intro n hne
    rw [Group.setSplit_split, if_neg (by omega)]
    exact h.splits n hne
  · exact h.vregs
  · intro r hr
    have := h.sregs r hr
    unfold Group.rdS at this ⊢
    rw [he]
    exact this

/-- A mapping of splits that keeps numbers. -/
theorem find_split_map (f : Split → Split) (hf : ∀ p, (f p).num = p.num) (l : List Split) (n : Nat) :
    (l.map f).find? (fun p => p.num == n) = (l.find? fun p => p.num == n).map f := by
  rw [List.find?_map]
  congr 2
  funext p
  simp [hf]

/-- What a split that has issued a clause leaves to the others. -/
theorem OnlyRegs.clauseIssued {s t : State} {k : Issuer} {g : Group} {p : Split} {vd : Nat → Nat → Prop}
    {sd : Nat → Prop} (h : OnlyRegs s t k g p vd sd) (a b : Nat) :
    ∃ g' p', OnlyRegs s (t.clauseIssued a b) k g' p' vd sd ∧ (∀ r l, g'.rdV r l = g.rdV r l)
      ∧ (∀ r, g'.rdS p' r = g.rdS p r) ∧ plainSplit p' = plainSplit p := by
  let f (p : Split) : Split := { p with yieldTo := p.yieldTo.filter fun e => e != (a, b) }
  have hpl : ∀ p : Split, plainSplit (f p) = plainSplit p := fun _ => rfl
  refine ⟨{ g with splits := g.splits.map f }, f p, ⟨?_, ?_, ?_, ?_, ?_, ?_, ?_, ?_, ?_⟩, fun _ _ => rfl, fun _ => rfl, rfl⟩
  · exact h.outside
  · intro n hne
    rw [State.clauseIssued_group, ← h.others n hne, Option.map_map]
    congr 1
    funext x
    simp [plainGroup, plainSplit, Function.comp_def]
  · rw [State.clauseIssued_group, h.group]
    rfl
  · show (g.splits.map f).find? _ = _
    rw [find_split_map f (fun _ => rfl)]
    exact congrArg (Option.map f) h.split
  · exact h.bare
  · intro n hne
    show ((g.splits.map f).find? _).map plainSplit = _
    rw [find_split_map f (fun _ => rfl), ← h.splits n hne, Option.map_map]
    rfl
  · exact h.place
  · exact h.vregs
  · exact h.sregs

theorem OnlyRegs.yields {s t : State} {k : Issuer} {g : Group} {p : Split} {vd : Nat → Nat → Prop} {sd : Nat → Prop}
    (h : OnlyRegs s t k g p vd sd) (x : Group) (hx : x.gid = k.g.gid) :
    ∃ g' p', OnlyRegs s (t.yields x k.p.num) k g' p' vd sd ∧ (∀ r l, g'.rdV r l = g.rdV r l)
      ∧ (∀ r, g'.rdS p' r = g.rdS p r) ∧ plainSplit p' = plainSplit p := by
  obtain ⟨g2, p2, h2, hv, hs, hp⟩ := h.clauseIssued k.g.gid k.p.num
  unfold State.yields
  simp only [hx, h.group, h2.group, h2.split]
  exact ⟨_, _, h2.replace (q := { p2 with yieldTo := t.rivals g k.p.num }) rfl rfl rfl, hv, hs, hp⟩

/-- What follows the last word of a clause (R89): the others are told, and the split gives way where the clause yields. -/
theorem OnlyRegs.lastIssued {s t : State} {k : Issuer} {g : Group} {p : Split} {vd : Nat → Nat → Prop} {sd : Nat → Prop}
    (h : OnlyRegs s t k g p vd sd) (x : Group) (q : Split) (hx : x.gid = k.g.gid) (hq : q.num = k.p.num) :
    ∃ g' p', OnlyRegs s (t.lastIssued x q) k g' p' vd sd ∧ (∀ r l, g'.rdV r l = g.rdV r l)
      ∧ (∀ r, g'.rdS p' r = g.rdS p r) ∧ plainSplit p' = plainSplit p := by
  obtain ⟨g2, p2, h2, hv, hs, hp⟩ := h.clauseIssued k.g.gid k.p.num
  obtain ⟨g3, p3, h3, hv3, hs3, hp3⟩ := h2.yields x hx
  unfold State.lastIssued
  rw [hx, hq]
  cases q.cl with
  | none => exact ⟨g2, p2, h2, hv, hs, hp⟩
  | some c =>
    cases hy : hdrYield c.hdr with
    | true =>
      simpa [hy] using (⟨g3, p3, h3, fun r l => (hv3 r l).trans (hv r l), fun r => (hs3 r).trans (hs r), hp3.trans hp⟩ :
        ∃ g' p', OnlyRegs s ((t.clauseIssued k.g.gid k.p.num).yields x k.p.num) k g' p' vd sd
          ∧ (∀ r l, g'.rdV r l = g.rdV r l) ∧ (∀ r, g'.rdS p' r = g.rdS p r) ∧ plainSplit p' = plainSplit p)
    | false =>
      simpa [hy] using (⟨g2, p2, h2, hv, hs, hp⟩ :
        ∃ g' p', OnlyRegs s (t.clauseIssued k.g.gid k.p.num) k g' p' vd sd
          ∧ (∀ r l, g'.rdV r l = g.rdV r l) ∧ (∀ r, g'.rdS p' r = g.rdS p r) ∧ plainSplit p' = plainSplit p)

theorem OnlyRegs.leaveClause {s t : State} {k : Issuer} {g : Group} {p : Split} {vd : Nat → Nat → Prop} {sd : Nat → Prop}
    (h : OnlyRegs s t k g p vd sd) (pc : DWord) :
    ∃ g' p', OnlyRegs s (t.leaveClause k.g.gid k.p.num pc) k g' p' vd sd ∧ (∀ r l, g'.rdV r l = g.rdV r l)
      ∧ (∀ r, g'.rdS p' r = g.rdS p r) ∧ plainSplit p' = plainSplit (p.goto pc) := by
  have h1 := h.replace (q := p.goto pc) rfl rfl rfl
  unfold State.leaveClause
  simp only [h.group, h.split]
  exact h1.lastIssued g p (State.group_gid h.group) (Group.split_num h.split)

/-- Moving past a word changes nothing but the split's place (R85). -/
theorem OnlyRegs.advance {s t : State} {k : Issuer} {g : Group} {p : Split} {vd : Nat → Nat → Prop} {sd : Nat → Prop}
    (h : OnlyRegs s t k g p vd sd) :
    ∃ g' p', OnlyRegs s (t.advance k.g.gid k.p.num) k g' p' vd sd ∧ (∀ r l, g'.rdV r l = g.rdV r l)
      ∧ (∀ r, g'.rdS p' r = g.rdS p r) := by
  unfold State.advance
  simp only [h.group, h.split]
  split
  · exact ⟨_, _, h.replace rfl rfl rfl, fun _ _ => rfl, fun _ => rfl⟩
  · split
    · exact ⟨_, _, h.replace rfl rfl rfl, fun _ _ => rfl, fun _ => rfl⟩
    · obtain ⟨g', p', h', hv, hs, _⟩ := h.leaveClause p.nextClause
      exact ⟨g', p', h', hv, hs⟩

end Sys2Proof
end

