-- ==== Sys2Proof/Laws/Memory.lean ====
section
/-! SUPPORT. Memory: every operation keeps the canonical form, a byte written is the byte read, and a byte outside what is
written stays. -/

namespace Sys2Proof.Machine

theorem Memory.wf_wrB {s : State} (h : Memory.wf s.mem = true) (pa : Nat) (b : Byte) :
    Memory.wf (s.wrB pa b).mem = true := NMap.wf_set _ _ _ _ h

theorem Memory.wf_wrPairs : ∀ (l : List (Nat × Byte)) {s : State}, Memory.wf s.mem = true →
    Memory.wf (s.wrPairs l).mem = true
  | [], _, h => h
  | (a, b) :: l, _, h => Memory.wf_wrPairs l (Memory.wf_wrB h a b)

theorem Memory.wf_wrBytes {s : State} (h : Memory.wf s.mem = true) (pa : Nat) (bs : List Byte) :
    Memory.wf (s.wrBytes pa bs).mem = true := Memory.wf_wrPairs _ h

theorem Memory.wf_wrN {s : State} (h : Memory.wf s.mem = true) (pa k n : Nat) :
    Memory.wf (s.wrN pa k n).mem = true := Memory.wf_wrBytes h _ _

/-- Dropping the bytes of some addresses, as resets and the return of pages do. -/
theorem Memory.wf_filter {m : List Host.Cell} (h : Memory.wf m = true) (p : Host.Cell → Bool) :
    Memory.wf (m.filter p) = true := NMap.wf_filter _ p m h

theorem Memory.wf_reset : Memory.wf State.reset.mem = true := by decide

/-- A byte that is not written stays. -/
theorem State.rdB_wrPairs : ∀ (l : List (Nat × Byte)) (s : State) (a : Nat), (∀ e ∈ l, e.1 ≠ a) →
    (s.wrPairs l).rdB a = s.rdB a
  | [], _, _, _ => rfl
  | (x, b) :: l, s, a, h => by
    have hx : a ≠ x := fun e => h (x, b) List.mem_cons_self e.symm
    show ((s.wrB x b).wrPairs l).rdB a = s.rdB a
    rw [State.rdB_wrPairs l _ a fun e he => h e (List.mem_cons_of_mem _ he), State.wrB_rdB, if_neg hx]

theorem mem_pairsAt {pa : Nat} {bs : List Byte} {e : Nat × Byte} (h : e ∈ pairsAt pa bs) :
    pa ≤ e.1 ∧ e.1 < pa + bs.length := by
  unfold pairsAt at h
  rw [List.mem_mapIdx] at h
  obtain ⟨i, hi, rfl⟩ := h
  exact ⟨Nat.le_add_right _ _, by simpa using hi⟩

/-- A byte outside a write stays. -/
theorem State.rdB_wrBytes_outside (s : State) (pa : Nat) (bs : List Byte) (a : Nat) (h : a < pa ∨ pa + bs.length ≤ a) :
    (s.wrBytes pa bs).rdB a = s.rdB a :=
  State.rdB_wrPairs _ s a fun e he => by
    have := mem_pairsAt he
    omega

theorem pairsAt_cons (pa : Nat) (b : Byte) (bs : List Byte) : pairsAt pa (b :: bs) = (pa, b) :: pairsAt (pa + 1) bs := by
  unfold pairsAt
  rw [List.mapIdx_cons]
  congr 1
  apply List.ext_getElem
  · simp
  · intro i h1 h2
    simp only [List.getElem_mapIdx, Prod.mk.injEq, and_true]
    omega

/-- A byte inside a write is the byte written. -/
theorem State.rdB_wrBytes_inside : ∀ (bs : List Byte) (s : State) (pa i : Nat) (h : i < bs.length),
    (s.wrBytes pa bs).rdB (pa + i) = bs[i]
  | [], _, _, _, h => absurd h (Nat.not_lt_zero _)
  | b :: bs, s, pa, i, h => by
    have hw : s.wrBytes pa (b :: bs) = (s.wrB pa b).wrBytes (pa + 1) bs := by
      unfold State.wrBytes
      rw [pairsAt_cons]
      rfl
    rw [hw]
    cases i with
    | zero =>
      rw [State.rdB_wrBytes_outside _ _ _ _ (by omega), Nat.add_zero, State.wrB_rdB, if_pos rfl]
      rfl
    | succ i =>
      have := State.rdB_wrBytes_inside bs (s.wrB pa b) (pa + 1) i (by simpa using h)
      rw [show pa + (i + 1) = pa + 1 + i from by omega, this]
      rfl

/-- What is written is read back. -/
theorem State.rdBytes_wrBytes (s : State) (pa : Nat) (bs : List Byte) :
    (s.wrBytes pa bs).rdBytes pa bs.length = bs := by
  unfold State.rdBytes
  apply List.ext_getElem
  · simp
  · intro i h1 h2
    rw [List.getElem_map, List.getElem_range]
    exact State.rdB_wrBytes_inside bs s pa i (by simpa using h2)

end Sys2Proof.Machine
end

