-- ==== Sys2Proof/Laws/PerInstr.lean ====
section
/-! SUPPORT. One statement for every instruction: its opcode is the top byte of its first word (Tables 04-4 to 04-12), and an
event has no words. -/

namespace Sys2Proof

set_option Elab.async false

theorem Src.kind_val {a : Src} (h : a.fits = true) : a.kind < 2 ∧ a.val < 512 := by
  cases a <;> simp_all [Src.fits, Src.kind, Src.val]

theorem Ty.code_lt {t : Ty} (h : t.fits = true) : t.code < 32 := by
  cases t <;> simp_all [Ty.fits, Ty.code]

theorem Rnd.code_lt {r : Rnd} (h : r.fits = true) : r.code < 8 := by
  cases r <;> simp_all [Rnd.fits, Rnd.code]

theorem encA_opcode {op : Nat} {o : OpA} (hop : op < 256) (h : o.fits = true) : (encA op o).toNat / 2 ^ 56 = op := by
  simp only [OpA.fits, Bool.and_eq_true, decide_eq_true_eq] at h
  obtain ⟨⟨⟨⟨⟨⟨⟨hk, hd⟩, ha⟩, hb⟩, hc⟩, hr⟩, ht⟩, -⟩ := h
  have := Src.kind_val ha
  have := Src.kind_val hb
  have := Src.kind_val hc
  have := Ty.code_lt ht
  have := Rnd.code_lt hr
  have := o.sub.isLt
  have := Bool.toNat_lt o.s
  simp only [encA, BitVec.toNat_ofNat]
  omega

theorem encM_opcode {op : Nat} {o : OpM} (hop : op < 256) (h : o.fits = true) : (encM op o).toNat / 2 ^ 56 = op := by
  simp only [OpM.fits, Bool.and_eq_true, decide_eq_true_eq] at h
  obtain ⟨⟨⟨⟨⟨hd, hb⟩, hw⟩, hs⟩, hc⟩, ha⟩ := h
  have := o.off.isLt
  have := Bool.toNat_lt o.bs
  have := Bool.toNat_lt o.rsv
  simp only [encM, BitVec.toNat_ofNat]
  omega

theorem encB_opcode {op : Nat} {o : OpB} (hop : op < 256) (h : o.fits = true) : (encB op o).toNat / 2 ^ 56 = op := by
  simp only [OpB.fits, Bool.and_eq_true, decide_eq_true_eq] at h
  obtain ⟨hr, hc⟩ := h
  have := o.rsv.isLt
  have := o.disp.isLt
  have := Bool.toNat_lt o.rk
  simp only [encB, BitVec.toNat_ofNat]
  omega

theorem encE_opcode {op : Nat} {o : OpE} (hop : op < 256) (h : o.fits = true) : (encE op o).toNat / 2 ^ 56 = op := by
  simp only [OpE.fits, Bool.and_eq_true, decide_eq_true_eq] at h
  obtain ⟨⟨⟨⟨hd, ha⟩, hb⟩, hc⟩, hf⟩ := h
  have := o.mode.isLt
  simp only [encE, BitVec.toNat_ofNat]
  omega

theorem encP_opcode {op : Nat} {o : OpP} (hop : op < 256) (h : o.fits = true) : (encP op o).toNat / 2 ^ 56 = op := by
  simp only [OpP.fits, decide_eq_true_eq] at h
  have := o.step.isLt
  have := o.rsv.isLt
  simp only [encP, BitVec.toNat_ofNat]
  omega

end Sys2Proof

namespace Sys2Proof.Laws

/-- The first word of an instruction whose fields fit carries its opcode; an event has no words. -/
def encoding.Statement (i : Instr) : Prop := match i.opcode with
  | some op => i.encodable = true → ∃ w ws, encode i = w :: ws ∧ w.toNat / 2 ^ 56 = op
  | none => encode i = []

theorem encoding.ofA {i : Instr} {op : Nat} {o : OpA} (hf : i.form = .a op o) (hop : Nat.blt op 256 = true) : Statement i := by
  simp only [Statement, Instr.opcode, Instr.encodable, encode, hf]
  exact fun h => ⟨_, _, rfl, encA_opcode (Nat.blt_eq.mp hop) h⟩

theorem encoding.ofM {i : Instr} {op : Nat} {o : OpM} (hf : i.form = .m op o) (hop : Nat.blt op 256 = true) : Statement i := by
  simp only [Statement, Instr.opcode, Instr.encodable, encode, hf]
  exact fun h => ⟨_, _, rfl, encM_opcode (Nat.blt_eq.mp hop) h⟩

theorem encoding.ofB {i : Instr} {op : Nat} {o : OpB} (hf : i.form = .b op o) (hop : Nat.blt op 256 = true) : Statement i := by
  simp only [Statement, Instr.opcode, Instr.encodable, encode, hf]
  exact fun h => ⟨_, _, rfl, encB_opcode (Nat.blt_eq.mp hop) h⟩

theorem encoding.ofE {i : Instr} {op : Nat} {m v : BitVec 17} {o : OpE} (hf : i.form = .e op m v o) (hop : Nat.blt op 256 = true) : Statement i := by
  simp only [Statement, Instr.opcode, Instr.encodable, encode, hf, Bool.and_eq_true]
  exact fun h => ⟨_, _, rfl, encE_opcode (Nat.blt_eq.mp hop) h.1⟩

theorem encoding.ofP {i : Instr} {op : Nat} {o : OpP} (hf : i.form = .p op o) (hop : Nat.blt op 256 = true) : Statement i := by
  simp only [Statement, Instr.opcode, Instr.encodable, encode, hf]
  exact fun h => ⟨_, _, rfl, encP_opcode (Nat.blt_eq.mp hop) h⟩

theorem encoding.ofEvent {i : Instr} (hf : i.form = .event) : Statement i := by
  simp only [Statement, Instr.opcode, encode, hf]

theorem encoding.clauseStart (g n : Nat) : Statement (.clauseStart g n) := ofEvent rfl
theorem encoding.operationComplete (op : Nat) : Statement (.operationComplete op) := ofEvent rfl
theorem encoding.iadd (o : OpA) : Statement (.iadd o) := ofA rfl rfl
theorem encoding.isub (o : OpA) : Statement (.isub o) := ofA rfl rfl
theorem encoding.imul (o : OpA) : Statement (.imul o) := ofA rfl rfl
theorem encoding.imulh (o : OpA) : Statement (.imulh o) := ofA rfl rfl
theorem encoding.imad (o : OpA) : Statement (.imad o) := ofA rfl rfl
theorem encoding.imin (o : OpA) : Statement (.imin o) := ofA rfl rfl
theorem encoding.imax (o : OpA) : Statement (.imax o) := ofA rfl rfl
theorem encoding.iabs (o : OpA) : Statement (.iabs o) := ofA rfl rfl
theorem encoding.ineg (o : OpA) : Statement (.ineg o) := ofA rfl rfl
theorem encoding.iaddc (o : OpA) : Statement (.iaddc o) := ofA rfl rfl
theorem encoding.icmp (o : OpA) : Statement (.icmp o) := ofA rfl rfl
theorem encoding.sel (o : OpA) : Statement (.sel o) := ofA rfl rfl
theorem encoding.shl (o : OpA) : Statement (.shl o) := ofA rfl rfl
theorem encoding.shr (o : OpA) : Statement (.shr o) := ofA rfl rfl
theorem encoding.sar (o : OpA) : Statement (.sar o) := ofA rfl rfl
theorem encoding.rol (o : OpA) : Statement (.rol o) := ofA rfl rfl
theorem encoding.and (o : OpA) : Statement (.and o) := ofA rfl rfl
theorem encoding.or (o : OpA) : Statement (.or o) := ofA rfl rfl
theorem encoding.xor (o : OpA) : Statement (.xor o) := ofA rfl rfl
theorem encoding.not (o : OpA) : Statement (.not o) := ofA rfl rfl
theorem encoding.andn (o : OpA) : Statement (.andn o) := ofA rfl rfl
theorem encoding.bfx (o : OpA) : Statement (.bfx o) := ofA rfl rfl
theorem encoding.bfi (o : OpA) : Statement (.bfi o) := ofA rfl rfl
theorem encoding.popc (o : OpA) : Statement (.popc o) := ofA rfl rfl
theorem encoding.clz (o : OpA) : Statement (.clz o) := ofA rfl rfl
theorem encoding.brev (o : OpA) : Statement (.brev o) := ofA rfl rfl
theorem encoding.lea (o : OpA) : Statement (.lea o) := ofA rfl rfl
theorem encoding.add64 (o : OpA) : Statement (.add64 o) := ofA rfl rfl
theorem encoding.mov (o : OpA) : Statement (.mov o) := ofA rfl rfl
theorem encoding.movi (o : OpA) : Statement (.movi o) := ofA rfl rfl
theorem encoding.movs (o : OpA) : Statement (.movs o) := ofA rfl rfl
theorem encoding.lperm (o : OpA) : Statement (.lperm o) := ofA rfl rfl
theorem encoding.lpush (o : OpA) : Statement (.lpush o) := ofA rfl rfl
theorem encoding.lbcast (o : OpA) : Statement (.lbcast o) := ofA rfl rfl
theorem encoding.lshfl (o : OpA) : Statement (.lshfl o) := ofA rfl rfl
theorem encoding.lscan (o : OpA) : Statement (.lscan o) := ofA rfl rfl
theorem encoding.lred (o : OpA) : Statement (.lred o) := ofA rfl rfl
theorem encoding.lvote (o : OpA) : Statement (.lvote o) := ofA rfl rfl
theorem encoding.firstlane (o : OpA) : Statement (.firstlane o) := ofA rfl rfl
theorem encoding.bra (o : OpB) : Statement (.bra o) := ofB rfl rfl
theorem encoding.brc (o : OpB) : Statement (.brc o) := ofB rfl rfl
theorem encoding.call (o : OpB) : Statement (.call o) := ofB rfl rfl
theorem encoding.ret (o : OpB) : Statement (.ret o) := ofB rfl rfl
theorem encoding.jmpi (o : OpB) : Statement (.jmpi o) := ofB rfl rfl
theorem encoding.splitsync (o : OpB) : Statement (.splitsync o) := ofB rfl rfl
theorem encoding.exit (o : OpE) : Statement (.exit o) := ofE rfl rfl
theorem encoding.rep (o : OpP) : Statement (.rep o) := ofP rfl rfl
theorem encoding.nop (o : OpE) : Statement (.nop o) := ofE rfl rfl
theorem encoding.yield (o : OpE) : Statement (.yield o) := ofE rfl rfl
theorem encoding.reggrow (o : OpA) : Statement (.reggrow o) := ofA rfl rfl
theorem encoding.reggrowGrant (core : Nat) : Statement (.reggrowGrant core) := ofEvent rfl
theorem encoding.reggrowDeny (core : Nat) : Statement (.reggrowDeny core) := ofEvent rfl
theorem encoding.regshrink (o : OpA) : Statement (.regshrink o) := ofA rfl rfl
theorem encoding.sread (o : OpA) : Statement (.sread o) := ofA rfl rfl
theorem encoding.swrite (o : OpA) : Statement (.swrite o) := ofA rfl rfl
theorem encoding.fadd (o : OpA) : Statement (.fadd o) := ofA rfl rfl
theorem encoding.fsub (o : OpA) : Statement (.fsub o) := ofA rfl rfl
theorem encoding.fmul (o : OpA) : Statement (.fmul o) := ofA rfl rfl
theorem encoding.ffma (o : OpA) : Statement (.ffma o) := ofA rfl rfl
theorem encoding.fmin (o : OpA) : Statement (.fmin o) := ofA rfl rfl
theorem encoding.fmax (o : OpA) : Statement (.fmax o) := ofA rfl rfl
theorem encoding.fcmp (o : OpA) : Statement (.fcmp o) := ofA rfl rfl
theorem encoding.fclass (o : OpA) : Statement (.fclass o) := ofA rfl rfl
theorem encoding.frnd (o : OpA) : Statement (.frnd o) := ofA rfl rfl
theorem encoding.ftoi (o : OpA) : Statement (.ftoi o) := ofA rfl rfl
theorem encoding.itof (o : OpA) : Statement (.itof o) := ofA rfl rfl
theorem encoding.rcpseed (o : OpA) : Statement (.rcpseed o) := ofA rfl rfl
theorem encoding.rsqseed (o : OpA) : Statement (.rsqseed o) := ofA rfl rfl
theorem encoding.lg2seed (o : OpA) : Statement (.lg2seed o) := ofA rfl rfl
theorem encoding.ex2seed (o : OpA) : Statement (.ex2seed o) := ofA rfl rfl
theorem encoding.rrpi (o : OpA) : Statement (.rrpi o) := ofA rfl rfl
theorem encoding.rrln2 (o : OpA) : Statement (.rrln2 o) := ofA rfl rfl
theorem encoding.fexp (o : OpA) : Statement (.fexp o) := ofA rfl rfl
theorem encoding.fmant (o : OpA) : Statement (.fmant o) := ofA rfl rfl
theorem encoding.ldexp (o : OpA) : Statement (.ldexp o) := ofA rfl rfl
theorem encoding.cvt (o : OpA) : Statement (.cvt o) := ofA rfl rfl
theorem encoding.pk (o : OpA) : Statement (.pk o) := ofA rfl rfl
theorem encoding.unpk (o : OpA) : Statement (.unpk o) := ofA rfl rfl
theorem encoding.hadd2 (o : OpA) : Statement (.hadd2 o) := ofA rfl rfl
theorem encoding.hmul2 (o : OpA) : Statement (.hmul2 o) := ofA rfl rfl
theorem encoding.hfma2 (o : OpA) : Statement (.hfma2 o) := ofA rfl rfl
theorem encoding.dot4 (o : OpA) : Statement (.dot4 o) := ofA rfl rfl
theorem encoding.dot8 (o : OpA) : Statement (.dot8 o) := ofA rfl rfl
theorem encoding.dots (o : OpA) : Statement (.dots o) := ofA rfl rfl
theorem encoding.scale (o : OpA) : Statement (.scale o) := ofA rfl rfl
theorem encoding.amaxb (o : OpA) : Statement (.amaxb o) := ofA rfl rfl
theorem encoding.qnt (o : OpA) : Statement (.qnt o) := ofA rfl rfl
theorem encoding.ld (o : OpM) : Statement (.ld o) := ofM rfl rfl
theorem encoding.st (o : OpM) : Statement (.st o) := ofM rfl rfl
theorem encoding.lds (o : OpM) : Statement (.lds o) := ofM rfl rfl
theorem encoding.sts (o : OpM) : Statement (.sts o) := ofM rfl rfl
theorem encoding.atom (o : OpM) : Statement (.atom o) := ofM rfl rfl
theorem encoding.red (o : OpM) : Statement (.red o) := ofM rfl rfl
theorem encoding.pref (o : OpM) : Statement (.pref o) := ofM rfl rfl
theorem encoding.cwb (o : OpM) : Statement (.cwb o) := ofM rfl rfl
theorem encoding.cinv (o : OpM) : Statement (.cinv o) := ofM rfl rfl
theorem encoding.bankcfg (o : OpE) : Statement (.bankcfg o) := ofE rfl rfl
theorem encoding.fpush (o : OpM) : Statement (.fpush o) := ofM rfl rfl
theorem encoding.fpop (o : OpM) : Statement (.fpop o) := ofM rfl rfl
theorem encoding.fence (o : OpE) : Statement (.fence o) := ofE rfl rfl
theorem encoding.gbar (o : OpE) : Statement (.gbar o) := ofE rfl rfl
theorem encoding.nbarinit (o : OpE) : Statement (.nbarinit o) := ofE rfl rfl
theorem encoding.nbararr (o : OpE) : Statement (.nbararr o) := ofE rfl rfl
theorem encoding.nbarwait (o : OpE) : Statement (.nbarwait o) := ofE rfl rfl
theorem encoding.nbarsync (o : OpE) : Statement (.nbarsync o) := ofE rfl rfl
theorem encoding.mwatch (o : OpM) : Statement (.mwatch o) := ofM rfl rfl
theorem encoding.mwait (o : OpE) : Statement (.mwait o) := ofE rfl rfl
theorem encoding.watchTrigger (slice line : Nat) : Statement (.watchTrigger slice line) := ofEvent rfl
theorem encoding.ticket (o : OpM) : Statement (.ticket o) := ofM rfl rfl
theorem encoding.henc (o : OpA) : Statement (.henc o) := ofA rfl rfl
theorem encoding.hdec (o : OpA) : Statement (.hdec o) := ofA rfl rfl
theorem encoding.hadd (o : OpA) : Statement (.hadd o) := ofA rfl rfl
theorem encoding.hsub (o : OpA) : Statement (.hsub o) := ofA rfl rfl
theorem encoding.hmul (o : OpA) : Statement (.hmul o) := ofA rfl rfl
theorem encoding.hneg (o : OpA) : Statement (.hneg o) := ofA rfl rfl
theorem encoding.hinv (o : OpA) : Statement (.hinv o) := ofA rfl rfl
theorem encoding.hdiv (o : OpA) : Statement (.hdiv o) := ofA rfl rfl
theorem encoding.heq (o : OpA) : Statement (.heq o) := ofA rfl rfl
theorem encoding.hdig (o : OpA) : Statement (.hdig o) := ofA rfl rfl
theorem encoding.hnorm (o : OpA) : Statement (.hnorm o) := ofA rfl rfl
theorem encoding.mma (o : OpE) : Statement (.mma o) := ofE rfl rfl
theorem encoding.mmas (o : OpE) : Statement (.mmas o) := ofE rfl rfl
theorem encoding.mmaPerform (core op : Nat) : Statement (.mmaPerform core op) := ofEvent rfl
theorem encoding.acq (o : OpE) : Statement (.acq o) := ofE rfl rfl
theorem encoding.accTokenGrant (core op : Nat) : Statement (.accTokenGrant core op) := ofEvent rfl
theorem encoding.rel (o : OpE) : Statement (.rel o) := ofE rfl rfl
theorem encoding.accrd (o : OpE) : Statement (.accrd o) := ofE rfl rfl
theorem encoding.accrdMem (o : OpE) : Statement (.accrdMem o) := ofE rfl rfl
theorem encoding.accwr (o : OpE) : Statement (.accwr o) := ofE rfl rfl
theorem encoding.accz (o : OpE) : Statement (.accz o) := ofE rfl rfl
theorem encoding.cmpr (o : OpE) : Statement (.cmpr o) := ofE rfl rfl
theorem encoding.mopld (o : OpE) : Statement (.mopld o) := ofE rfl rfl
theorem encoding.ebudgetRefill (cluster : Nat) : Statement (.ebudgetRefill cluster) := ofEvent rfl
theorem encoding.cbcfg (o : OpE) : Statement (.cbcfg o) := ofE rfl rfl
theorem encoding.cbgate (o : OpE) : Statement (.cbgate o) := ofE rfl rfl
theorem encoding.cbrun (o : OpE) : Statement (.cbrun o) := ofE rfl rfl
theorem encoding.tileCommandStart (tile : Nat) : Statement (.tileCommandStart tile) := ofEvent rfl
theorem encoding.crossbarGate (tile : Nat) : Statement (.crossbarGate tile) := ofEvent rfl
theorem encoding.cbread (o : OpE) : Statement (.cbread o) := ofE rfl rfl
theorem encoding.cbwrite (o : OpE) : Statement (.cbwrite o) := ofE rfl rfl
theorem encoding.cbmap (o : OpE) : Statement (.cbmap o) := ofE rfl rfl
theorem encoding.cbmapReset (o : OpE) : Statement (.cbmapReset o) := ofE rfl rfl
theorem encoding.cbstatSt (o : OpE) : Statement (.cbstatSt o) := ofE rfl rfl
theorem encoding.cbstatLife (o : OpE) : Statement (.cbstatLife o) := ofE rfl rfl
theorem encoding.cbstatCal (o : OpE) : Statement (.cbstatCal o) := ofE rfl rfl
theorem encoding.cbstatBad (o : OpE) : Statement (.cbstatBad o) := ofE rfl rfl
theorem encoding.cbstatOvf (o : OpE) : Statement (.cbstatOvf o) := ofE rfl rfl
theorem encoding.cbprog (o : OpE) : Statement (.cbprog o) := ofE rfl rfl
theorem encoding.cbprogRow (tile : Nat) (verified : Bool) : Statement (.cbprogRow tile verified) := ofEvent rfl
theorem encoding.cbcal (o : OpE) : Statement (.cbcal o) := ofE rfl rfl
theorem encoding.cbcalBlock (tile : Nat) : Statement (.cbcalBlock tile) := ofEvent rfl
theorem encoding.cbmvm (o : OpE) : Statement (.cbmvm o) := ofE rfl rfl
theorem encoding.cbmvmPerform (tile : Nat) : Statement (.cbmvmPerform tile) := ofEvent rfl
theorem encoding.cpy (o : OpE) : Statement (.cpy o) := ofE rfl rfl
theorem encoding.cpyl (o : OpE) : Statement (.cpyl o) := ofE rfl rfl
theorem encoding.copyAccept (cmd : Nat) : Statement (.copyAccept cmd) := ofEvent rfl
theorem encoding.copyComplete (cmd : Nat) : Statement (.copyComplete cmd) := ofEvent rfl
theorem encoding.tagwany (o : OpE) : Statement (.tagwany o) := ofE rfl rfl
theorem encoding.tagwall (o : OpE) : Statement (.tagwall o) := ofE rfl rfl
theorem encoding.tagfirst (o : OpE) : Statement (.tagfirst o) := ofE rfl rfl
theorem encoding.tagclr (o : OpE) : Statement (.tagclr o) := ofE rfl rfl
theorem encoding.tbinit (o : OpE) : Statement (.tbinit o) := ofE rfl rfl
theorem encoding.tbarr (o : OpE) : Statement (.tbarr o) := ofE rfl rfl
theorem encoding.tbexpect (o : OpE) : Statement (.tbexpect o) := ofE rfl rfl
theorem encoding.tbwait (o : OpE) : Statement (.tbwait o) := ofE rfl rfl
theorem encoding.tbinval (o : OpE) : Statement (.tbinval o) := ofE rfl rfl
theorem encoding.sred (o : OpE) : Statement (.sred o) := ofE rfl rfl
theorem encoding.sredb (o : OpE) : Statement (.sredb o) := ofE rfl rfl
theorem encoding.sredAccept (cmd : Nat) : Statement (.sredAccept cmd) := ofEvent rfl
theorem encoding.sredCompute (cmd : Nat) : Statement (.sredCompute cmd) := ofEvent rfl
theorem encoding.srstatCnt (o : OpE) : Statement (.srstatCnt o) := ofE rfl rfl
theorem encoding.srstatErr (o : OpE) : Statement (.srstatErr o) := ofE rfl rfl
theorem encoding.srstatCode (o : OpE) : Statement (.srstatCode o) := ofE rfl rfl
theorem encoding.srstatClr (o : OpE) : Statement (.srstatClr o) := ofE rfl rfl
theorem encoding.tspawn (o : OpE) : Statement (.tspawn o) := ofE rfl rfl
theorem encoding.insertionQueueDrain (die : Nat) : Statement (.insertionQueueDrain die) := ofEvent rfl
theorem encoding.tcancel (o : OpE) : Statement (.tcancel o) := ofE rfl rfl
theorem encoding.evset (o : OpE) : Statement (.evset o) := ofE rfl rfl
theorem encoding.evwait (o : OpE) : Statement (.evwait o) := ofE rfl rfl
theorem encoding.launch (o : OpE) : Statement (.launch o) := ofE rfl rfl
theorem encoding.launchPublish (op : Nat) : Statement (.launchPublish op) := ofEvent rfl
theorem encoding.resnew (o : OpE) : Statement (.resnew o) := ofE rfl rfl
theorem encoding.respri (o : OpE) : Statement (.respri o) := ofE rfl rfl
theorem encoding.resevict (o : OpE) : Statement (.resevict o) := ofE rfl rfl
theorem encoding.resdemote (o : OpE) : Statement (.resdemote o) := ofE rfl rfl
theorem encoding.resqryTile (o : OpE) : Statement (.resqryTile o) := ofE rfl rfl
theorem encoding.resqryHnd (o : OpE) : Statement (.resqryHnd o) := ofE rfl rfl
theorem encoding.resqryScore (o : OpE) : Statement (.resqryScore o) := ofE rfl rfl
theorem encoding.resdecl (o : OpE) : Statement (.resdecl o) := ofE rfl rfl
theorem encoding.trap (o : OpE) : Statement (.trap o) := ofE rfl rfl
theorem encoding.rtt (o : OpE) : Statement (.rtt o) := ofE rfl rfl
theorem encoding.phint (o : OpE) : Statement (.phint o) := ofE rfl rfl
theorem encoding.bkpt (o : OpE) : Statement (.bkpt o) := ofE rfl rfl
theorem encoding.tlbinv (o : OpE) : Statement (.tlbinv o) := ofE rfl rfl
theorem encoding.tlbinvAll (o : OpE) : Statement (.tlbinvAll o) := ofE rfl rfl
theorem encoding.ctxsave (o : OpE) : Statement (.ctxsave o) := ofE rfl rfl
theorem encoding.ctxload (o : OpE) : Statement (.ctxload o) := ofE rfl rfl
theorem encoding.halt (o : OpE) : Statement (.halt o) := ofE rfl rfl
theorem encoding.getk (cmd : Nat) : Statement (.getk cmd) := ofEvent rfl
theorem encoding.endk (cmd line : Nat) : Statement (.endk cmd line) := ofEvent rfl
theorem encoding.evc (slice line : Nat) : Statement (.evc slice line) := ofEvent rfl
theorem encoding.wbe (slice line : Nat) : Statement (.wbe slice line) := ofEvent rfl
theorem encoding.invalidate (slice line : Nat) : Statement (.invalidate slice line) := ofEvent rfl
theorem encoding.invAck (slice line : Nat) : Statement (.invAck slice line) := ofEvent rfl
theorem encoding.fwd (line : Nat) : Statement (.fwd line) := ofEvent rfl
theorem encoding.fwdAnswer (line : Nat) : Statement (.fwdAnswer line) := ofEvent rfl
theorem encoding.versionSpill (unit line : Nat) : Statement (.versionSpill unit line) := ofEvent rfl
theorem encoding.cacheEvict (cluster line : Nat) : Statement (.cacheEvict cluster line) := ofEvent rfl
theorem encoding.queueTailRead (ctx q : Nat) : Statement (.queueTailRead ctx q) := ofEvent rfl
theorem encoding.launchRecordForward (die : Nat) : Statement (.launchRecordForward die) := ofEvent rfl
theorem encoding.launchAdmit (die ctx q : Nat) : Statement (.launchAdmit die ctx q) := ofEvent rfl
theorem encoding.launchRegistration (launch : Nat) : Statement (.launchRegistration launch) := ofEvent rfl
theorem encoding.eventUpdate (die : Nat) : Statement (.eventUpdate die) := ofEvent rfl
theorem encoding.distributionReport (launch die : Nat) : Statement (.distributionReport launch die) := ofEvent rfl
theorem encoding.launchEnd (launch : Nat) : Statement (.launchEnd launch) := ofEvent rfl
theorem encoding.crewStart (die : Nat) : Statement (.crewStart die) := ofEvent rfl
theorem encoding.taskDispatch (cluster : Nat) : Statement (.taskDispatch cluster) := ofEvent rfl
theorem encoding.steal (thief : Nat) : Statement (.steal thief) := ofEvent rfl
theorem encoding.stealCopy (die : Nat) : Statement (.stealCopy die) := ofEvent rfl
theorem encoding.stealAck (die : Nat) : Statement (.stealAck die) := ofEvent rfl
theorem encoding.stealConfirm (die : Nat) : Statement (.stealConfirm die) := ofEvent rfl
theorem encoding.groupRetire (g : Nat) : Statement (.groupRetire g) := ofEvent rfl
theorem encoding.crewRetire (crew : Nat) : Statement (.crewRetire crew) := ofEvent rfl
theorem encoding.taskCompletion (crew : Nat) : Statement (.taskCompletion crew) := ofEvent rfl
theorem encoding.groupStop (g : Nat) : Statement (.groupStop g) := ofEvent rfl
theorem encoding.crewSave (crew : Nat) : Statement (.crewSave crew) := ofEvent rfl
theorem encoding.crewResume (crew : Nat) : Statement (.crewResume crew) := ofEvent rfl
theorem encoding.timeSliceExpiry (crew : Nat) : Statement (.timeSliceExpiry crew) := ofEvent rfl
theorem encoding.faultRecordWrite (ctx : Nat) : Statement (.faultRecordWrite ctx) := ofEvent rfl
theorem encoding.replyRetry (ctx record : Nat) : Statement (.replyRetry ctx record) := ofEvent rfl
theorem encoding.replyDeliver (ctx record : Nat) : Statement (.replyDeliver ctx record) := ofEvent rfl
theorem encoding.replyEnd (ctx record : Nat) : Statement (.replyEnd ctx record) := ofEvent rfl
theorem encoding.replyResume (ctx record : Nat) : Statement (.replyResume ctx record) := ofEvent rfl
theorem encoding.parkedShareSwitch (ctx : Nat) : Statement (.parkedShareSwitch ctx) := ofEvent rfl
theorem encoding.replay (due : ReplayDue) : Statement (.replay due) := ofEvent rfl
theorem encoding.redundantCompare (crew : Nat) : Statement (.redundantCompare crew) := ofEvent rfl
theorem encoding.registerContext (ctx : Nat) : Statement (.registerContext ctx) := ofEvent rfl
theorem encoding.reRegisterContext (ctx : Nat) : Statement (.reRegisterContext ctx) := ofEvent rfl
theorem encoding.tearDownContext (ctx : Nat) : Statement (.tearDownContext ctx) := ofEvent rfl
theorem encoding.errorRecordWrite (die : Nat) : Statement (.errorRecordWrite die) := ofEvent rfl
theorem encoding.containment (die : Nat) : Statement (.containment die) := ofEvent rfl
theorem encoding.spuriousWake (g n : Nat) : Statement (.spuriousWake g n) := ofEvent rfl
theorem encoding.driftMonitor (tile block : Nat) : Statement (.driftMonitor tile block) := ofEvent rfl
theorem encoding.rds (slice line : Nat) : Statement (.rds slice line) := ofEvent rfl
theorem encoding.rdu (sender line : Nat) (engine : Bool) : Statement (.rdu sender line engine) := ofEvent rfl
theorem encoding.wr (slice cluster : Option Nat) (pa : Nat) (bytes : List Byte) : Statement (.wr slice cluster pa bytes) := ofEvent rfl
theorem encoding.dirty (slice line : Nat) : Statement (.dirty slice line) := ofEvent rfl
theorem encoding.vwr (unit line : Nat) : Statement (.vwr unit line) := ofEvent rfl
theorem encoding.cmt (unit line : Nat) : Statement (.cmt unit line) := ofEvent rfl
theorem encoding.dis (unit line : Nat) : Statement (.dis unit line) := ofEvent rfl
theorem encoding.recall (line : Nat) : Statement (.recall line) := ofEvent rfl
theorem encoding.cacheFill (cluster line ctx tile : Nat) : Statement (.cacheFill cluster line ctx tile) := ofEvent rfl
theorem encoding.bar0Write (off val : Nat) : Statement (.bar0Write off val) := ofEvent rfl
theorem encoding.hostRead (addr len : Nat) : Statement (.hostRead addr len) := ofEvent rfl
theorem encoding.hostWrite (addr : Nat) (bytes : List Byte) : Statement (.hostWrite addr bytes) := ofEvent rfl
theorem encoding.inboundFabricRequest (peer : Peer) (addr kind len operand cmp : Nat) (bytes : List Byte) :
    Statement (.inboundFabricRequest peer addr kind len operand cmp bytes) := ofEvent rfl
theorem encoding.fabricWriteNotAccepted (die port node : Nat) : Statement (.fabricWriteNotAccepted die port node) := ofEvent rfl
theorem encoding.memoryErrorCorrected (die addr : Nat) : Statement (.memoryErrorCorrected die addr) := ofEvent rfl
theorem encoding.hostLinkReplay (die : Nat) : Statement (.hostLinkReplay die) := ofEvent rfl
theorem encoding.dieToDieFlitRetry (die pair : Nat) : Statement (.dieToDieFlitRetry die pair) := ofEvent rfl
theorem encoding.fabricFlitRetry (die port : Nat) : Statement (.fabricFlitRetry die port) := ofEvent rfl
theorem encoding.uncorrectableError (die : Nat) (site : ErrSite) (use : ErrUse) : Statement (.uncorrectableError die site use) := ofEvent rfl
theorem encoding.hotReset : Statement .hotReset := ofEvent rfl
theorem encoding.retentionEnter (cluster : Nat) : Statement (.retentionEnter cluster) := ofEvent rfl
theorem encoding.retentionExit (cluster : Nat) (lost : Bool) : Statement (.retentionExit cluster lost) := ofEvent rfl
theorem encoding.powerRateUpdate (ctx cluster : Nat) (cap : ShareCap) (power : PowerReading) :
    Statement (.powerRateUpdate ctx cluster cap power) := ofEvent rfl
theorem encoding.nodeCapMessage (watts : Nat) : Statement (.nodeCapMessage watts) := ofEvent rfl
theorem encoding.watchdogExpiry : Statement .watchdogExpiry := ofEvent rfl
theorem encoding.firmwareUpdateStart : Statement .firmwareUpdateStart := ofEvent rfl
theorem encoding.watchdogService : Statement .watchdogService := ofEvent rfl
theorem encoding.droopStretch (cluster : Nat) : Statement (.droopStretch cluster) := ofEvent rfl
theorem encoding.seriesPairOvercurrent (die pair : Nat) (both released : Bool) : Statement (.seriesPairOvercurrent die pair both released) := ofEvent rfl
theorem encoding.thermalTrip (die sensor : Nat) : Statement (.thermalTrip die sensor) := ofEvent rfl
theorem encoding.bootStageVerify (die stage : Nat) (digest : BitVec 384) (verified rollback : Bool) : Statement (.bootStageVerify die stage digest verified rollback) := ofEvent rfl
theorem encoding.getVersion (mctp : Bool) : Statement (.getVersion mctp) := ofEvent rfl
theorem encoding.getCapabilities (mctp : Bool) : Statement (.getCapabilities mctp) := ofEvent rfl
theorem encoding.negotiateAlgorithms (mctp : Bool) : Statement (.negotiateAlgorithms mctp) := ofEvent rfl
theorem encoding.getDigests (mctp : Bool) : Statement (.getDigests mctp) := ofEvent rfl
theorem encoding.getCertificate (mctp : Bool) : Statement (.getCertificate mctp) := ofEvent rfl
theorem encoding.challenge (mctp : Bool) (nonce : BitVec 384) : Statement (.challenge mctp nonce) := ofEvent rfl
theorem encoding.getMeasurements (mctp : Bool) : Statement (.getMeasurements mctp) := ofEvent rfl
theorem encoding.powerOn : Statement .powerOn := ofEvent rfl
theorem encoding.droopRelease (cluster : Nat) : Statement (.droopRelease cluster) := ofEvent rfl

end Sys2Proof.Laws
end

