-- ==== Sys2Proof/Laws/Registers.lean ====
section
/-! SUPPORT. Writing registers: what is read after a write, and the answers of the instructions whose whole effect is on
registers. -/

namespace Sys2Proof.Machine

open Sys2Proof

theorem Group.rdV_wrV (g : Group) (r l : Nat) (w : Word) (r' l' : Nat) (h : l < 96) (h' : l' < 96) :
    (g.wrV r l w).rdV r' l' = if r' = r ∧ l' = l then w else g.rdV r' l' := by
  unfold Group.wrV Group.rdV
  simp only [NMap.get_set]
  by_cases e : 96 * r' + l' = 96 * r + l
  · rw [if_pos e, if_pos (by omega)]
  · rw [if_neg e, if_neg (by omega)]

theorem mem_lanesOf {m : Mask} {l : Nat} (h : l ∈ lanesOf m) : l < 96 := by
  unfold lanesOf at h
  simp only [List.mem_filter, List.mem_range] at h
  exact h.1

theorem Group.rdV_wrLanes (r : Nat) (f : Nat → Word) (r' l' : Nat) (h' : l' < 96) :
    ∀ (ls : List Nat) (g : Group), (∀ l ∈ ls, l < 96) →
      (g.wrLanes r f ls).rdV r' l' = if r' = r ∧ l' ∈ ls then f l' else g.rdV r' l'
  | [], g, _ => by simp [Group.wrLanes]
  | l :: ls, g, h => by
    have hl := h l List.mem_cons_self
    show ((g.wrV r l (f l)).wrLanes r f ls).rdV r' l' = _
    rw [Group.rdV_wrLanes r f r' l' h' ls _ fun x hx => h x (List.mem_cons_of_mem _ hx), Group.rdV_wrV _ _ _ _ _ _ hl h']
    by_cases hr : r' = r
    · by_cases hm : l' ∈ ls
      · simp [hr, hm]
      · by_cases he : l' = l
        · simp [hr, he]
        · simp [hr, hm, he]
    · simp [hr]

/-- The group with its v-registers replaced. -/
def Group.withV (g : Group) (v : NMap Word) : Group := { g with v }

theorem Group.wrLanes_keep (r : Nat) (f : Nat → Word) :
    ∀ (ls : List Nat) (g : Group), g.wrLanes r f ls = g.withV (g.wrLanes r f ls).v
  | [], _ => rfl
  | l :: ls, g => by
    show (g.wrV r l (f l)).wrLanes r f ls = g.withV ((g.wrV r l (f l)).wrLanes r f ls).v
    rw [Group.wrLanes_keep r f ls (g.wrV r l (f l))]
    rfl

end Sys2Proof.Machine

namespace Sys2Proof

open Sys2Proof.Machine

/-- The state of an issuer before its instruction. -/
theorem OnlyRegs.refl {s : State} {k : Issuer} (h : s.issuer = some k) :
    OnlyRegs s s k k.g k.p (fun _ _ => False) (fun _ => False) := by
  obtain ⟨hg, hp, _⟩ := State.issuer_spec h
  exact ⟨rfl, fun _ _ => rfl, hg, hp, rfl, fun _ _ => rfl, rfl, fun _ _ _ _ => rfl, fun _ _ => rfl⟩

theorem OnlyRegs.weaken {s t : State} {k : Issuer} {g : Group} {p : Split} {vd vd' : Nat → Nat → Prop}
    {sd sd' : Nat → Prop} (h : OnlyRegs s t k g p vd sd) (hv : ∀ r l, vd r l → vd' r l) (hs : ∀ r, sd r → sd' r) :
    OnlyRegs s t k g p vd' sd' :=
  { h with
    vregs := fun r l hl hn => h.vregs r l hl fun hd => hn (hv r l hd)
    sregs := fun r hn => h.sregs r fun hd => hn (hs r hd) }

/-- The issuer's group replaced by one with other v-registers. -/
theorem OnlyRegs.setV {s t : State} {k : Issuer} {g g' : Group} {p : Split} {vd : Nat → Nat → Prop} {sd : Nat → Prop}
    (h : OnlyRegs s t k g p vd sd) (hk : g' = g.withV g'.v)
    (hv : ∀ r l, l < 96 → ¬ vd r l → g'.rdV r l = g.rdV r l) :
    OnlyRegs s (t.setGroup g') k g' p vd sd := by
  have hg : g'.gid = k.g.gid := (congrArg Group.gid hk).trans (State.group_gid (g := g) h.group)
  have hsp : g'.splits = g.splits := (congrArg Group.splits hk).trans rfl
  have hsr : g'.sr = g.sr := (congrArg Group.sr hk).trans rfl
  refine ⟨h.outside, ?_, ?_, ?_, ?_, ?_, h.place, ?_, ?_⟩
  · intro n hne
    rw [State.setGroup_group, if_neg (by omega)]
    exact h.others n hne
  · rw [State.setGroup_group, if_pos (by omega), h.group]
    rfl
  · have := h.split
    unfold Group.split? at this ⊢
    rw [hsp]
    exact this
  · have : bareGroup g' = bareGroup g := (congrArg bareGroup hk).trans rfl
    rw [this, h.bare]
  · intro n hne
    have := h.splits n hne
    unfold Group.split? at this ⊢
    rw [hsp]
    exact this
  · intro r l hl hn
    rw [hv r l hl hn, h.vregs r l hl hn]
  · intro r hn
    have := h.sregs r hn
    unfold Group.rdS at this ⊢
    rw [hsr]
    exact this

/-- Lanes of one v-register written. -/
theorem OnlyRegs.wrLanes {s t : State} {k : Issuer} {g : Group} {p : Split} {vd : Nat → Nat → Prop} {sd : Nat → Prop}
    (h : OnlyRegs s t k g p vd sd) (d : Nat) (f : Nat → Word) (ls : List Nat) (hl : ∀ l ∈ ls, l < 96)
    (hd : ∀ l ∈ ls, vd d l) :
    OnlyRegs s (t.setGroup (g.wrLanes d f ls)) k (g.wrLanes d f ls) p vd sd :=
  h.setV (Group.wrLanes_keep d f ls g) fun r l hl' hn => by
    rw [Group.rdV_wrLanes d f r l hl' ls g hl, if_neg]
    rintro ⟨rfl, hm⟩
    exact hn (hd l hm)

theorem rdS_wrSr (g : Group) (p : Split) (d : Nat) (w : Word) (hd : ¬(124 ≤ d ∧ d ≤ 126)) (r : Nat) :
    Group.rdS { g with sr := NMap.set 0 g.sr d w } p r = if r = d then w else g.rdS p r := by
  unfold Group.rdS
  by_cases hr : 124 ≤ r ∧ r ≤ 126
  · rw [if_pos hr, if_pos hr, if_neg]
    rintro rfl
    exact hd hr
  · rw [if_neg hr, if_neg hr]
    exact NMap.get_set _ _ _ _ _

/-- Bits below `a * w` decide bits `w` from `a` on. -/
theorem div_mod_of_mod (n m a w p : Nat) (hp : a * w ∣ p) (h : n % p = m % p) : n / a % w = m / a % w := by
  rw [← Nat.mod_mul_right_div_self, ← Nat.mod_mul_right_div_self, ← Nat.mod_mod_of_dvd n hp, h, Nat.mod_mod_of_dvd _ hp]

theorem setBits_word (n lo v : Nat) (hv : v < 2 ^ 32) : setBits n (lo + 31) lo v / 2 ^ lo % 2 ^ 32 = v := by
  have e : lo + 31 + 1 - lo = 32 := by omega
  have hx : n % 2 ^ lo < 2 ^ lo := Nat.mod_lt _ (Nat.two_pow_pos _)
  have : setBits n (lo + 31) lo v = n % 2 ^ lo + 2 ^ lo * (v + 2 ^ 32 * (n / 2 ^ (lo + 32))) := by
    unfold setBits
    rw [e, Nat.mod_eq_of_lt hv, show lo + 31 + 1 = lo + 32 by omega, Nat.pow_add 2 lo 32]
    ring
  rw [this, Nat.add_mul_div_left _ _ (Nat.two_pow_pos _), Nat.div_eq_of_lt hx, Nat.zero_add, Nat.add_mul_mod_self_left,
    Nat.mod_eq_of_lt hv]

theorem setBits_below (n lo v : Nat) : setBits n (lo + 31) lo v % 2 ^ lo = n % 2 ^ lo := by
  have : setBits n (lo + 31) lo v = n % 2 ^ lo + 2 ^ lo * (v % 2 ^ (lo + 31 + 1 - lo) + 2 ^ 32 * (n / 2 ^ (lo + 32))) := by
    unfold setBits
    rw [show lo + 31 + 1 = lo + 32 by omega, Nat.pow_add 2 lo 32]
    ring
  rw [this, Nat.add_mul_mod_self_left, Nat.mod_mod]

theorem setBits_above (n lo v : Nat) : setBits n (lo + 31) lo v / 2 ^ (lo + 32) = n / 2 ^ (lo + 32) := by
  have e : lo + 31 + 1 - lo = 32 := by omega
  have hx : n % 2 ^ lo < 2 ^ lo := Nat.mod_lt _ (Nat.two_pow_pos _)
  have hw : v % 2 ^ 32 < 2 ^ 32 := Nat.mod_lt _ (Nat.two_pow_pos _)
  have : setBits n (lo + 31) lo v = n % 2 ^ lo + v % 2 ^ 32 * 2 ^ lo + 2 ^ (lo + 32) * (n / 2 ^ (lo + 32)) := by
    unfold setBits
    rw [e, show lo + 31 + 1 = lo + 32 by omega]
    ring
  rw [this, Nat.add_mul_div_left _ _ (Nat.two_pow_pos _), Nat.div_eq_of_lt, Nat.zero_add]
  rw [Nat.pow_add, Nat.mul_comm (2 ^ lo)]
  calc n % 2 ^ lo + v % 2 ^ 32 * 2 ^ lo < 2 ^ lo + v % 2 ^ 32 * 2 ^ lo := Nat.add_lt_add_right hx _
    _ = (v % 2 ^ 32 + 1) * 2 ^ lo := by ring
    _ ≤ 2 ^ 32 * 2 ^ lo := Nat.mul_le_mul_right _ hw

theorem Mask.word_setWord (m : Mask) (b c : Nat) (w : Word) (hc : c < 3) :
    Mask.word (Mask.setWord m b w) c = if c = b then w else Mask.word m c := by
  apply BitVec.eq_of_toNat_eq
  have key : (Mask.word (Mask.setWord m b w) c).toNat
      = setBits m.toNat (32 * b + 31) (32 * b) w.toNat / 2 ^ (32 * c) % 2 ^ 32 := by
    unfold Mask.word Mask.setWord
    rw [BitVec.toNat_ofNat, BitVec.toNat_ofNat]
    refine div_mod_of_mod _ _ _ _ (2 ^ 96) ?_ (Nat.mod_mod _ _)
    rw [← Nat.pow_add]
    exact Nat.pow_dvd_pow 2 (by omega)
  rw [key]
  by_cases e : c = b
  · rw [if_pos e, e]
    exact setBits_word _ _ _ w.isLt
  · rw [if_neg e]
    unfold Mask.word
    rw [BitVec.toNat_ofNat]
    by_cases h : c < b
    · refine div_mod_of_mod _ _ _ _ (2 ^ (32 * b)) ?_ (setBits_below ..)
      rw [← Nat.pow_add]
      exact Nat.pow_dvd_pow 2 (by omega)
    · rw [show 32 * c = 32 * b + 32 + (32 * c - (32 * b + 32)) by omega, Nat.pow_add, ← Nat.div_div_eq_div_mul,
        ← Nat.div_div_eq_div_mul, setBits_above]

theorem placelessSplit_exec (p : Split) (m : Mask) : placelessSplit { p with exec := m } = placelessSplit p := rfl

/-- One s-register written (R113): what it then holds, and that no other register changes. -/
theorem OnlyRegs.wrS {s t : State} {k : Issuer} {g : Group} {p : Split} {vd : Nat → Nat → Prop} {sd : Nat → Prop}
    (h : OnlyRegs s t k g p vd sd) (d : Nat) (w : Word) (hd : sd d) (hm : p.memb = k.p.memb) :
    ∃ p', OnlyRegs s (t.setGroup (g.wrS k.p.num d w)) k (g.wrS k.p.num d w) p' vd sd ∧ p'.memb = k.p.memb
      ∧ (∀ r l, (g.wrS k.p.num d w).rdV r l = g.rdV r l)
      ∧ ∀ r, (g.wrS k.p.num d w).rdS p' r = if r = d then sWritten k d w else g.rdS p r := by
  have hg : g.gid = k.g.gid := State.group_gid h.group
  have hk : p.num = k.p.num := Group.split_num h.split
  unfold Group.wrS
  by_cases he : 124 ≤ d ∧ d ≤ 126
  · rw [if_pos he, h.split]
    let q : Split := { p with exec := Mask.setWord p.exec (d - 124) (w &&& Mask.word p.memb (d - 124)) }
    have hr : ∀ r, (g.setSplit q).rdS q r = if r = d then sWritten k d w else g.rdS p r := by
      intro r
      unfold Group.rdS sWritten
      rw [if_pos he]
      by_cases hr : 124 ≤ r ∧ r ≤ 126
      · rw [if_pos hr, if_pos hr]
        show Mask.word (Mask.setWord p.exec (d - 124) (w &&& Mask.word p.memb (d - 124))) (r - 124) = _
        rw [Mask.word_setWord _ _ _ _ (by omega), hm]
        by_cases e : r = d
        · rw [if_pos (by omega), if_pos e]
        · rw [if_neg (by omega), if_neg e]
      · rw [if_neg hr, if_neg hr, if_neg (by omega)]
        rfl
    refine ⟨q, ⟨h.outside, ?_, ?_, ?_, h.bare, ?_, (placelessSplit_exec p _).trans h.place, h.vregs, ?_⟩, hm,
      fun _ _ => rfl, hr⟩
    · intro n hne
      rw [State.setGroup_group, if_neg (by simpa [hg] using hne)]
      exact h.others n hne
    · rw [State.setGroup_group, if_pos (by simp [hg]), h.group]
      rfl
    · rw [Group.setSplit_split, if_pos hk.symm, h.split]
      rfl
    · intro n hne
      rw [Group.setSplit_split, if_neg (by show ¬ n = p.num; omega)]
      exact h.splits n hne
    · intro r hn
      rw [hr, if_neg (by rintro rfl; exact hn hd)]
      exact h.sregs r hn
  · rw [if_neg he]
    refine ⟨p, ⟨h.outside, ?_, ?_, h.split, h.bare, h.splits, h.place, h.vregs, ?_⟩, hm, fun _ _ => rfl, ?_⟩
    · intro n hne
      rw [State.setGroup_group, if_neg (by simpa [hg] using hne)]
      exact h.others n hne
    · rw [State.setGroup_group, if_pos (by simp [hg]), h.group]
      rfl
    · intro r hn
      rw [rdS_wrSr _ _ _ _ he, if_neg (by rintro rfl; exact hn hd)]
      exact h.sregs r hn
    · intro r
      rw [rdS_wrSr _ _ _ _ he]
      unfold sWritten
      rw [if_neg he]

/-! ### Answers -/

theorem Issuer.lane_lt {k : Issuer} {l : Nat} (h : l ∈ k.lanes) : l < 96 := mem_lanesOf h

/-- A format-A instruction with one 32-bit result. -/
theorem laneResult_of {i : Instr} {o : OpA} {s : State} {k : Issuer} {f : Nat → Word} (hk : s.issuer = some k)
    (h : exec i s = .next ((s.setGroup (k.put o f)).advance k.g.gid k.p.num)) : LaneResult i o s k f := by
  have h0 := OnlyRegs.refl hk
  unfold LaneResult
  rw [h]
  unfold Issuer.put
  cases hs : o.s with
  | true =>
    rw [if_pos rfl]
    have h1 : OnlyRegs s s k k.g k.p (fun r l => true = false ∧ r = o.d ∧ l ∈ k.lanes) (fun r => true = true ∧ r = o.d) :=
      h0.weaken (fun _ _ hf => hf.elim) (fun _ hf => hf.elim)
    obtain ⟨p', h2, _, _, hr⟩ := h1.wrS o.d (f 0) ⟨rfl, rfl⟩ rfl
    obtain ⟨g3, p3, h3, _, hs3⟩ := h2.advance
    refine ⟨_, g3, p3, rfl, h3, fun hf => (by cases hf), fun _ => ?_⟩
    rw [hs3, hr, if_pos rfl]
  | false =>
    rw [if_neg Bool.false_ne_true]
    have h1 : OnlyRegs s s k k.g k.p (fun r l => false = false ∧ r = o.d ∧ l ∈ k.lanes)
        (fun r => false = true ∧ r = o.d) := h0.weaken (fun _ _ hf => hf.elim) (fun _ hf => hf.elim)
    have h2 := h1.wrLanes o.d f k.lanes (fun _ => Issuer.lane_lt) (fun _ hl => ⟨rfl, rfl, hl⟩)
    obtain ⟨g3, p3, h3, hv3, _⟩ := h2.advance
    refine ⟨_, g3, p3, rfl, h3.weaken (fun _ _ hh => hh) (fun _ hh => by cases hh.1), fun _ l hl => ?_, fun hf => (by cases hf)⟩
    rw [hv3, Group.rdV_wrLanes _ _ _ _ (Issuer.lane_lt hl) _ _ fun _ => Issuer.lane_lt, if_pos ⟨rfl, hl⟩]

/-- A format-A instruction with one 64-bit result. -/
theorem lanePair_of {i : Instr} {o : OpA} {s : State} {k : Issuer} {f : Nat → DWord} (hk : s.issuer = some k)
    (h : exec i s = .next ((s.setGroup (k.put64 o f)).advance k.g.gid k.p.num)) : LanePair i o s k f := by
  have h0 := OnlyRegs.refl hk
  unfold LanePair
  rw [h]
  unfold Issuer.put64
  cases hs : o.s with
  | true =>
    rw [if_pos rfl]
    have h1 : OnlyRegs s s k k.g k.p (fun r l => true = false ∧ (r = o.d ∨ r = o.d + 1) ∧ l ∈ k.lanes)
        (fun r => true = true ∧ (r = o.d ∨ r = o.d + 1)) := h0.weaken (fun _ _ hf => hf.elim) (fun _ hf => hf.elim)
    obtain ⟨p2, h2, hm2, _, hr2⟩ := h1.wrS o.d (lo32 (f 0)) ⟨rfl, .inl rfl⟩ rfl
    obtain ⟨p3, h3, _, _, hr3⟩ := h2.wrS (o.d + 1) (hi32 (f 0)) ⟨rfl, .inr rfl⟩ hm2
    have e : (s.setGroup (k.g.wrS k.p.num o.d (lo32 (f 0)))).setGroup
        ((k.g.wrS k.p.num o.d (lo32 (f 0))).wrS k.p.num (o.d + 1) (hi32 (f 0)))
        = s.setGroup (k.g.wrSs k.p.num o.d [lo32 (f 0), hi32 (f 0)]) := by
      have hgid : ∀ (g : Group) (n r : Nat) (w : Word), (g.wrS n r w).gid = g.gid := by
        intro g n r w
        unfold Group.wrS
        split
        · split <;> rfl
        · rfl
      show (s.setGroup _).setGroup _ = s.setGroup ((k.g.wrS k.p.num o.d (lo32 (f 0))).wrS k.p.num (o.d + 1) (hi32 (f 0)))
      unfold State.setGroup updWhere
      simp only [List.map_map, hgid]
      congr 1
      apply List.map_congr_left
      intro x _
      by_cases hx : x.gid = k.g.gid <;> simp [hx, hgid]
    rw [e] at h3
    obtain ⟨g4, p4, h4, _, hs4⟩ := h3.advance
    refine ⟨_, g4, p4, rfl, h4, fun hf => (by cases hf), fun _ => ⟨?_, ?_⟩⟩
    · rw [hs4]
      show Group.rdS ((k.g.wrS k.p.num o.d (lo32 (f 0))).wrS k.p.num (o.d + 1) (hi32 (f 0))) p3 o.d = _
      rw [hr3, if_neg (by omega), hr2, if_pos rfl]
    · rw [hs4]
      show Group.rdS ((k.g.wrS k.p.num o.d (lo32 (f 0))).wrS k.p.num (o.d + 1) (hi32 (f 0))) p3 (o.d + 1) = _
      rw [hr3, if_pos rfl]
  | false =>
    rw [if_neg Bool.false_ne_true]
    have h1 : OnlyRegs s s k k.g k.p (fun r l => false = false ∧ (r = o.d ∨ r = o.d + 1) ∧ l ∈ k.lanes)
        (fun r => false = true ∧ (r = o.d ∨ r = o.d + 1)) := h0.weaken (fun _ _ hf => hf.elim) (fun _ hf => hf.elim)
    let g1 := k.g.wrLanes o.d (fun l => lo32 (f l)) k.lanes
    let g2 := g1.wrLanes (o.d + 1) (fun l => hi32 (f l)) k.lanes
    have hkeep : g2 = k.g.withV g2.v := by
      have a := Group.wrLanes_keep (o.d + 1) (fun l => hi32 (f l)) k.lanes g1
      have b := Group.wrLanes_keep o.d (fun l => lo32 (f l)) k.lanes k.g
      show g1.wrLanes (o.d + 1) (fun l => hi32 (f l)) k.lanes = _
      rw [a]
      show (k.g.wrLanes o.d (fun l => lo32 (f l)) k.lanes).withV _ = _
      rw [b]
      rfl
    have hrd : ∀ r l, l < 96 → g2.rdV r l = if r = o.d + 1 ∧ l ∈ k.lanes then hi32 (f l)
        else if r = o.d ∧ l ∈ k.lanes then lo32 (f l) else k.g.rdV r l := by
      intro r l hl
      show (g1.wrLanes (o.d + 1) (fun l => hi32 (f l)) k.lanes).rdV r l = _
      rw [Group.rdV_wrLanes _ _ _ _ hl _ _ fun _ => Issuer.lane_lt]
      split
      · rfl
      · exact Group.rdV_wrLanes _ _ _ _ hl _ _ fun _ => Issuer.lane_lt
    have h2 := h1.setV (g' := g2) hkeep (by
      intro r l hl hn
      rw [hrd r l hl, if_neg, if_neg]
      · rintro ⟨rfl, hm⟩
        exact hn ⟨rfl, .inl rfl, hm⟩
      · rintro ⟨rfl, hm⟩
        exact hn ⟨rfl, .inr rfl, hm⟩)
    obtain ⟨g3, p3, h3, hv3, _⟩ := h2.advance
    refine ⟨_, g3, p3, rfl, h3, fun _ l hl => ⟨?_, ?_⟩, fun hf => (by cases hf)⟩
    · rw [hv3, hrd _ _ (Issuer.lane_lt hl), if_neg (by omega), if_pos ⟨rfl, hl⟩]
    · rw [hv3, hrd _ _ (Issuer.lane_lt hl), if_pos ⟨rfl, hl⟩]

theorem Group.wrS_gid (g : Group) (n r : Nat) (w : Word) : (g.wrS n r w).gid = g.gid := by
  unfold Group.wrS
  split
  · split <;> rfl
  · rfl

theorem State.setGroup_setGroup (s : State) (g g' : Group) (h : g'.gid = g.gid) :
    (s.setGroup g).setGroup g' = s.setGroup g' := by
  unfold State.setGroup updWhere
  simp only [List.map_map, h]
  congr 1
  apply List.map_congr_left
  intro x _
  by_cases hx : x.gid = g.gid <;> simp [hx]

/-- Consecutive s-registers written (R113). -/
theorem OnlyRegs.wrSs {s : State} {k : Issuer} {vd : Nat → Nat → Prop} {sd : Nat → Prop} (ws : List Word) :
    ∀ {t : State} {g : Group} {p : Split} (d : Nat), OnlyRegs s (t.setGroup g) k g p vd sd → (∀ j < ws.length, sd (d + j)) →
    p.memb = k.p.memb →
    ∃ p', OnlyRegs s (t.setGroup (g.wrSs k.p.num d ws)) k (g.wrSs k.p.num d ws) p' vd sd ∧ p'.memb = k.p.memb
      ∧ ∀ r, (g.wrSs k.p.num d ws).rdS p' r
          = if d ≤ r ∧ r < d + ws.length then sWritten k r (nth 0 ws (r - d)) else g.rdS p r := by
  induction ws with
  | nil =>
    intro t g p d h _ hm
    refine ⟨p, h, hm, fun r => ?_⟩
    rw [if_neg (by simp only [List.length_nil]; omega)]
    rfl
  | cons w ws ih =>
    intro t g p d h hd hm
    obtain ⟨p1, h1, hm1, _, hr1⟩ := h.wrS d w (hd 0 (by simp)) hm
    rw [State.setGroup_setGroup _ _ _ (Group.wrS_gid ..)] at h1
    obtain ⟨p2, h2, hm2, hr2⟩ := ih (d + 1) h1
      (fun j hj => by have := hd (j + 1) (by simp; omega); rwa [show d + (j + 1) = d + 1 + j by omega] at this) hm1
    refine ⟨p2, h2, hm2, fun r => ?_⟩
    show Group.rdS ((g.wrS k.p.num d w).wrSs k.p.num (d + 1) ws) p2 r = _
    rw [hr2, hr1]
    simp only [List.length_cons]
    by_cases e : r = d
    · subst e
      rw [if_neg (by omega), if_pos rfl, if_pos (by omega)]
      simp [nth]
    · by_cases h' : d + 1 ≤ r ∧ r < d + 1 + ws.length
      · rw [if_pos h', if_pos (by omega)]
        congr 1
        unfold nth
        rw [show r - d = (r - (d + 1)) + 1 by omega]
        simp
      · rw [if_neg h', if_neg e, if_neg (by omega)]

/-- An instruction whose whole effect is on s-registers. -/
theorem scalarWrites_of {i : Instr} {s : State} {k : Issuer} {d n : Nat} {ws : List Word} {f : Nat → Word}
    (hk : s.issuer = some k) (h : exec i s = .next ((s.setGroup (k.g.wrSs k.p.num d ws)).advance k.g.gid k.p.num))
    (hn : ws.length = n) (h0 : ws ≠ []) (hf : ∀ j < n, nth 0 ws j = f j) : ScalarWrites i s k d n f := by
  cases ws with
  | nil => exact absurd rfl h0
  | cons w ws =>
    have h1 : OnlyRegs s s k k.g k.p (fun _ _ => False) (fun r => d ≤ r ∧ r < d + n) :=
      (OnlyRegs.refl hk).weaken (fun _ _ hf => hf) (fun _ hf => hf.elim)
    obtain ⟨p1, h2, hm, _, hr1⟩ := h1.wrS d w ⟨Nat.le_refl _, by simp at hn; omega⟩ rfl
    obtain ⟨p2, h3, _, hr2⟩ := h2.wrSs ws (d + 1) (fun j hj => ⟨by omega, by simp at hn; omega⟩) hm
    obtain ⟨g3, p3, h4, _, hs⟩ := h3.advance
    refine ⟨_, g3, p3, h, h4, fun j hj => ?_⟩
    rw [hs, hr2, hr1, ← hf j hj]
    cases j with
    | zero => rw [if_neg (by omega), if_pos (by omega)]; rfl
    | succ j =>
      rw [if_pos (by simp at hn; omega), show d + (j + 1) - (d + 1) = j by omega]
      rfl

/-- An instruction whose whole effect is on the active lanes of one v-register. -/
theorem vectorWrites_of {i : Instr} {s : State} {k : Issuer} {d : Nat} {f : Nat → Word} {f' : Nat → Nat → Word}
    (hk : s.issuer = some k) (h : exec i s = .next ((s.setGroup (k.g.wrLanes d f k.lanes)).advance k.g.gid k.p.num))
    (hf : ∀ l ∈ k.lanes, f l = f' 0 l) : VectorWrites i s k d 1 f' := by
  have h1 : OnlyRegs s s k k.g k.p (fun r l => d ≤ r ∧ r < d + 1 ∧ l ∈ k.lanes) (fun _ => False) :=
    (OnlyRegs.refl hk).weaken (fun _ _ hf => hf.elim) (fun _ hf => hf)
  have h2 := h1.wrLanes d f k.lanes (fun _ => Issuer.lane_lt) (fun _ hl => ⟨Nat.le_refl _, by omega, hl⟩)
  obtain ⟨g3, p3, h3, hv3, _⟩ := h2.advance
  refine ⟨_, g3, p3, h, h3, fun j l hj hl => ?_⟩
  obtain rfl : j = 0 := by omega
  rw [hv3, Group.rdV_wrLanes _ _ _ _ (Issuer.lane_lt hl) _ _ fun _ => Issuer.lane_lt, if_pos ⟨rfl, hl⟩, hf l hl]

/-- The issuer's group and split put in place as a statement names them: a start for the frame of an instruction that changes
more than registers. -/
theorem OnlyRegs.base {s : State} {k : Issuer} (hg : s.group? k.g.gid = some k.g) (hp : k.g.split? k.p.num = some k.p)
    (g : Group) (q : Split) (eg : g.gid = k.g.gid) (es : g.splits = k.g.splits) (eq : q.num = k.p.num)
    (vd : Nat → Nat → Prop) (sd : Nat → Prop) :
    OnlyRegs s (s.setGroup (g.setSplit q)) { k with g := g, p := q } (g.setSplit q) q vd sd := by
  have hs : g.split? k.p.num = some k.p := by
    unfold Group.split? at hp ⊢
    rw [es]
    exact hp
  refine ⟨rfl, ?_, ?_, ?_, rfl, ?_, rfl, fun _ _ _ _ => rfl, fun _ _ => rfl⟩
  · intro n hne
    have : n ≠ (g.setSplit q).gid := hne
    rw [State.setGroup_group, if_neg this]
  · show (s.setGroup (g.setSplit q)).group? g.gid = _
    rw [State.setGroup_group, if_pos (show g.gid = (g.setSplit q).gid from rfl)]
    rw [eg, hg]
    rfl
  · show (g.setSplit q).split? q.num = _
    rw [Group.setSplit_split, if_pos rfl, eq, hs]
    rfl
  · intro n hne
    rw [Group.setSplit_split, if_neg hne]

/-- A clause left for the clause at `pc` (R85). -/
theorem OnlyRegs.leave {s t : State} {k : Issuer} {g : Group} {p : Split} {vd : Nat → Nat → Prop} {sd : Nat → Prop}
    (h : OnlyRegs s t k g p vd sd) (pc : DWord) :
    ∃ g' p', OnlyRegs s (t.leaveClause k.g.gid k.p.num pc) k g' p' vd sd ∧ (∀ r l, g'.rdV r l = g.rdV r l)
      ∧ (∀ r, g'.rdS p' r = g.rdS p r) ∧ StandsAt p' pc ∧ p'.exec = p.exec := by
  obtain ⟨g', p', h', hv, hs, hp⟩ := h.leaveClause pc
  exact ⟨g', p', h', hv, hs, ⟨(congrArg Split.pc hp).trans rfl, (congrArg Split.cl hp).trans rfl,
    (congrArg Split.widx hp).trans rfl, (congrArg Split.entry hp).trans rfl, (congrArg Split.rep hp).trans rfl⟩,
    (congrArg Split.exec hp).trans rfl⟩

end Sys2Proof
end

