-- ==== Sys2Proof/Tests/Slice0.lean ====
section
/-! SUPPORT. Tests: the spec's own words and worked examples, an ill-formed term for each check of `wellFormed`, and witnesses
that the hypotheses of the statements can be met. -/

namespace Sys2Proof.Tests

open Sys2Proof.Machine

set_option Elab.async false

/-! ### Small states -/

/-- Operand fields that are all zero. -/
def oA : OpA :=
  { s := false, keep := 0, d := 0, a := .reg 0, b := .reg 0, c := .reg 0, rnd := .rn, typ := .dflt, sub := 0, lit := 0 }
def oM : OpM := { d := 0, b := 0, bs := false, off := 0, wt := 0, sc := 4, cp := 0, aop := 0, rsv := false }
def oB : OpB := { reg := 0, rk := false, cond := 0, rsv := 0, disp := 0 }
def oE : OpE := { d := 0, a := 0, b := 0, c := 0, fs := 0, mode := 0 }
def oP : OpP := { n := 1, step := 0, rsv := 0 }

/-- A split about to issue `i`, the first word of its clause; its lanes 0 and 1 are active. -/
def splitAt (i : Instr) : Split :=
  { Split.placed with
    exec := 3, memb := 3, cl := some { hdr := 0xCA00000000FF0002, words := encode i ++ [0x2F00000000000000] }, widx := 1 }

/-- Its group, with the v-registers of `v` (key 96 × register + lane) and the s-registers of `sr`. -/
def groupAt (i : Instr) (v sr : NMap Word) : Group := { Group.placed 0 with v, sr, splits := [splitAt i] }

/-- The device with this group alone, its turn being executed. -/
def demo (i : Instr) (v sr : NMap Word) : State :=
  { State.reset with groups := [groupAt i v sr], crews := [Crew.placed 0], cur := some { gid := 0, split := 0 }, nextId := 1 }

/-- The issuer in it. -/
def issuer (i : Instr) (v sr : NMap Word) : Issuer := { g := groupAt i v sr, p := splitAt i, c := Crew.placed 0 }

/-- The state after an instruction, or the reset state where it stops. -/
def after (i : Instr) (s : State) : State := match exec i s with
  | .next t => t
  | _ => State.reset

/-- A register of the group after it: v-register `r` in lane `l`, or s-register `r`. -/
def vOut (i : Instr) (v sr : NMap Word) (r l : Nat) : Option Word :=
  ((after i (demo i v sr)).group? 0).map fun g => g.rdV r l
def sOut (i : Instr) (v sr : NMap Word) (r : Nat) : Option Word :=
  ((after i (demo i v sr)).group? 0).map fun g => NMap.get 0 g.sr r

/-- A state with the launch that crew 0 belongs to, with this launch record. -/
def launched (s : State) (record : BitVec 1536) : State :=
  { s with launches := [{ Launch.fresh 0 0 0 0 record 0 with registered := true, started := true, live := 1 }] }

/-- A device with one group of one crew, the turn of its first split being executed; and that issuer. -/
def host (g : Group) (c : Crew) : State :=
  { State.reset with groups := [g], crews := [c], cur := some { gid := g.gid, split := 0 }, nextId := 1 }
def who (g : Group) (c : Crew) : Issuer := { g, p := g.splits.headD (splitAt (.nop oE)), c }

/-- A group about to issue `i` whose split and whose other fields have been changed. -/
def groupOf (i : Instr) (f : Split → Split) : Group := { groupAt i [] [] with splits := [f (splitAt i)] }

def crew : Crew := Crew.placed 0

/-- Context 0 with a flat translation: a root node at 0x2000 that names a node at 0x4000 with one leaf. -/
def paged (s : State) : State := ((s.wrN 0x2000 8 0x2001).wrN 0x4000 8 0x17).setCtx 0 Context.none.flat

/-- An operation of a kind in flight, of the split of the plain state, in a paged context. -/
def opOf (kind : OpKind) : Op := { id := 7, gid := 0, split := 0, charges := [], opc := 0, kind }
def flight (kind : OpKind) : State := { paged (demo (.nop oE) [] []) with ops := [opOf kind], nextId := 8 }

/-- An access of lane 0 to a byte of device memory, or of the scratchpad. -/
def accAt (pa : Nat) : LaneAcc := { lane := 0, va := pa, place := .phys pa false, data := 0x1122334455667788, cmp := 0 }
def accScr (b : Nat) : LaneAcc := { lane := 0, va := b, place := .scratch b, data := 5, cmp := 0 }

/-! ### Words of the spec -/

/-- Table 06-9. -/
theorem test_decode_numbers :
    decode 0x4300300402C04001 0 = .ok (.ffma { oA with d := 3, a := .reg 1, b := .reg 2, c := .code 0x101, sub := 1 })
    ∧ decode 0x54004004000023C0 0 = .ok (.cvt { oA with d := 4, a := .reg 1, sub := 0, typ := .bf16, rnd := .sr })
    ∧ decode 0x54004004000004C2 0 = .ok (.cvt { oA with d := 4, a := .reg 1, sub := 2, typ := .slot }) := by decide

/-- Table 07-3. -/
theorem test_decode_memory :
    decode 0x7002008000001200 0 = .ok (.ld { oM with d := 4, b := 2, off := 0, wt := 4, sc := 4 })
    ∧ decode 0x7303008000011600 0 = .ok (.sts { oM with d := 6, b := 2, off := 8, wt := 5, sc := 4 })
    ∧ decode 0x7402018000001216 0 = .ok (.atom { oM with d := 4, b := 6, wt := 4, sc := 4, aop := 11 })
    ∧ decode 0x7A0202A00000F200 0 = .ok (.fpush { oM with d := 4, b := 10, bs := true, off := 7, wt := 4, sc := 4 }) := by decide

/-- Table 08-2. -/
theorem test_decode_sync :
    decode 0x9000000000000004 0 = .ok (.fence { oE with mode := 4 })
    ∧ decode 0x9000000000000001 0 = .ok (.fence { oE with mode := 1 })
    ∧ decode 0x9100000000000000 0 = .ok (.gbar { oE with mode := 0 })
    ∧ decode 0x9100000000000004 0 = .ok (.gbar { oE with mode := 4 })
    ∧ decode 0x9201800000000043 0 = .ok (.nbarinit { oE with d := 3, mode := 0x43 })
    ∧ decode 0x9301850000000001 0 = .ok (.nbararr { oE with d := 3, a := 20, mode := 1 })
    ∧ decode 0x9401850000000000 0 = .ok (.nbarwait { oE with d := 3, a := 20 })
    ∧ decode 0x9501800000000000 0 = .ok (.nbarsync { oE with d := 3 })
    ∧ decode 0x9600002000000200 0 = .ok (.mwatch { oM with b := 0, bs := true, sc := 4 })
    ∧ decode 0x9700000000000000 0 = .ok (.mwait oE)
    ∧ decode 0x980201A000001600 0 = .ok (.ticket { oM with d := 4, b := 6, bs := true, wt := 5, sc := 4 }) := by decide

/-- Table 09-5. -/
theorem test_decode_rational :
    decode 0xA000201404000000 0 = .ok (.henc { oA with d := 2, a := .reg 5, b := .reg 4 })
    ∧ decode 0xA000E03201000000 0 = .ok (.henc { oA with d := 14, a := .reg 12, b := .code 1 })
    ∧ decode 0xA200200806000000 0 = .ok (.hadd { oA with d := 2, a := .reg 2, b := .reg 6 })
    ∧ decode 0xA700A0200E000000 0 = .ok (.hdiv { oA with d := 10, a := .reg 8, b := .reg 14 })
    ∧ decode 0xA100801000000003 0 = .ok (.hdec { oA with d := 8, a := .reg 4, sub := 3 })
    ∧ decode 0xA900100800000008 0 = .ok (.hdig { oA with d := 1, a := .reg 2, sub := 8 }) := by decide

/-- Table 10-8. -/
theorem test_decode_matrix :
    decode 0xB201800000000000 0 = .ok (.acq { oE with d := 3 })
    ∧ decode 0xB800820000000000 0 = .ok (.mopld { oE with d := 1, a := 8 })
    ∧ decode 0xB001880020000002 0 = .ok (.mma { oE with d := 3, a := 32, b := 1, mode := 2 })
    ∧ decode 0xB41400C0000003C0 0 = .ok (.accrd { oE with d := 40, a := 3, mode := 0x3C0 })
    ∧ decode 0xB703010000720004 0 = .ok (.cmpr { oE with d := 6, a := 4, c := 7, fs := 1, mode := 4 }) := by decide

/-- Table 11-7. -/
theorem test_decode_crossbar :
    decode 0xC002828000000000 0 = .ok (.cbcfg { oE with d := 5, a := 10 })
    ∧ decode 0xC102808000000000 0 = .ok (.cbgate { oE with d := 5, a := 2 })
    ∧ decode 0xC2028301C0000404 0 = .ok (.cbrun { oE with d := 5, a := 12, b := 14, mode := 0x404 })
    ∧ decode 0xC305014000F005E1 0 = .ok (.cbread { oE with d := 10, a := 5, c := 15, mode := 0x5E1 })
    ∧ decode 0xC402820000000A00 0 = .ok (.cbwrite { oE with d := 5, a := 8, mode := 0xA00 })
    ∧ decode 0xC506014000000000 0 = .ok (.cbmap { oE with d := 12, a := 5 })
    ∧ decode 0xC90A014001600001 0 = .ok (.cbstatLife { oE with d := 20, a := 5, c := 22, mode := 1 }) := by decide

/-- Table 12-4. -/
theorem test_decode_multiply :
    decode 0xC6038201C0000000 0 = .ok (.cbprog { oE with d := 7, a := 8, b := 14 })
    ∧ decode 0xC7038000000000FF 0 = .ok (.cbcal { oE with d := 7, mode := 0xFF })
    ∧ decode 0xC80A020140C60005 0 = .ok (.cbmvm { oE with d := 20, a := 8, b := 10, c := 12, fs := 3, mode := 5 })
    ∧ decode 0xC80A020140C60045 0 = .ok (.cbmvm { oE with d := 20, a := 8, b := 10, c := 12, fs := 3, mode := 0x45 }) := by decide

/-- Table 13-7. -/
theorem test_decode_copy :
    decode 0xD001810000000000 0 = .ok (.cpy { oE with d := 3, a := 4 })
    ∧ decode 0xD001810000600001 0 = .ok (.cpy { oE with d := 3, a := 4, c := 6, mode := 1 })
    ∧ decode 0xD102828180000000 0 = .ok (.cpyl { oE with d := 5, a := 10, b := 12 })
    ∧ decode 0xD20A020000000001 0 = .ok (.tagwany { oE with d := 20, a := 8, mode := 1 })
    ∧ decode 0xD600018140000000 0 = .ok (.tbinit { oE with a := 6, b := 10 })
    ∧ decode 0xD700018140000001 0 = .ok (.tbarr { oE with a := 6, b := 10, mode := 1 })
    ∧ decode 0xD90A818001600000 0 = .ok (.tbwait { oE with d := 21, a := 6, c := 22 }) := by decide

/-- Table 14-5. -/
theorem test_decode_reduce :
    decode 0xE000020000000000 0 = .ok (.sred { oE with a := 8 })
    ∧ decode 0xE100020140000000 0 = .ok (.sredb { oE with a := 8, b := 10 })
    ∧ decode 0xE20A000000000000 0 = .ok (.srstatCnt { oE with d := 20, mode := 0 })
    ∧ decode 0xE20A000000000001 0 = .ok (.srstatErr { oE with d := 20, mode := 1 })
    ∧ decode 0xE200000000000003 0 = .ok (.srstatClr { oE with mode := 3 }) := by decide

/-- Table 15-10. -/
theorem test_decode_task :
    decode 0xE800020000000000 0 = .ok (.tspawn { oE with a := 8 })
    ∧ decode 0xE90A010000000000 0 = .ok (.tcancel { oE with d := 20, a := 4 })
    ∧ decode 0xEA00018000000000 0 = .ok (.evset { oE with a := 6 })
    ∧ decode 0xEB0A018000000001 0 = .ok (.evwait { oE with d := 20, a := 6, mode := 1 })
    ∧ decode 0xEC00020000000007 0 = .ok (.launch { oE with a := 8, mode := 7 })
    ∧ decode 0xED0A020140000000 0 = .ok (.resnew { oE with d := 20, a := 8, b := 10 })
    ∧ decode 0xEE00050000000009 0 = .ok (.respri { oE with a := 20, mode := 9 })
    ∧ decode 0xEF00050000000001 0 = .ok (.resevict { oE with a := 20, mode := 1 })
    ∧ decode 0xF000050000000000 0 = .ok (.resdemote { oE with a := 20 })
    ∧ decode 0xF10A010000000001 0 = .ok (.resqryHnd { oE with d := 20, a := 4, mode := 1 })
    ∧ decode 0xF10A020000000002 0 = .ok (.resqryScore { oE with d := 20, a := 8, mode := 2 })
    ∧ decode 0xF200020140000000 0 = .ok (.resdecl { oE with a := 8, b := 10 }) := by decide

/-- Table 16-9. -/
theorem test_decode_trap :
    decode 0xF80000000000002A 0 = .ok (.trap { oE with mode := 0x2A })
    ∧ decode 0xF900000000000000 0 = .ok (.rtt oE)
    ∧ decode 0xFA00020140B00000 0 = .ok (.phint { oE with a := 8, b := 10, c := 11 })
    ∧ decode 0xFB00000000000001 0 = .ok (.bkpt { oE with mode := 1 })
    ∧ decode 0xFC00020140000000 0 = .ok (.tlbinv { oE with a := 8, b := 10 })
    ∧ decode 0xFC00000000000001 0 = .ok (.tlbinvAll { oE with mode := 1 })
    ∧ decode 0xFD00020000000000 0 = .ok (.ctxsave { oE with a := 8 })
    ∧ decode 0xFF00000000000000 0 = .ok (.halt oE) := by decide

/-- Table 04-17 and the clause with REP after it, Table 05-5, BANKCFG (R188): headers and words. -/
theorem test_decode_control :
    decode 0x7002030000081200 0 = .ok (.ld { oM with d := 4, b := 12, off := 0x40, wt := 4 })
    ∧ decode 0x4220601F7E000000 0x3FC00000
        = .ok (.fmul { oA with keep := 1, d := 6, a := .reg 7, b := .code 0x17E, lit := 0x3FC00000 })
    ∧ decode 0x4000901F01000000 0 = .ok (.fadd { oA with d := 9, a := .reg 7, b := .code 0x101 })
    ∧ decode 0x2E0F800000000000 0 = .ok (.rep { oP with n := 3, step := 14 })
    ∧ decode 0x3300100000000000 0 = .ok (.sread { oA with d := 1 })
    ∧ decode 0x0A00200628000002 0 = .ok (.icmp { oA with d := 2, a := .reg 1, b := .code 40, sub := 2 })
    ∧ decode 0x2C0000000000000B 0 = .ok (.splitsync { oB with disp := 11 })
    ∧ decode 0x2801000000000005 0 = .ok (.brc { oB with reg := 2, disp := 5 })
    ∧ decode 0x2700000000000005 0 = .ok (.bra { oB with disp := 5 })
    ∧ decode 0x7900014000000002 0 = .ok (.bankcfg { oE with a := 5, mode := 2 }) := by decide

/-- The clause of Table 04-17: its header, and the literal that FMUL carries. -/
theorem test_clause_header :
    hdrLen 0xCA00000000F20014 = 4 ∧ clauseFault 0xCA00000000F20014
      [0x7002030000081200, 0x4220601F7E000000, 0x3FC00000, 0x4000901F01000000] 0 = none
    ∧ carriesLit 0x4220601F7E000000 = true ∧ carriesLit 0x4000901F01000000 = false := by decide

/-- The words of the tables are what `encode` writes. -/
theorem test_encode :
    encode (.fmul { oA with keep := 1, d := 6, a := .reg 7, b := .code 0x17E, lit := 0x3FC00000 })
        = [0x4220601F7E000000, 0x3FC00000]
    ∧ encode (.atom { oM with d := 4, b := 6, wt := 4, aop := 11 }) = [0x7402018000001216]
    ∧ encode (.brc { oB with reg := 2, disp := 5 }) = [0x2801000000000005]
    ∧ encode (.cbmvm { oE with d := 20, a := 8, b := 10, c := 12, fs := 3, mode := 5 }) = [0xC80A020140C60005]
    ∧ encode (.rep { oP with n := 3, step := 14 }) = [0x2E0F800000000000] := by decide

/-- R102: unassigned opcodes are rejected by name; R278: selector 5 of CBSTAT. -/
theorem test_reject :
    decode 0x3500000000000000 0 = .error (.unassigned 0x35) ∧ decode 0xF700000000000000 0 = .error (.unassigned 0xF7)
    ∧ decode 0xC90A014000000005 0 = .error (.selector 0xC9 0x02) ∧ decode 0xF100000000000003 0 = .error (.selector 0xF1 0x02) := by
  decide

/-! ### Ill-formed terms -/

/-- Format A: KEEP, D, a register and a code beyond nine bits, a reserved rounding and type that are none, a literal that no
source names. -/
theorem test_illformed_format_a :
    (Instr.iadd oA).wellFormed = true
    ∧ ∀ i ∈ [Instr.iadd { oA with keep := 4 }, .iadd { oA with d := 512 }, .iadd { oA with a := .reg 512 },
        .iadd { oA with b := .code 512 }, .iadd { oA with c := .reg 512 }, .iadd { oA with rnd := .rsv 4 },
        .iadd { oA with typ := .rsv 19 }, .iadd { oA with lit := 1 }], i.encodable = false := by decide

/-- Formats M, B, E and P: fields beyond their widths; a MODE that selects another row; an event. -/
theorem test_illformed_formats :
    (Instr.ld oM).wellFormed = true ∧ (Instr.brc oB).wellFormed = true ∧ (Instr.nop oE).wellFormed = true ∧ (Instr.rep oP).wellFormed = true
    ∧ ∀ i ∈ [Instr.ld { oM with d := 512 }, .ld { oM with b := 512 }, .ld { oM with wt := 8 }, .ld { oM with sc := 8 },
        .ld { oM with cp := 4 }, .ld { oM with aop := 16 }, .brc { oB with reg := 512 }, .brc { oB with cond := 8 },
        .nop { oE with d := 512 }, .nop { oE with a := 512 }, .nop { oE with b := 512 }, .nop { oE with c := 512 },
        .nop { oE with fs := 8 }, .rep { oP with n := 64 }, .accrd { oE with mode := 0x1000 }, .accrdMem oE,
        .tlbinvAll oE, .srstatErr oE, .hotReset], i.encodable = false := by decide

/-- Order 5 of Table 04-16 for format A: S where there is no scalar form, a type that is not accepted, a rounding that is not,
.rs with a slot, an odd pair, a kind that is not accepted, an odd s-index of a 64-bit constant, an entry's own check. -/
theorem test_illformed_a_order5 :
    ∀ i ∈ [Instr.lperm { oA with s := true }, .iadd { oA with typ := .f32 }, .iadd { oA with rnd := .rz }, .iadd { oA with rnd := .rsv 5 }, .hadd { oA with typ := .rsv 20 },
        .cvt { oA with typ := .slot, rnd := .sr }, .lea { oA with d := 1 }, .lea { oA with a := .reg 1 }, .movi oA,
        .lperm { oA with a := .code 1 }, .add64 { oA with b := .code 0x181 }, .sread { oA with sub := 0x19 },
        .hnorm { oA with sub := 2 }], i.wellFormed = false ∧ encCheck i = some 0x01 := by decide

/-- Order 6 for format A: reserved codes, undefined SUB bits, fields that must be zero, KEEP 3 where there is no SRC2, a literal
half that no source reads, an entry's own check. -/
theorem test_illformed_a_order6 :
    ∀ i ∈ [Instr.iadd { oA with typ := .rsv 20 }, .fadd { oA with rnd := .rsv 5 }, .iadd { oA with sub := 2 },
        .iadd { oA with c := .reg 1 }, .iadd { oA with b := .code 0x110 }, .regshrink { oA with d := 1, a := .code 64 },
        .iadd { oA with keep := 3 }, .iadd { oA with b := .code 0x17E, lit := 2 ^ 32 }, .iadd { oA with b := .code 0x17F, lit := 1 },
        .icmp { oA with sub := 6 }], i.wellFormed = false ∧ encCheck i = some 0x02 := by decide

/-- Formats M, E and B, orders 5 and 6. -/
theorem test_illformed_other_checks :
    (∀ i ∈ [Instr.ticket { oM with wt := 5 }, .ld { oM with d := 1, wt := 5 }, .ld { oM with b := 1 }, .atom oM, .ld { oM with sc := 3 },
        .lds { oM with cp := 1 }, .atom { oM with wt := 5, aop := 10 }, .nbarinit { oE with d := 32, mode := 16 },
        .mopld { oE with d := 4 }, .cbcfg { oE with d := 64 }, .cpy { oE with d := 64 }, .acq { oE with d := 16 },
        .mopld { oE with a := 1 }, .call oB, .ret { oB with rk := true, reg := 1 }],
      i.wellFormed = false ∧ encCheck i = some 0x01)
    ∧ ∀ i ∈ [Instr.pref { oM with d := 1 }, .ld { oM with wt := 7 }, .ld { oM with sc := 6 }, .ld { oM with cp := 3 },
        .ld { oM with aop := 1 }, .atom { oM with wt := 4, aop := 14 }, .ld { oM with rsv := true },
        .fpush { oM with bs := true, wt := 4, off := 32 }, .nop { oE with d := 1 }, .nop { oE with fs := 1 }, .nop { oE with mode := 1 },
        .fence { oE with mode := 6 }, .accrd { oE with mode := 63 + 64 }, .bra { oB with reg := 1 }, .brc { oB with cond := 6 },
        .jmpi { oB with rk := true, cond := 1 }, .ret { oB with rk := true, disp := 1 }, .rep { oP with rsv := 1 }],
      i.wellFormed = false ∧ encCheck i = some 0x02 := by decide

/-- Order 7 (R94, R98): a register beyond the group's count, an s-index above 127. -/
theorem test_bounds :
    boundBad (.iadd { oA with d := 64 }) 64 = true ∧ boundBad (.iadd { oA with d := 63 }) 64 = false
    ∧ boundBad (.iadd { oA with s := true, d := 128 }) 64 = true ∧ boundBad (.call { oB with rk := true, reg := 128 }) 64 = true := by
  decide

/-! ### Values from the manual's tables and worked examples, or worked by hand from its rules -/

/-- R124: `IADD.n32.sat` saturates at 2^32 − 1, and without .sat wraps; the other lanes stay. -/
theorem test_iadd : vOut (.iadd { oA with d := 3, a := .reg 1, b := .reg 2, typ := .n32, sub := 1 }) [(96, 0xFFFFFFFF), (192, 2)] [] 3 0
      = some 0xFFFFFFFF
    ∧ vOut (.iadd { oA with d := 3, a := .reg 1, b := .reg 2 }) [(96, 0xFFFFFFFF), (192, 2)] [] 3 0 = some 1
    ∧ vOut (.iadd { oA with d := 3, a := .reg 1, b := .reg 2 }) [(96, 0xFFFFFFFF), (192, 2), (290, 7)] [] 3 2 = some 7 := by decide

/-- R124: IABS of −2^31 wraps, and saturates under .sat; a source that is the destination. -/
theorem test_iabs : vOut (.iabs { oA with d := 1, a := .reg 1 }) [(96, 0x80000000)] [] 1 0 = some 0x80000000
    ∧ vOut (.iabs { oA with d := 1, a := .reg 1, sub := 1 }) [(96, 0x80000000)] [] 1 0 = some 0x7FFFFFFF := by decide

/-- R124: the upper word of a signed and of an unsigned product. -/
theorem test_imulh : vOut (.imulh { oA with d := 3, a := .reg 1, b := .reg 2 }) [(96, 0xFFFFFFFF), (192, 2)] [] 3 0 = some 0xFFFFFFFF
    ∧ vOut (.imulh { oA with d := 3, a := .reg 1, b := .reg 2, typ := .n32 }) [(96, 0xFFFFFFFF), (192, 2)] [] 3 0 = some 1 := by decide

/-- R124: the carry out of IADDC. -/
theorem test_iaddc : vOut (.iaddc { oA with d := 3, a := .reg 1, b := .reg 2, c := .reg 4, sub := 1 })
    [(96, 0xFFFFFFFF), (192, 0), (384, 1)] [] 3 0 = some 1 := by decide

/-- R125: less-than is signed under .i32 and unsigned under .n32. -/
theorem test_icmp : vOut (.icmp { oA with d := 2, a := .reg 1, b := .code 0, sub := 2 }) [(96, 0xFFFFFFFF)] [] 2 0 = some 1
    ∧ vOut (.icmp { oA with d := 2, a := .reg 1, b := .code 0, sub := 2, typ := .n32 }) [(96, 0xFFFFFFFF)] [] 2 0 = some 0 := by decide

/-- R126: a shift by 32 or more. -/
theorem test_shifts : vOut (.shl { oA with d := 2, a := .reg 1, b := .reg 3 }) [(96, 1), (288, 32)] [] 2 0 = some 0
    ∧ vOut (.sar { oA with d := 2, a := .reg 1, b := .reg 3 }) [(96, 0x80000000), (288, 255)] [] 2 0 = some 0xFFFFFFFF
    ∧ vOut (.rol { oA with d := 2, a := .reg 1, b := .reg 3 }) [(96, 0x80000001), (288, 33)] [] 2 0 = some 3 := by decide

/-- R127: `BFI v5, v5, v6, #0x0810` puts 8 bits at bit 16; CLZ of 0 is 32; BFX sign-extends. -/
theorem test_fields :
    vOut (.bfi { oA with d := 5, a := .reg 5, b := .reg 6, c := .code 0x17E, lit := 0x0810 }) [(480, 0xFFFFFFFF), (576, 0x112)] [] 5 0
      = some 0xFF12FFFF
    ∧ vOut (.clz { oA with d := 2, a := .reg 1 }) [] [] 2 0 = some 32
    ∧ vOut (.bfx { oA with d := 4, a := .reg 1, b := .code 4, c := .code 12, typ := .i32 }) [(96, 0x0000FFF0)] [] 4 0 = some 0xFFFFFFFF := by
  decide

/-- R128: `LEA.n32.x3 v10:v11, s8:s9, v1, #6` scales a line index by 192, and carries into the upper word. -/
theorem test_lea :
    let i : Instr := .lea { oA with d := 10, a := .code 0x188, b := .reg 1, typ := .n32, sub := 38 }
    vOut i [(96, 2)] [(8, 0xFFFFFF00), (9, 1)] 10 0 = some 0x80 ∧ vOut i [(96, 2)] [(8, 0xFFFFFF00), (9, 1)] 11 0 = some 2 := by decide

/-- R129: MOVS sign-extends 8 bits; MOVI.b64 moves a literal of 64 bits. -/
theorem test_moves : vOut (.movs { oA with d := 2, a := .reg 1, typ := .i8 }) [(96, 0x80)] [] 2 0 = some 0xFFFFFF80
    ∧ vOut (.movi { oA with d := 6, a := .code 0x17E, typ := .b64, lit := 0x100000000 }) [] [] 7 0 = some 1 := by decide

/-- R113, R129: a scalar write of an EXEC register is ANDed with MEMB. -/
theorem test_exec_write : ((after (.movi { oA with s := true, d := 124, a := .code 0xFF })
      (demo (.movi { oA with s := true, d := 124, a := .code 0xFF }) [] [])).group? 0).map (fun g => g.splits.map (·.exec)) = some [3] := by
  decide

/-- R131: an exclusive sum over the active lanes; R132: the ballot and the lowest active lane. -/
theorem test_lanes : vOut (.lscan { oA with d := 4, a := .reg 2, sub := 8 }) [(192, 5), (193, 6)] [] 4 1 = some 5
    ∧ vOut (.lred { oA with d := 4, a := .reg 2 }) [(192, 5), (193, 6)] [] 4 0 = some 11
    ∧ sOut (.lvote { oA with d := 20, a := .reg 2, sub := 2 }) [(193, 6)] [] 20 = some 2
    ∧ vOut (.lpush { oA with d := 4, a := .reg 2, b := .code 1 }) [(192, 5), (193, 6)] [] 4 1 = some 6 := by decide

/-- R97, R133: DISP counts words from the branch's own header; CALL leaves the address of the next clause. -/
theorem test_branch :
    ((after (.bra { oB with disp := 5 }) (demo (.bra { oB with disp := 5 }) [] [])).group? 0).map (fun g => g.splits.map (·.pc))
      = some [0x30028]
    ∧ sOut (.call { oB with reg := 8, rk := true, disp := 5 }) [] [] 8 = some 0x30018 := by decide

/-- R116, R117: a branch that some lanes take divides the split. -/
theorem test_brc :
    ((after (.brc { oB with reg := 2, disp := 5 }) (demo (.brc { oB with reg := 2, disp := 5 }) [(193, 1)] [])).group? 0).map
      (fun g => g.splits.map fun p => (p.exec, p.pc)) = some [(1, 0x30018), (2, 0x30028)] := by decide

/-- R134: EXIT ends the split when no lane remains. -/
theorem test_exit : ((after (.exit oE) (demo (.exit oE) [] [])).group? 0).map (·.splits) = some [] := by decide

/-- R139: SREAD of LANEID and of a scalar. -/
theorem test_sread : vOut (.sread { oA with d := 1 }) [] [] 1 1 = some 1
    ∧ sOut (.sread { oA with d := 21, sub := 2 }) [] [] 21 = some 0 := by decide

/-- R155, R156, R157: 1.5 + 2.25 = 3.75; 1/3 of nothing lost in a fused product; the minimum with a NaN is the number; the class
of −0. -/
theorem test_fp32 : vOut (.fadd { oA with d := 3, a := .reg 1, b := .reg 2 }) [(96, 0x3FC00000), (192, 0x40100000)] [] 3 0 = some 0x40700000
    ∧ vOut (.ffma { oA with d := 3, a := .reg 1, b := .reg 2, c := .reg 4 }) [(96, 0x3F800001), (192, 0x3F800001), (384, 0xBF800002)] [] 3 0
      = some 0x28800000
    ∧ vOut (.fmin { oA with d := 3, a := .reg 1, b := .reg 2 }) [(96, 0x7FC00000), (192, 0x40100000)] [] 3 0 = some 0x40100000 := by decide

/-- R158: FTOI rounds −2.5 to even, and down under .rd. -/
theorem test_ftoi : vOut (.ftoi { oA with d := 3, a := .reg 1 }) [(96, 0xC0200000)] [] 3 0 = some 0xFFFFFFFE
    ∧ vOut (.ftoi { oA with d := 3, a := .reg 1, rnd := .rd }) [(96, 0xC0200000)] [] 3 0 = some 0xFFFFFFFD := by decide

/-- R159: the exponent and the significand of 6.0, and 6.0 times 2^−1. -/
theorem test_exponent : vOut (.fexp { oA with d := 3, a := .reg 1 }) [(96, 0x40C00000)] [] 3 0 = some 2
    ∧ vOut (.fmant { oA with d := 3, a := .reg 1 }) [(96, 0x40C00000)] [] 3 0 = some 0x3FC00000
    ∧ vOut (.ldexp { oA with d := 3, a := .reg 1, b := .reg 2 }) [(96, 0x40C00000), (192, 0xFFFFFFFF)] [] 3 0 = some 0x40400000 := by decide

/-- R162, R163: a BF16 conversion rounds a tie to even; a packed E4M3 pair and its unpacking. -/
theorem test_convert : vOut (.cvt { oA with d := 4, a := .reg 1, typ := .bf16 }) [(96, 0x3F808000)] [] 4 0 = some 0x3F80
    ∧ vOut (.cvt { oA with d := 4, a := .reg 1, typ := .bf16 }) [(96, 0x3F818000)] [] 4 0 = some 0x3F82
    ∧ vOut (.unpk { oA with d := 3, a := .reg 6, typ := .f16, sub := 8 }) [(576, 0x3C000000)] [] 3 0 = some 0x3F800000 := by decide

/-- R164, R165: packed FP16 1 + 2; a dot product of bytes. -/
theorem test_packed : vOut (.hadd2 { oA with d := 3, a := .reg 1, b := .reg 2, typ := .f16 }) [(96, 0x3C003C00), (192, 0x40003C00)] [] 3 0
      = some 0x42004000
    ∧ vOut (.dot4 { oA with d := 3, a := .reg 1, b := .reg 2, c := .reg 4, typ := .i8 }) [(96, 0x01FF0203), (192, 0x04050607), (384, 10)] [] 3 0
      = some 42 := by decide

/-- R226: HENC of 1/2 under prime index 0 (p = 2^31 − 1): the inverse of 2 modulo p² is 2^61 − 2^31 + 1, whose digits are 2^30 and
2^30 − 1. -/
theorem test_henc : vOut (.henc { oA with d := 2, a := .reg 5, b := .reg 4 }) [(384, 2), (385, 2), (480, 1), (481, 1)] [] 2 0 = some 0x40000000
    ∧ vOut (.henc { oA with d := 2, a := .reg 5, b := .reg 4 }) [(384, 2), (385, 2), (480, 1), (481, 1)] [] 3 0 = some 0x3FFFFFFF := by decide

/-- What the operations of a state write to registers at their completion. -/
def writesOf (s : State) : List (List (Nat × Nat × Word)) := s.ops.map fun o => match o.kind with
  | .regs ws => ws.filter fun e => e.2.1 == 0
  | _ => []

/-- Table 10-5, first row, with slot fs2 = BF16 (ELEM 3): CMPR keeps 2.0 and the first of 1.0 and −1.0, and writes nibble 2 of
v7. -/
theorem test_cmpr :
    let i : Instr := .cmpr { oE with d := 6, a := 2, c := 7, fs := 2, mode := 4 }
    writesOf (after i (launched (demo i [(192, 0xBF803F80), (288, 0x40008000)] []) (3 <<< 640))) = [[(6, 0, 0x40003F80), (7, 0, 0xC00)]] := by
  decide +kernel

/-! ### The hypotheses of the statements can be met -/

/-- Every instruction of a list is accepted in the plain state. -/
def AllAccepted (l : List Instr) : Prop := ∀ i ∈ l, Accepted i (demo i [] []) (issuer i [] [])

/-- Integer arithmetic, comparison, shifts, logic, fields, addresses, moves (R124 to R129). -/
theorem wit_integer : AllAccepted [.iadd oA, .isub oA, .imul { oA with sub := 1 }, .imulh { oA with typ := .n32 }, .imad oA, .imin oA, .imax oA,
    .iabs oA, .ineg oA, .iaddc { oA with sub := 1 }, .icmp { oA with sub := 5 }, .sel oA, .shl oA, .shr oA, .sar oA, .rol oA, .and oA, .or oA,
    .xor oA, .not oA, .andn oA, .bfx oA, .bfi oA, .popc oA, .clz oA, .brev oA, .lea { oA with sub := 63 }, .add64 oA, .mov { oA with typ := .b64 },
    .mov oA, .movi { oA with a := .code 1 }, .movi { oA with a := .code 1, typ := .b64 }, .movs { oA with typ := .i8 },
    .movs { oA with typ := .n16 }, .iadd { oA with s := true, d := 124 }, .iadd { oA with d := 511 }] := by
  unfold AllAccepted Accepted
  decide

/-- The instructions across lanes (R130 to R132). -/
theorem wit_lanes : AllAccepted [.lperm oA, .lbcast { oA with b := .code 1 }, .lpush oA, .lshfl { oA with b := .code 1, sub := 3 },
    .lscan { oA with sub := 13 }, .lred { oA with sub := 5 }, .lvote oA, .lvote { oA with sub := 1 }, .lvote { oA with sub := 2 }, .firstlane oA] := by
  unfold AllAccepted Accepted
  decide

/-- FP32 and packed arithmetic (R155 to R166). -/
theorem wit_float : AllAccepted [.fadd { oA with rnd := .ru }, .fsub oA, .fmul oA, .ffma { oA with sub := 1 }, .fmin oA, .fmax oA,
    .fcmp { oA with sub := 6 }, .fclass oA, .frnd oA, .ftoi oA, .itof { oA with typ := .n32 }, .rcpseed oA, .rsqseed oA, .lg2seed oA, .ex2seed oA,
    .rrpi { oA with sub := 1 }, .rrln2 oA, .fexp oA, .fmant oA, .ldexp oA, .cvt { oA with typ := .e4m3, rnd := .sr }, .pk { oA with typ := .e5m2 },
    .unpk { oA with typ := .i8, sub := 24 }, .hadd2 oA, .hmul2 oA, .hfma2 oA, .dot4 { oA with typ := .i8, sub := 1 }, .dot8 oA, .dots oA,
    .scale { oA with sub := 24 }, .amaxb { oA with sub := 5 }, .cvt { oA with typ := .slot, sub := 1 }, .pk { oA with typ := .slot },
    .unpk { oA with typ := .slot }, .dot4 { oA with typ := .slot }, .qnt { oA with typ := .slot }] := by
  unfold AllAccepted Accepted
  decide

/-- A format slot that is valid, and one that is not, whose instruction traps (R151). -/
theorem wit_slots : let s := launched (demo (.cvt { oA with typ := .slot }) [] []) (4 <<< 512)
    (s.slotOk (issuer (.cvt { oA with typ := .slot }) [] []) 0 [4]).isSome = true
    ∧ s.slotOk (issuer (.cvt { oA with typ := .slot }) [] []) 0 [5] = none
    ∧ s.slotOk (issuer (.cvt { oA with typ := .slot }) [] []) 7 [4] = none
    ∧ (launched (demo (.qnt { oA with typ := .slot }) [] []) (0x30104 <<< 512)).slotOk (issuer (.qnt { oA with typ := .slot }) [] []) 0 [4, 5, 6]
      = some { FSlot.ofBits 0x30104 with scale := 1 } := by
  decide +kernel

/-- Rounding: a finite value that is not zero, at the first and last rounding. -/
theorem wit_rounding : convert (.fin false 1 0) .f32 .rn false 0 < 2 ^ 32 ∧ convert (.fin true 3 (-200)) .f32 .ru true 0 < 2 ^ 32 := by decide

/-- The control transfers, and the branch that divides, at the bounds of its clauses: no lane, every lane, some lanes with three
splits, with four and 14 entries, with four and 15 entries (R116 to R118). -/
theorem wit_branches : AllAccepted [.bra oB, .brc { oB with rk := true }, .call { oB with rk := true }, .ret { oB with rk := true },
    .jmpi { oB with rk := true, disp := 1 }, .splitsync oB, .brc oB] := by
  unfold AllAccepted Accepted
  decide

def four (n : Nat) : Group :=
  let p := splitAt (.brc oB)
  { groupAt (.brc oB) [(1, 1)] [] with splits := [{ p with
      stack := List.replicate n { exec := 1, join := 0, pc := 0 } }, { p with num := 1 }, { p with num := 2 }, { p with num := 3 }] }

theorem wit_divergence :
    let T (k : Issuer) := k.lanes.filter fun l => TEST 0 (k.g.rdV 0 l)
    let one := groupAt (.brc oB) [(1, 1)] []
    let all := groupAt (.brc oB) [(0, 1), (1, 1)] []
    T (who (groupAt (.brc oB) [] []) crew) = [] ∧ T (who all crew) = (who all crew).lanes
    ∧ T (who one crew) = [1] ∧ (who one crew).lanes = [0, 1] ∧ one.splits.length < 4
    ∧ (∀ n ∈ [14, 15], (host (four n) crew).issuer = some (who (four n) crew) ∧ T (who (four n) crew) = [1]
      ∧ ¬ (four n).splits.length < 4 ∧ (who (four n) crew).p.stack.length = n) := by decide

/-- EXIT with a live entry on the stack, EXIT of the last lanes, NOP, YIELD (R134). -/
theorem wit_exit :
    AllAccepted [.nop oE, .yield oE, .exit oE]
    ∧ (let g := groupOf (.exit oE) fun p => { p with memb := 7, stack := [{ exec := 4, join := 0, pc := 64 }] }
      let k := who g crew
      (host g crew).issuer = some k ∧ k.p.memb &&& ~~~k.p.exec = 4 ∧ (4 : Mask) &&& ~~~k.p.exec &&& 4 ≠ 0)
    ∧ (let k := issuer (.exit oE) [] []
      k.p.memb &&& ~~~k.p.exec = 0 ∧ (demo (.exit oE) [] []).mayTrap 0 0 = false ∧ ∀ p ∈ k.g.splits, p.hold ≠ .gbar) := by
  refine ⟨by unfold AllAccepted Accepted; decide, by decide, by decide⟩

/-- A REP before a word that it may precede, before one that it may not, and before one whose field it may not step; a repeat at
its last issue. -/
theorem wit_repeat :
    let i : Instr := .rep { oP with n := 3, step := 1 }
    let with_ (w : DWord) : Group := groupOf i fun p => { p with cl := some { hdr := 0xCA00000000FF0002, words := encode i ++ [w] } }
    (∀ w, Accepted i (host (with_ w) crew) (who (with_ w) crew))
    ∧ repeatable 0x27 = false ∧ repeatable 0x26 = true ∧ stepBad 14 0x0000300402000000 0 = false ∧ stepBad 1 0x0000300402000000 0 = true
    ∧ (groupOf (.nop oE) fun p => { p with rep := { act := true, step := 0, next := 1, remain := 1 } }).splits.all (fun p => p.rep.act) := by
  refine ⟨fun _ => ⟨rfl, rfl, rfl⟩, ?_⟩
  decide

/-- REGGROW at 512 in all and beyond, with and without rows; REGSHRINK to 16 rows; a request that waits (R121, R137, R138). -/
theorem wit_growth :
    let at_ (n : Nat) : Group := { groupAt (.reggrow { oA with a := .code 16 }) [] [] with count := n }
    let waits : Group := { groupOf (.reggrow { oA with a := .code 16 }) fun p => { p with hold := .grow 16 0 0 } with count := 496 }
    AllAccepted [.reggrow { oA with a := .code 8 }, .regshrink { oA with a := .code 16 }]
    ∧ (∀ n ∈ [496, 512], (host (at_ n) crew).issuer = some (who (at_ n) crew)
      ∧ ((who (at_ n) crew).con { oA with a := .code 16 }).toNat = 16 ∧ boundBad (.reggrow { oA with a := .code 16 }) n = false)
    ∧ (∀ r ∈ (host (at_ 496) crew).growReqs 0, False)
    ∧ ((host waits crew).growReqs 0).length = 1 ∧ (host waits crew).growBlocked waits = true := by
  refine ⟨by unfold AllAccepted Accepted; decide, by decide, by decide, by decide, by decide⟩

/-- Every special register that Table 05-12 names is read and written; the fence of HPRIME passes where nothing is in flight. -/
theorem wit_special :
    AllAccepted ((List.range 64).filter srAssigned |>.flatMap fun n =>
      [.sread { oA with sub := BitVec.ofNat 6 n }, .swrite { oA with a := .code 1, sub := BitVec.ofNat 6 n }])
    ∧ (demo (.swrite { oA with a := .code 1, sub := 0x20 }) [] []).fencePassed (groupAt (.swrite { oA with a := .code 1, sub := 0x20 }) [] []) 0 4 1
      = true := by
  refine ⟨by unfold AllAccepted Accepted; decide +kernel, by decide⟩

/-- Types, roundings and codes that an entry does not accept (R124 to R126, R155 to R158). -/
theorem wit_suffixes :
    (demo (.icmp oA) [] []).issuer = some (issuer (.icmp oA) [] []) ∧ encCheck (.icmp { oA with sub := 0 }) = none
    ∧ encCheck (.icmp { oA with sub := 6 }) = some 0x02 ∧ encCheck (.imulh { oA with sub := 1 }) = some 0x02
    ∧ encCheck (.sel { oA with typ := .i32 }) = some 0x01 ∧ Ty.isRsv .i32 = false ∧ encCheck (.fadd { oA with rnd := .sr }) = some 0x01
    ∧ encCheck (.fcmp { oA with sub := 7 }) = some 0x02 := by decide

/-! #### Memory -/

/-- Walks that end at level 3 (nothing there), at level 2 (a large page), and at level 0; reserved bits; the end of the address
space (R34, R35). -/
theorem wit_walk :
    let s := paged (demo (.nop oE) [] [])
    let deep := (((s.wrN 0x4000 8 0x3001).wrN 0x6000 8 0x4001).wrN 0x8000 8 0x17)
    (State.reset.ctx 0).tlb = [] ∧ (State.reset.rdN 0 8).testBit 0 = false
    ∧ (s.ctx 0).root = 0x2000 ∧ (s.rdN 0x2000 8).testBit 0 = true ∧ s.rdN 0x2000 8 / 4096 % 2 ^ 39 * 8192 = 0x4000
    ∧ (s.rdN 0x4000 8).testBit 4 = true ∧ (s.translate 0 0 .write).1 = .ok { pa := 0, nc := false, ent := 0x4000 }
    ∧ (deep.translate 0 24575 .fetch).1 = .ok { pa := 24575, nc := false, ent := 0x8000 }
    ∧ ((s.wrN 0x4000 8 0x97).translate 0 0 .read).1 = .error 0x06 ∧ ((s.wrN 0x4000 8 0x15).translate 0 0 .write).1 = .error 0x06
    ∧ (s.translate 0 (3 * 2 ^ 53) .read).1 = .error 0x05 := by decide

/-- Accesses whose checks fail, one by one, and that pass (R172, R176). -/
theorem wit_access :
    let s := paged (demo (.nop oE) [] [])
    let c := { crew with scratchSize := 4 }
    let r (s : State) (kind : Acc1) (scr : Bool) (eas : List (Nat × Nat)) := (s.checkAccess c kind 0 4 scr eas).1
    r s .load false [(0, 4), (1, 2)] = .error { cause := 0x04, lane := 1, taddr := 2 }
    ∧ r s .load false [(0, 4), (1, 8)] = .ok [{ lane := 0, va := 4, place := .phys 4 false, ent := 0x4000 },
        { lane := 1, va := 8, place := .phys 8 false, ent := 0x4000 }]
    ∧ r { s with poison := [0] } .load false [(0, 4)] = .error { cause := 0x07, lane := 0, taddr := 4 }
    ∧ r { s with poison := [0] } .atom false [(0, 4)] = .error { cause := 0x07, lane := 0, taddr := 4 }
    ∧ r State.reset .store false [(0, 4)] = .error { cause := 0x05, lane := 0, taddr := 4, write := true }
    ∧ r s .store true [(3, 4)] = .error { cause := 0x06, lane := 3, taddr := 4 }
    ∧ r s .store true [(3, 0)] = .ok [{ lane := 3, va := 0, place := .scratch 0, ent := 0 }]
    ∧ r s .red false [(3, 0xFFFFFFFF00000000)] = .ok [{ lane := 3, va := 0xFFFFFFFF00000000, place := .scratch 0, ent := 0 }] := by decide

/-- The memory instructions in a paged context, with room in the flags and without. -/
theorem wit_memory_issue :
    let m4 : OpM := { oM with wt := 4 }
    (∀ i ∈ [Instr.ld m4, .lds m4, .st m4, .sts m4, .atom m4, .red m4, .pref oM, .cwb oM, .cinv oM],
      (paged (demo i [] [])).issuer = some (issuer i [] []) ∧ encCheck i = none ∧ boundBad i 512 = false
      ∧ Room (paged (demo i [] [])) (issuer i [] []))
    ∧ (let s := paged (demo (.ld m4) [] [])
      let k := issuer (.ld m4) [] []
      (s.spots k.c .load 0 4 false [(0, 0), (1, 0)]).2.1 = none ∧ (s.spots k.c .atom 0 4 false [(0, 0), (1, 0)]).2.1 = none
      ∧ k.c.versioned = false ∧ s.replayLaunch k.c = none) := by
  refine ⟨?_, by decide⟩
  unfold Room
  decide

theorem wit_memory_held :
    let g := groupOf (.st oM) fun p => { p with cl := some { hdr := 0xCA00000000F20002, words := encode (.st oM) } }
    let s : State := { host g crew with ops := List.replicate 63 { opOf .done with charges := [(0, 2)] } }
    s.issuer = some (who g crew) ∧ ¬ Room s (who g crew) := by
  unfold Room
  decide +kernel

/-- Operations in flight whose hypotheses hold (R173 to R187). -/
theorem wit_completions :
    let c := crew
    (∀ kind ∈ [OpKind.load 4 6 false [accAt 0] 0, .load 4 1 true [accScr 0] 0, .store 5 [accAt 0xBFFFFFFFF8] 0, .store 0 [accScr 0] 0,
        .atom true 4 4 9 0 [accAt 8, { accAt 8 with lane := 1 }], .atom false 4 5 13 7 [accAt 8], .pref [accAt 0] 0, .cwb true [accAt 192],
        .ticket 4 64 (.phys 64 false) 3 0, .hres 2 2 3 [(0, 5), (1, 6)], .hdec 4 2 3 false [(0, 5)] none, .hdec 4 2 3 true [(0, 0)] (some 0),
        .hdec 4 2 3 false [(0, 0)] (some 0), .regs [(6, 0, 1)], .nbarwait 0 5, .nbarsync 0 (some 0), .nbarsync 0 none, .mwait,
        .fpush 31 127 0 [(0, 1)], .fpop 0 0 0 4 3, .bankcfg 1 1, .done, .sres [(4, 5)], .tlbinv 0 0 true, .tlbinv 1 2 false,
        .ctxsave [{ va := 0, place := .phys 0 false, len := 1 }] [9], .ctxload [{ va := 0, place := .phys 0 false, len := 0xC40 }],
        .evwait 20 0 1, .tagwall 1, .tagwany 20 1 true, .tagfirst 20 1 false, .tbwait 21 0 0 false false],
      (flight kind).op? 7 = some (opOf kind) ∧ (flight kind).group? 0 = some (groupAt (.nop oE) [] []) ∧ (flight kind).crew? 0 = some c)
    ∧ (flight (.load 4 6 false [accAt 0] 0)).accReady c [accAt 0] false false = true
    ∧ (flight (.load 4 6 false [accAt 0] 0)).accPoisoned c 16 [accAt 0] = none
    ∧ (flight (.load 4 1 true [accScr 0] 0)).scratchKeys c 0 1 = [0]
    ∧ (flight (.store 5 [accAt 0xBFFFFFFFF8] 0)).accReady c [accAt 0xBFFFFFFFF8] true false = true
    ∧ (flight (.atom true 4 4 9 0 [accAt 8])).accReady c [accAt 8] true true = true
    ∧ (flight (.ticket 4 64 (.phys 64 false) 3 0)).dirReady 0 (.wr none none []) = true := by
  refine ⟨?_, by decide⟩
  intro kind h
  simp only [List.mem_cons, List.not_mem_nil, or_false] at h
  rcases h with h | h | h | h | h | h | h | h | h | h | h | h | h | h | h | h | h | h | h | h | h | h | h | h | h | h | h | h | h | h | h | h <;>
    subst h <;> exact ⟨rfl, rfl, rfl⟩

/-- A line held dirty in the cluster's cache that a CWB writes back; a line that is not held. -/
theorem wit_maintenance :
    let l : CLine := { line := 1, ctx := 0, tile := 0, nc := true, data := List.replicate 192 7, dirty := 1, valid := 15, victim := false, way := 0 }
    let s := (flight (.cwb true [])).setCluster 0 { Cluster.reset with cache := [l] }
    (s.cluster 0).holds 1 true = some l ∧ s.canWriteBack l = true ∧ l.data.length = 192 ∧ (s.cluster 0).holds 2 true = none := by
  decide +kernel

/-- Banks: BANKCFG that is accepted, of another context's bank, of a full FIFO bank; FIFO accesses to a bank in each mode (R188 to
R192). -/
theorem wit_banks :
    let i : Instr := .bankcfg { oE with a := 5, mode := 2 }
    let f (owner : Nat) (full : Bool) : Bank :=
      { mode := .fifo, auto := false, owner := some owner, slots := [(3, { words := [], full, ph := false })] }
    let with_ (b : Bank) (s : State) : State := s.setCluster 0 { Cluster.reset with banks := b :: (Cluster.reset.banks.drop 1) }
    Accepted i (demo i [] [(5, 1)]) (issuer i [] [(5, 1)]) ∧ (demo i [] [(5, 1)]).bankBusy 0 = none
    ∧ (with_ (f 1 false) (demo i [] [])).bankBusy 0 = none ∧ ((with_ (f 0 true) (demo i [] [])).cluster 0).bank 0 = f 0 true
    ∧ (flight (.bankcfg 1 1)).bankBusy 0 = some 1
    ∧ (with_ (f 0 true) (flight (.fpop 0 3 0 4 3))).fifoTurn 0 (opOf (.fpop 0 3 0 4 3)) = true
    ∧ (with_ (f 0 false) (flight (.fpush 0 3 0 [(0, 1)]))).fifoTurn 0 (opOf (.fpush 0 3 0 [(0, 1)])) = true
    ∧ ((with_ (f 0 true) (flight .done)).cluster 0).banks.length = 32 := by
  refine ⟨⟨rfl, rfl, rfl⟩, ?_⟩
  decide +kernel

theorem wit_fifo :
    let m : OpM := { oM with b := 2, bs := true, wt := 4 }
    AllAccepted [.fpush { m with off := 31 }, .fpop m] := by
  unfold AllAccepted Accepted
  decide

/-! #### Steps -/

/-- A word whose checks fail with each cause, and one beyond a bound, of a resident issuer (Table 04-16). -/
theorem wit_encoding_traps :
    let i : Instr := .iadd { oA with typ := .f32 }
    let j : Instr := .iadd { oA with sub := 2 }
    let b : Instr := .iadd { oA with d := 511 }
    i.opcode = some 0 ∧ (demo i [] []).issuer = some (issuer i [] []) ∧ encCheck i = some 0x01 ∧ encCheck j = some 0x02
    ∧ (host { groupAt b [] [] with count := 496 } crew).issuer = some (who { groupAt b [] [] with count := 496 } crew)
    ∧ encCheck b = none ∧ boundBad b 496 = true := by decide

/-- A split within a clause whose turn is due: its word decodes, it is repeated, it does not decode. -/
theorem wit_step_runs :
    let s (i : Instr) : State := { demo i [] [] with agenda := [.clauseStart 0 0] }
    (s (.nop oE)).agenda = [.clauseStart 0 0] ∧ (s (.nop oE)).group? 0 = some (groupAt (.nop oE) [] [])
    ∧ (groupAt (.nop oE) [] []).split? 0 = some (splitAt (.nop oE)) ∧ (splitAt (.nop oE)).cl.isSome = true
    ∧ decode (nth 0 (encode (.nop oE)) 0) 0 = .ok (.nop oE)
    ∧ (splitAt (.nop oE)).rep.act = false ∧ decode 0x3500000000000000 0 = .error (.unassigned 0x35) := ⟨rfl, rfl, rfl, rfl, by decide, rfl, by decide⟩

/-- A split at a clause boundary whose turn is due, its clause in memory and its translation cached. -/
def atBoundary : State := ((State.reset.withFetchWord 64 0x2F00000000000000).translate 0 0x30000 .fetch).2

theorem wit_clause_start :
    let s := atBoundary
    s.agenda = [.clauseStart 0 0] ∧ s.group? 0 = some (Group.placed 0) ∧ (Group.placed 0).splits = [Split.placed]
    ∧ s.crew? 0 = some (Crew.placed 0) ∧ (Group.placed 0).runs = true ∧ (s.ctx 0).halt = none
    ∧ (s.translate 0 0x30000 .fetch).1 = .ok { pa := 0x30000, nc := false, ent := 0x4000 }
    ∧ ((s.translate 0 0x30008 .fetch).2.mem = s.mem ∧ ((s.translate 0 0x30008 .fetch).2.ctx 0).tlb = (s.ctx 0).tlb)
    ∧ s.rdN 0x30000 8 = 0xCA00000000FF0001 ∧ hdrLen 0xCA00000000FF0001 = 1 ∧ s.rdN 0x30008 8 = 0x2F00000000000000
    ∧ s.waitMet 0 0 0xCA00000000FF0001 = true
    ∧ { s with ops := [{ opOf .done with charges := [(0, 0)] }] }.waitMet 0 0 0xCA00000000FF0011 = false := by decide

/-- The state after a step, or the reset state where it stops. -/
def stepped (s : State) : State := match step s with
  | .next t => t
  | _ => State.reset

/-- One step runs a placed NOP as the device's first instruction: its split then stands at the next clause. -/
theorem test_first_step : ((stepped (State.reset.withFetchWord 64 0x2F00000000000000)).group? 0).map
    (fun g => g.splits.map fun p => (p.pc, p.cl.isSome)) = some [(0x30010, false)] := by decide

/-- The choice among candidates. -/
theorem pick_eq (t : Nat) : ∀ l : List Cand, pick t l = l[Config.choice t % l.length]?
  | [] => rfl
  | [x] => by simp [pick, Nat.mod_one]
  | _ :: _ :: _ => rfl

/-- Where nothing has been passed over, the choice alone decides. -/
theorem next_untried {s : State} (h : s.waiting = []) : s.next = pick s.tick s.possible := by
  have hw : ∀ c, s.waited c = 0 := by simp [State.waited, h]
  simp [State.next, State.pickFair, State.longest, hw]

/-- A device with so many groups that a split's turn is what comes next, whatever the choice: the hypothesis of the statement on
what may issue. -/
def crowd : State :=
  { State.reset with groups := List.replicate (Config.choice 0 + 1) (groupAt (.nop oE) [] []), crews := [crew] }

theorem wit_issue : crowd.agenda = [] ∧ crowd.next = some (.split 0 0) := by
  refine ⟨rfl, ?_⟩
  have hr : crowd.readySplits = List.replicate (Config.choice 0 + 1) (.split 0 0) := by
    have h1 : ∀ g ∈ crowd.groups, ((g.splits.filter fun p => crowd.ready g (crowd.ctxOf g) p && crowd.yieldDone p && crowd.turnCome p).map fun p =>
        Cand.split g.gid p.num) = [.split 0 0] := by
      intro g hg
      rw [show g = groupAt (.nop oE) [] [] from List.eq_of_mem_replicate hg]
      rfl
    unfold State.readySplits
    rw [List.flatMap_def, List.map_congr_left h1]
    simp [crowd, List.flatten_replicate_singleton]
  have hc : crowd.candidates = List.replicate (Config.choice 0 + 1) (.split 0 0)
      ++ (crowd.due.map Cand.event ++ (crowd.dueHomes ++ (crowd.dueSelf ++ refills))) := by
    unfold State.candidates
    rw [hr]
    simp only [List.flatten_cons, List.flatten_nil, List.append_nil]
  rw [next_untried rfl, show crowd.possible = crowd.candidates from rfl, show crowd.tick = 0 from rfl, pick_eq, hc]
  generalize crowd.due.map Cand.event ++ (crowd.dueHomes ++ (crowd.dueSelf ++ refills)) = r
  rw [Nat.mod_eq_of_lt (by simp; omega), List.getElem?_append_left (by simp)]
  simp

/-- An event may come next: in containment the reference oscillators alone go on. -/
theorem wit_event : ∃ k, ({ State.reset with contained := some 5 } : State).next = some (.event (.ebudgetRefill k)) := by
  rw [next_untried rfl, show ({ State.reset with contained := some 5 } : State).possible = refills from List.append_nil _, show ({ State.reset with contained := some 5 } : State).tick = 0 from rfl, pick_eq]
  have h : Config.choice 0 % refills.length < 96 := by
    simp [refills]
    exact Nat.mod_lt _ (by decide)
  refine ⟨Config.choice 0 % refills.length, ?_⟩
  generalize Config.choice 0 % refills.length = n at h
  simp [refills, h]

/-- An issuer that nobody is: an instruction without one, the only stop. -/
theorem wit_no_issuer : State.reset.issuer = none ∧ exec (.nop oE) State.reset = .fault .noIssuer := ⟨rfl, rfl⟩

/-- Memories in the canonical form that read alike. -/
theorem wit_memory : Memory.wf [(3, 1), (7, 2)] = true ∧ Memory.wf (State.reset.wrBytes 5 [1, 0, 2]).mem = true
    ∧ (State.reset.wrBytes 5 [1, 0, 2]).mem = [(5, 1), (7, 2)] := by decide

/-- A step from a state whose memory has its form. -/
theorem wit_memory_kept : Memory.wf (State.reset.withFetchWord 64 0x2F00000000000000).mem = true := by decide

/-! #### Synchronisation and codes -/

/-- The fence, barrier, monitor and ticket instructions, accepted with room (R198 to R213); a crew with one barrier of one. -/
theorem wit_sync :
    let c : Crew := { crew with bars := [{ phase := 65535, scope := 1, arrived := 0, expect := 1 }] }
    AllAccepted [.fence { oE with mode := 5 }, .gbar oE, .mwatch { oM with bs := true }, .mwait oE, .ticket { oM with bs := true, wt := 5 }]
    ∧ (∀ i ∈ [Instr.nbarinit { oE with mode := 0x10 }, .nbararr { oE with mode := 1 }, .nbarwait oE, .nbarsync oE],
      Accepted i (host (groupOf i id) c) (who (groupOf i id) c) ∧ Room (host (groupOf i id) c) (who (groupOf i id) c))
    ∧ (0 : Nat) < c.bars.length ∧ ¬ 0 < crew.bars.length ∧ 0 + 1 ≤ c.size ∧ c.size < 15 + 1
    ∧ (host (groupOf (.gbar oE) id) c).fencePassed (groupOf (.gbar oE) id) 0 1 1 = true := by
  unfold AllAccepted Accepted Room
  decide

/-- An earlier load of the split that holds a fence of the narrowest scope, and one that it does not hold. -/
theorem wit_fence :
    let x (a : LaneAcc) : Op := { opOf (.load 4 4 false [a] 0) with id := 0 }
    (demo (.nop oE) [] []).fenceHolds 0 0 (x (accAt 0)) = true ∧ (demo (.nop oE) [] []).fenceHolds 0 1 (x (accAt (2 ^ 48))) = false
    ∧ (demo (.nop oE) [] []).fenceHolds 0 5 (x (accAt (2 ^ 48))) = true := by decide

/-- Splits of a group at GBAR: the last to arrive, and one that is not. -/
theorem wit_gbar :
    let two (h : Hold) : Group := { groupAt (.gbar oE) [] [] with splits := [splitAt (.gbar oE), { splitAt (.gbar oE) with num := 1, hold := h }] }
    (∀ h ∈ [Hold.gbar, .none], (host (two h) crew).issuer = some (who (two h) crew) ∧ ((two h).splits.map fun p => p.num).Nodup)
    ∧ (splitAt (.gbar oE)).retained = none ∧ (splitAt (.gbar oE)).hold = .none := by decide

/-- A watch on a line whose slice shares it, a trigger and a spurious wake of it; a barrier phase that has passed and one that has
not; a ticket at the last doubleword of the device. -/
theorem wit_monitor :
    let w : Watch := { slice := 3, line := 9, trig := false }
    let s : State := { State.reset with groups := [groupOf (.mwait oE) fun p => { p with watch := some w }] }
    let e : DirEntry := { DirEntry.u with st := .s, sharers := 1 }
    (∃ g p, s.group? 0 = some g ∧ g.split? 0 = some p ∧ p.watch = some w)
    ∧ (({ State.reset with dir := [(0, e)] } : State).dirAt 0).sharers.getLsbD 0 = true
    ∧ ((paged State.reset).translate 0 0 .read).1 = .ok { pa := 0, nc := false, ent := 0x4000 }
    ∧ (State.reset.translate 0 0 .read).1 = .error 0x05
    ∧ State.reset.dirReady (0xBFFFFFFFF8 / 192) (.wr none none []) = true ∧ State.reset.poisoned 0xBFFFFFFFF8 8 = false
    ∧ lanesOf 3 = [0, 1] := by
  refine ⟨⟨_, _, rfl, rfl, rfl⟩, ?_⟩
  decide

/-- The code instructions, at both widths; a divisor and none; a lane with no inverse after one with one (R218 to R232). -/
theorem wit_codes :
    AllAccepted [.hadd oA, .hsub { oA with sub := 1 }, .hmul oA, .hneg oA, .henc oA, .heq oA, .hdig { oA with sub := 8 }, .hnorm { oA with sub := 3 },
      .hinv oA, .hdiv { oA with sub := 1 }, .hdec { oA with sub := 2 }]
    ∧ (let k := issuer (.hinv oA) [(0, 1)] []
      k.lanes = [] ++ 0 :: [1] ∧ k.lanes = [0] ++ 1 :: [] ∧ (VALUE k.g 2147483647 2 0 0) % 2147483647 = 1
      ∧ VALUE k.g 2147483647 2 0 1 % 2147483647 = 0)
    ∧ Room (demo (.hinv oA) [] []) (issuer (.hinv oA) [] []) := by
  unfold AllAccepted Accepted Room
  decide

/-! #### Matrix engine and crossbar -/

/-- Shares of energy: one that covers a command, one too small, and one that a command dearer than CAP takes whole (R248). -/
theorem wit_energy :
    let k := issuer (.mma oE) [] []
    let s (level capk cost : Nat) : State :=
      ({ demo (.mma oE) [] [] with shares := [(0, { level, rate := 1, capk })] }).setCtx 0 { Context.none with ecost := [cost] }
    (s 5 1 5).energyAhead k = false ∧ (s 5 1 5).bar0.failsafe = false ∧ ((s 5 1 5).share 0 0).level = 5
    ∧ (s 5 1 5).energyPay k 0 = some { level := 0, rate := 1, capk := 1 } ∧ (s 4 1 5).energyPay k 0 = none
    ∧ (s 256 1 257).energyPay k 0 = some { level := 0, rate := 1, capk := 1 } := by decide +kernel

/-- MMA and MMAS at each of their outcomes: accepted, a field marked where no scale is taken, registers beyond the count, an invalid
slot, paid for (R243 to R250). -/
theorem wit_multiply :
    AllAccepted [.mma oE, .mmas oE, .mma { oE with c := 1 }, .mma { oE with a := 508 }]
    ∧ (let s := launched (demo (.mma oE) [] []) (2 <<< 512)
      let k := issuer (.mma oE) [] []
      (s.slot k 0).mmaOk 6 = true ∧ slotsAgree (s.slot k 0) (s.slot k 0) = true ∧ s.tagsOk k ([0], [0]) = true
      ∧ s.energyPay k 0 ≠ none ∧ (launched s (9 <<< 512)).slotOk k 0 [9] = none ∧ Room s k ∧ k.g.count = 512) := by
  refine ⟨by unfold AllAccepted Accepted; decide, ?_⟩
  unfold Room
  decide +kernel

/-- The claims: an accumulator not claimed, one claimed, one of another context; the direct accesses (R238 to R253). -/
theorem wit_claims :
    AllAccepted [.acq oE, .rel oE, .accrd oE, .accwr oE, .accz oE, .accrdMem oE, .mopld oE, .cmpr oE]
    ∧ (let g : Group := { groupOf (.accz oE) id with claim := 1 }
      let s := host g crew
      s.issuer = some (who g crew) ∧ g.claim.getLsbD 0 = true ∧ s.tagsOk (who g crew) ([0], []) = true ∧ Room s (who g crew)
      ∧ ({ (s.setCore 0 { Core.reset with accs := [(0, { ctx := some 1, token := none, val := [] })] }) with
          groups := [g, { g with gid := 1, cid := 1 }], crews := [crew, { crew with cid := 1, ctx := 1 }] } : State).tagsOk (who g crew) ([0], [])
        = false) := by
  refine ⟨by unfold AllAccepted Accepted; decide, ?_⟩
  unfold Room
  decide +kernel

/-- A matrix command, and a core's queue. -/
def mcmd (kind : MCmdKind) : MCmd := { op := 7, gid := 0, ctx := 0, cid := 0, kind, age := 0, need := [], held := [] }
def queued (q : List MCmd) : State := (flight .matrix).setCore 0 { Core.reset with mq := q }

/-- A matrix command alone in its core's queue, and one behind another on the same accumulator. -/
theorem wit_matrix_commands :
    (∀ kind ∈ [MCmdKind.mma 0 0 false false false 2 2 [(0, []), (5, [])] [], .mma 0 1 true true true 2 2 [(3, [])] [(3, [])], .acq 0 false,
        .acq 0 true, .accrd 0 4 62 2 3, .accwr 0 62 2 [(1, [5, 6])], .accz 0, .accrdMem 0 2 [], .mopld 1 []],
      (queued [mcmd kind]).matrixCmd 0 7 = some (mcmd kind) ∧ mTurn ((queued [mcmd kind]).core 0).mq (mcmd kind) = true)
    ∧ (let q := [{ mcmd (.accz 0) with op := 6 }, mcmd (.accz 0)]
      (queued q).matrixCmd 0 7 = some (mcmd (.accz 0)) ∧ mTurn ((queued q).core 0).mq (mcmd (.accz 0)) = false)
    ∧ ((queued [mcmd (.accz 0)]).group? 0).isSome = true ∧ (queued []).crew? 0 = some crew
    ∧ (queued []).versionReady crew [] = true ∧ (((queued []).core 0).acc 0).token = none := by decide +kernel

/-- CMPR: elements that can be compressed, registers that are not paired, a span that does not fit (R247). -/
theorem wit_compression :
    let s := launched (demo (.cmpr oE) [] []) (2 <<< 512)
    let k := issuer (.cmpr oE) [] []
    2 ≤ (s.slot k 0).elem ∧ (s.slot k 0).elem ≤ 5 ∧ (s.slot k 0).valid = true ∧ (s.slot k 1).valid = false
    ∧ AllAccepted [.cmpr { oE with a := 2, mode := 1 }, .cmpr { oE with mode := 0xE }]
    ∧ boundBad (.cmpr { oE with a := 508, mode := 1 }) 510 = false
    ∧ keptOf .f16 [0x3C00, 0xBC00, 0x7E00, 0x4000] = [2, 3] := by
  unfold AllAccepted Accepted
  decide +kernel

/-- The crossbar instructions with their operands in range, one out of range, a tile of another context's, one that is busy (R259 to
R294). -/
theorem wit_crossbar_issue :
    AllAccepted [.cbcfg oE, .cbgate oE, .cbrun oE, .cbwrite oE, .cbmap oE, .cbmapReset oE, .cbread oE, .cbread { oE with mode := 0x800 },
      .cbprog oE, .cbcal { oE with mode := 255 }, .cbmvm oE, .cbstatSt oE, .cbstatLife oE, .cbstatCal oE, .cbstatBad oE, .cbstatOvf oE]
    ∧ (let i : Instr := .cbrun oE
      let k := issuer i [] [(0, 4096)]
      (demo i [] [(0, 4096)]).issuer = some k ∧ (k.s 0).toNat = 4096 ∧ Room (demo i [] [(0, 4096)]) k)
    ∧ ({ Tile.reset with busy := .prog { op := 9, gid := 0, ctx := 0, cid := 0, kind := .cal 1, age := 0, need := [], held := [], joins := false } 0
        } : Tile).free = false
    ∧ Tile.reset.free = true ∧ Tile.reset.lastRun = none := by
  unfold AllAccepted Accepted Room
  decide +kernel

/-- Gates at each of their outcomes: a bad word, a set line and a pool line, a rotation, a spent ration, a worn line (R261 to R268). -/
theorem wit_gates :
    let t : Tile := { Tile.reset with mode := .logic, pbase := 16, ration := 1, map0 := (List.range 32).map (16 + ·) }
    let w (op res : Nat) : DWord := BitVec.ofNat 64 (op * 2 ^ 59 + res * 2 ^ 22 + 15 * 2 ^ 4)
    let done (r : Except Nat Tile) : Nat := match r with
      | .ok u => u.life 0 0 + 10 * u.life 0 16
      | .error e => 100 + e
    done (t.gate (w 0 0) 0 0) = 101 ∧ done (t.gate (w 1 0) 0 0) = 1 ∧ done (t.gate (w 1 480) 0 0) = 10
    ∧ (t.rotate 0 0 2).isSome = false ∧ done (t.gate (BitVec.ofNat 64 (4 * 2 ^ 59 + 480 * 2 ^ 22)) 0 0) = 102
    ∧ ({ t with run0 := [(16, 1)] }.rotate 0 0 1).isSome = true ∧ done ({ t with lifeBase := 5000000000 }.gate (w 1 0) 0 0) = 103 := by
  decide +kernel

/-- A command of a tile, and a tile. -/
def tcmd (kind : TCmdKind) : TCmd := { op := 7, gid := 0, ctx := 0, cid := 0, kind, age := 0, need := [], held := [], joins := false }
def tiled (mode : TMode) (tag : Option Nat) (q : List TCmdKind) (busy : TBusy) : State :=
  (flight .tile).setTile 0 { Tile.reset with mode, tag, q := q.map tcmd, busy, pbase := 16, ration := 1 }

/-- A command at the head of an idle tile's queue, for each kind; the tile's modes and owners that their clauses name (R284). -/
theorem wit_tile_commands :
    (∀ kind ∈ [TCmdKind.cfg 0, .cfg 0x00100101, .run [] [0x0800000000000000] 1 1 0 0 1, .read 4 0 0 none 0, .write 0 480 1 [], .map 1 4, .mapReset 0,
        .prog 511 1 [], .cal 0x81, .mvm 0 511 0 511 false 20 512 [] []],
      ∀ mt ∈ [(TMode.off, none), (.logic, some 0), (.mvm, some 0), (.compat, some 1)],
        let s := tiled mt.1 mt.2 [kind] .idle
        (s.tile 0).busy = .idle ∧ (s.tile 0).q = tcmd kind :: [] ∧ (s.tile 0).tag = mt.2 ∧ (s.tile 0).mode = mt.1)
    ∧ (tiled .logic (some 0) [] .idle).crew? 0 = some crew ∧ (tiled .logic (some 0) [] .idle).tile 0 ≠ Tile.reset
    ∧ ({ Tile.reset with mode := .logic, pbase := 16, map0 := List.replicate 32 16 } : Tile).lineAt 0 480 = some 16 := by decide +kernel

/-- Tiles that are busy: at the last gate of a run, with a word that stops it; at the last row of a programming; at the last block of
a calibration; at a multiply, and one whose cells are all in range (R264 to R294). -/
theorem wit_tile_events :
    let one : TCmd := tcmd (.run [] [] 1 1 0 0 1)
    let s (ws : List DWord) := tiled .logic (some 0) [] (.run one ws 0)
    let ok (r : Except Nat Tile) : Nat := match r with
      | .ok _ => 9
      | .error e => e
    ok (((s []).tile 0).gate (nth 0 [0x0800000000000000] 0) 0 0) = 9 ∧ ok (((s []).tile 0).gate 0 0 0) = 1
    ∧ ((tiled .mvm (some 0) [] (.prog (tcmd (.prog 511 1 [])) 0)).tile 0).life 1 511 + 4 ≤ 5000000000
    ∧ ((tiled .mvm (some 0) [] (.cal (tcmd (.cal 128)) [7] false)).tile 0).busy = .cal (tcmd (.cal 128)) [7] false
    ∧ ((tiled .mvm (some 0) [] (.mvm (tcmd (.mvm 0 1 0 1 false 20 2 [] [])) none)).tile 0).busy
      = .mvm (tcmd (.mvm 0 1 0 1 false 20 2 [] [])) none
    ∧ (tiled .mvm (some 0) [] .idle).versionReady crew [] = true := by decide +kernel

/-- A tile whose cells are all in range. -/
theorem wit_multiply_cells : ∀ r c, Tile.reset.cell 1 r c < 16 := by
  intro r c
  simp [Tile.reset, Tile.cell, NMap.get]

/-! #### Copies and reductions -/

/-- The tag and barrier instructions, with a scratchpad that holds the barrier's word, live and not (R311 to R320). -/
theorem wit_tags_barriers :
    let c : Crew := { crew with scratchSize := 16 }
    let g (i : Instr) : Group := { groupAt i [] [(0, 8), (1, 0xFFFFFFFF), (2, 1023)] with splits := [splitAt i] }
    let b : OpE := { oE with b := 2 }
    (∀ i ∈ [Instr.tagwany oE, .tagwall oE, .tagfirst oE, .tagclr oE, .tbinit b, .tbarr { b with mode := 1 }, .tbexpect b, .tbwait oE, .tbinval oE,
        .cpy oE, .cpyl oE, .sred oE, .sredb b, .srstatCnt oE, .srstatErr oE, .srstatCode oE, .srstatClr oE],
      Accepted i (host (g i) c) (who (g i) c) ∧ Room (host (g i) c) (who (g i) c))
    ∧ (let s := host (g (.tbinit b)) c
      let k := who (g (.tbinit b)) c
      s.tagFree k [0, 63] = true ∧ ((k.s64 0).toNat / 2 ^ 32 = 0xFFFFFFFF ∧ (k.s64 0).toNat % 2 ^ 32 = 8)
      ∧ (s.cluster 0).liveWords.contains (s.scratchAt c 8) = false
      ∧ ((s.setCluster 0 { Cluster.reset with liveWords := [s.scratchAt c 8] }).cluster 0).liveWords.contains (s.scratchAt c 8) = true
      ∧ s.fencePassed k.g 0 1 s.nextId = true) := by
  unfold Accepted Room
  decide +kernel

/-- Waits on tags and on a barrier's word at their boundary values. -/
theorem wit_waits :
    let s (k : OpKind) : State := (flight k).setCore 0 { Core.reset with tags := [(0, { cnt := 255, done := false, ctx := none }),
      (63, { cnt := 0, done := true, ctx := none })] }
    (∀ k ∈ [OpKind.tagwany 20 (2 ^ 63) true, .tagfirst 20 1 false, .tagwall 1, .tbwait 20 0 0 true true, .tbwait 20 0 0 false true],
      (s k).op? 7 = some (opOf k) ∧ ((groupAt (.nop oE) [] []).split? 0).isSome = true)
    ∧ tagsOf (2 ^ 63) = [63] ∧ tagsOf 1 = [0] ∧ ((s .done).core 0).tag 63 = { cnt := 0, done := true, ctx := none } := by decide +kernel

/-- A descriptor of one element at an address, and a record of a copy between two. -/
def desc (elem base : Nat) : Nat := base + 0x1000100010001 * 2 ^ 64 + elem * 2 ^ 448 + 2 ^ 456
def recordOf (src dst : Nat) : BitVec 1536 := BitVec.ofNat 1536 (src + dst * 2 ^ 512 + 0x1000100010001 * 2 ^ 1024)

/-- Layouts at each of their outcomes: reserved bits, an extent of 0, an odd base of halfwords, types that differ and no slot, fit
(R304, R306). -/
theorem wit_layouts :
    let f (src dst : Nat) := (Layout.ofRecord (recordOf src dst) none none).fault (FSlot.ofBits 0)
    f (desc 4 0 + 2 ^ 472) (desc 4 8) = some 0x02 ∧ f (desc 4 0 - 2 ^ 64) (desc 4 8) = some 0x01 ∧ f (desc 2 0) (desc 2 9) = some 0x04
    ∧ f (desc 4 0) (desc 5 8) = some 0x11 ∧ f (desc 4 0) (desc 4 8) = none := by decide +kernel

/-- A copy of one byte of a paged context, checked and accepted (R306 to R310). -/
def copyOf (accepted : Bool) : Copy :=
  { id := 8, op := 7, gid := 0, cid := 0, ctx := 0, cluster := 0, core := 0, tag := 0, record := recordOf (desc 4 0) (desc 4 8), slot := 0
    sc := [0, 0, 0, 0], dc := [0, 0, 0, 0], pages := [{ va := 0, dst := false, pa := 0, nc := false, ent := 0 }, { va := 0, dst := true, pa := 0, nc := false, ent := 0 }], tb := none, need := [], held := [], hold := 0, accepted
    ageKey := 0, own := [] }

/-- Such a copy's hypotheses. -/
theorem wit_copy :
    let c := copyOf true
    let s : State := { flight (.copy 8) with copies := [c] }
    s.copy? 8 = some c ∧ s.crew? 0 = some crew ∧ crew.versioned = false
    ∧ (let l := c.layout
      l.src.elem = l.dst.elem ∧ (elemFmt l.src.elem).width = 8 ∧ l.src.fill = 0 ∧ l.src.scratch = false ∧ l.dst.scratch = false
      ∧ (l.points.map fun p => (p.src, p.dst)) = [(some 0, 16)] ∧ copyPlace c.pages false true 8 = .phys 8 false
      ∧ copyPlace c.pages false false 0 = .phys 0 false)
    ∧ { flight (.copy 8) with copies := [copyOf false] }.copy? 8 = some (copyOf false) := by decide +kernel

/-- A copy's record in memory, that its issue checks through (R304 to R318). -/
theorem wit_copy_issue :
    let s := (paged (demo (.cpy oE) [] [])).wrN 0 192 (recordOf (desc 4 0) (desc 4 8)).toNat
    let k := issuer (.cpy oE) [] []
    let l := Layout.ofRecord (recordOf (desc 4 0) (desc 4 8)) none none
    s.issuer = some k ∧ s.tagFree k [0] = true ∧ (s.translate 0 0 .read).1 = .ok { pa := 0, nc := false, ent := 0x4000 }
    ∧ s.poisoned 0 192 = false ∧ BitVec.ofNat 1536 (ofBytes ((List.range 192).map fun j => s.unitByte k.c j)) = recordOf (desc 4 0) (desc 4 8)
    ∧ (match s.copySpots k l l.points [] with
      | (.ok pages, t) => t.dstRoom k.c (l.dstSegs pages l.points)
      | _ => false) = true := by decide +kernel

/-- A reduction of one row, checked and accepted; a list that names a row beyond its table (R325 to R334). -/
def reduceRec (idx : Nat) : BitVec 512 := BitVec.ofNat 512 (0x1000 * 2 ^ 64 + 0x3000 * 2 ^ 192 + 0x3800 * 2 ^ 256 + 2 ^ 352 + 64 * 2 ^ 384
  + idx * 2 ^ 416 + 3 * 2 ^ 448 + 3 * 2 ^ 452)

/-- Its issue. -/
theorem wit_reduce_issue :
    let s := (paged (demo (.sred oE) [] [])).wrN 0 64 (reduceRec 1).toNat
    let k := issuer (.sred oE) [] []
    s.issuer = some k ∧ (SRec.ofBits (reduceRec 1).toNat).fault 0 = none
    ∧ (match s.sredChecks k [0] with
      | (.ok cs, t) => t.dstRoom k.c (cs.flatMap fun c => c.dst) && t.sredRoom k cs && cs.length == 1
      | _ => false) = true := by decide +kernel

/-- Such a command. -/
def sredOf (accepted : Bool) (ended : Option (Nat × Nat)) : Sred :=
  { id := 8, op := 7, cid := 0, ctx := 0, stack := 0, recAddr := 0, record := reduceRec 1, idx := [{ va := 0x1000, place := .phys 0x1000 false, len := 4 }]
    wgt := [], out := [], fin := 0x3800, finEnt := 0, ended, need := [], held := [], accepted, ageKey := 0 }

/-- Its acceptance, list and end. -/
theorem wit_reduce :
    let s (a : Bool) (e : Option (Nat × Nat)) : State := { flight (.sred [8]) with sreds := [sredOf a e] }
    (s false none).sred? 8 = some (sredOf false none) ∧ (s true (some (1, 65535))).sred? 8 = some (sredOf true (some (1, 65535)))
    ∧ (s true (some (0, 0))).crew? 0 = some crew ∧ (s true (some (0, 0))).dirReady (0x3800 / 192) (.wr none none []) = true
    ∧ (let r := SRec.ofBits (reduceRec 1).toNat
      let t := (s true none).wrN 0x1000 4 1
      r.nidx = 1 ∧ r.wgt = 0 ∧ r.nrows ≤ (t.sredWord (segPas (sredOf true none).idx) 0).toNat
      ∧ (List.range 4).all (fun b => !t.poisoned (nth 0 (segPas (sredOf true none).idx) b) 1) = true)
    ∧ (SRec.ofBits (reduceRec 0).toNat).nidx = 0 := by decide +kernel

/-! #### Tasks, events, launches -/

/-- The record of a grid of two crews of one group of 16 registers, with an entry of memory; a launch of it; its queue. -/
def gridRec : BitVec 1536 :=
  BitVec.ofNat 1536 (0x40000 + 2 * 2 ^ 128 + 2 ^ 144 + 2 ^ 160 + 16 * 2 ^ 320)
def grid : Launch := { Launch.fresh 0 0 0 0 gridRec 0 with admitted := [true, false, false, false] }
def inQueue (s : State) : State := s.setCtx 0 { s.ctx 0 with qhdr := [0x6000] }

/-- A task, and its entry in a ready table. -/
def aTask : TaskRec := { bits := 0x40000, addr := 0 }
def entry (st : EntrySt) : Ready := { lid := 0, ctx := 0, task := aTask, prio := 0, st, cancel := false }

/-- A unit of a launch that has started, in a paged context. -/
def unit (i : Instr) : State := inQueue { paged (demo i [] []) with launches := [{ grid with registered := true, started := true, live := 1 }] }

/-- The instructions of block 0xE8 in a unit of a started launch: accepted, with room, immediate; a version; a launch that holds
(R365 to R372). -/
theorem wit_records :
    (∀ i ∈ [Instr.tspawn oE, .tcancel oE, .evset { oE with mode := 7 }, .evwait oE, .launch oE, .resnew oE, .respri oE, .resevict oE, .resdemote oE,
        .resqryTile oE, .resqryHnd oE, .resqryScore oE, .resdecl oE],
      (unit i).issuer = some (issuer i [] []) ∧ encCheck i = none ∧ boundBad i 512 = false ∧ Room (unit i) (issuer i [] []))
    ∧ (∀ u ∈ [Update.evset 3 0 true, .resnew 0 1 15, .respri 1023 0, .tcancel 0 0, .tspawn 0 aTask],
      ({ grid with live := 1 } : Launch).holds u = false)
    ∧ ({ grid with record := gridRec ||| 1 <<< 378 } : Launch).holds (.evset 0 0 false) = true
    ∧ ((unit (.tspawn oE)).launch? 0).map (fun l => (l.ctx, l.started)) = some (0, true)
    ∧ (match ((unit (.tspawn oE)).range crew .src { nc := true } false 0 64).1 with
      | .ok l => l.all fun g => !(unit (.tspawn oE)).segPoisoned crew g.1
      | .error _ => false) = true := by
  unfold Room
  decide +kernel

/-- Entries that TCANCEL removes, marks and passes by (R363, R367). -/
theorem wit_cancel :
    let s := (demo (.nop oE) [] []).setCluster 3 { Cluster.reset with ready := [(0, some (entry .ready)), (63, some (entry (.transit 4)))] }
    (s.cluster 3).entry 0 = some (entry .ready) ∧ (s.cluster 3).entry 63 = some (entry (.transit 4)) ∧ (s.cluster 3).entry 1 = none
    ∧ (aTask.tag ^^^ 0) &&& 0xFFFF = 0 ∧ (aTask.tag ^^^ 1) &&& 1 ≠ 0 := by decide +kernel

/-- An update at the head of a die's list; a wait whose word is set and one whose word is not (R368). -/
theorem wit_events :
    let s : State := { demo (.nop oE) [] [] with updates := [(1, some 9, .evset 0 5 false), (4, none, .evset 3 5 true)] }
    s.updates = [(1, some 9, .evset 0 5 false)] ++ (4, none, .evset 3 5 true) :: [] ∧ 4 % 4 = 0 ∧ (∀ u ∈ [(1, some 9, Update.evset 0 5 false)], u.1 % 4 ≠ 0)
    ∧ (nth 0 (s.ctx 0).evDie 0).toNat = 0 ∧ (∀ u ∈ s.updates, u.1 % 4 ≠ 2) ∧ s.launches = [] := by decide +kernel

/-- A LAUNCH whose header is idle, with room in its ring, copied and not (R369); a launch admitted at home and not registered. -/
theorem wit_launching :
    let op (copied : Bool) : Op := opOf (.launch 0 0 0 copied [] gridRec)
    let s (copied : Bool) : State := { ((unit (.nop oE)).wrN 0x6040 8 0x9000) with ops := [op copied], launches := [grid] }
    nth 0 ((s false).ctx 0).qhdr 0 = 0x6000 ∧ (s false).op? 7 = some (op false) ∧ (s true).op? 7 = some (op true)
    ∧ (∀ d < 4, (0 : Nat) < (s false).rdN (0x6000 + 16 + 8 * d) 8 + 2 ^ ((s false).rdN (0x6000 + 72) 1 % 16))
    ∧ (s false).dirReady (0x9000 / 192) (.wr none none []) = true ∧ (s true).rdN 0x6000 8 = 0
    ∧ (s true).launch? 0 = some grid ∧ nth false grid.admitted grid.homeDie = true ∧ grid.registered = false := by decide +kernel

/-- Handles: none live, the lowest live, an update that is ready (R356, R370 to R372). -/
theorem wit_residency :
    let s := demo (.nop oE) [] []
    let h : Handle := { live := true, evicting := false, pri := 3, count := 1, first := 0 }
    ((s.ctx 0).handle 1023).live = false ∧ (((s.ctx 0).setHandle 0 h).handle 0).live = true ∧ s.updateReady 0 (.respri 0 1) = true
    ∧ (s.cluster 0).resFind 0 0 = none
    ∧ ({ Cluster.reset with res := [(0, some { ctx := 0, tile := 5, lines := 128, claims := 1 })] } : Cluster).resFind 0 5
      = some (0, { ctx := 0, tile := 5, lines := 128, claims := 1 }) := by decide +kernel

/-- A published record that its home die has not read; a record that a die has got, good, and refused with each cause (R340 to R343). -/
theorem wit_admission :
    let s := ((inQueue (paged State.reset)).wrN 0x6000 8 1).wrN 0x6040 8 0x9000
    let good (r : BitVec 1536) : List Nat := [r.toNat / 2 ^ 393 % 2 ^ 55, r.toNat / 2 ^ 128 % 2 ^ 16, r.toNat % 8]
    s.dies.length = 4 ∧ nth 0 (s.ctx 0).qhdr 0 = 0x6000 ∧ (s.ctx 0).registered = true ∧ nth 0 (s.ctx 0).readIdx 0 = 0 ∧ s.rdN 0x6000 8 = 1
    ∧ s.dirReady (0x6000 / 192) (.rdu 0 false) = true ∧ s.poisoned 0x6000 192 = false ∧ s.dirReady (0x9000 / 192) (.wr none none []) = true
    ∧ good gridRec = [0, 2, 0] ∧ good (gridRec ||| 1 <<< 447) = [2 ^ 54, 2, 0] ∧ good 1 = [0, 0, 1] ∧ good (gridRec ||| 1) = [0, 2, 1]
    ∧ ((s.setDie 3 { s.die 3 with got := [(0, 0, 0, gridRec)] }).die 3).got = [(0, 0, 0, gridRec)] := by decide +kernel

/-- A launch whose wait mask is set when it is registered, that one die has admitted; a die that has taken its share (R354). -/
theorem wit_distribution :
    let s : State := { inQueue (paged State.reset) with launches := [grid] }
    s.launch? 0 = some grid ∧ s.dies.length = 4 ∧ grid.admitted.length = 4 ∧ grid.taken = [none, none, none, none]
    ∧ nth false grid.admitted grid.homeDie = true ∧ grid.f 376 376 = 0 ∧ BitVec.ofNat 256 (grid.record.toNat / 2 ^ 1024) = 0
    ∧ ((List.range 2).filter fun c => s.dieOf 0 (grid.crewRange c) c == 1) = [1]
    ∧ nth none ({ grid with taken := [some 2, none, none, none] } : Launch).taken 0 = some 2 := by decide +kernel

/-- A launch that is finished, with a completion word in the context's memory, with none, and with one that cannot be written (R347). -/
theorem wit_launch_ends :
    let done (va : Nat) : Launch := { grid with registered := true, started := true, reported := [true, true, true, true]
                                                record := gridRec ||| BitVec.ofNat 1536 (va * 2 ^ 448) }
    let s (va : Nat) : State := { inQueue (paged State.reset) with launches := [done va] }
    (s 8).launch? 0 = some (done 8) ∧ (s 8).endReady (done 8) = true ∧ (s 0).endReady (done 0) = true ∧ (done 8).f 511 448 = 8
    ∧ (done 0).f 511 448 = 0 ∧ ((s 8).translate 0 8 .write).1 = .ok { pa := 8, nc := false, ent := 0x4000 }
    ∧ ((s (2 ^ 63)).translate 0 (2 ^ 63) .write).1 = .error 0x05 ∧ (done 8).live = 0 ∧ (s 8).crews = [] := by decide +kernel

/-! #### Starting, stealing, retirement -/

/-- The first crew of a grid, that its best cluster can start; the entry that a table's cluster can start (R360, R361). -/
theorem wit_starts :
    let s : State := { (paged State.reset) with launches := [{ grid with registered := true, started := true }] }
    let c := s.setDie 0 { s.die 0 with crewQ := [(0, 0)] }
    let t := s.setCluster 1 { Cluster.reset with ready := [(0, some (entry .ready))] }
    (c.die 0).crewQ = (0, 0) :: [] ∧ c.canStart 0 (grid.crewSpec 0) = true ∧ c.canStart 23 (grid.crewSpec 0) = true ∧ grid.redundant = false
    ∧ c.resizeReady 0 0 = true ∧ (c.cluster 0).cache = [] ∧ (s.cluster 0).retention = false
    ∧ t.readyEntries 1 = [(0, entry .ready)] ∧ t.canStart 1 (grid.taskSpec aTask 0) = true ∧ aTask.startFault = none
    ∧ ((s.setDie 0 { s.die 0 with insQ := [entry .ready] }).die 0).insQ = entry .ready :: [] ∧ (s.cluster 0).freeSlot = some 0 := by decide +kernel

/-- The best cluster of die 0 for that crew is its lowest: nothing distinguishes them. -/
theorem wit_best : Best State.reset (grid.crewSpec 0) (fun k => k / 24 = 0) 0 := by
  refine ⟨rfl, fun h hh => ?_⟩
  have hs : ∀ k, State.reset.score k (grid.crewSpec 0).ctx (grid.crewSpec 0).ranges = State.reset.score 0 (grid.crewSpec 0).ctx (grid.crewSpec 0).ranges := fun _ => rfl
  have hp : ∀ k, k < 24 → ∀ n, State.reset.pairDiff k n = State.reset.pairDiff 0 n := by
    intro k hk n
    have : ∀ k < 24, State.reset.current' k = 0 ∧ State.reset.current' (partner k) = 0 := by decide +kernel
    have h0 := this 0 (by decide)
    have h1 := this k hk
    simp only [State.pairDiff, h0, h1]
  refine ⟨by rw [hs], fun _ => ⟨?_, fun _ => Nat.zero_le _⟩⟩
  rw [hp h (by omega)]

/-- A group whose splits have ended, and its crew; a version of the crew that is ready to be committed (R23, R385). -/
def spent : Group := { Group.placed 0 with splits := [] }
def ended (c : Crew) : State :=
  { paged State.reset with groups := [{ spent with retired := true }], crews := [c], nextId := 1
                           launches := [{ grid with registered := true, started := true, live := 1 }] }

theorem wit_retirement :
    let s : State := { State.reset with groups := [spent], crews := [crew] }
    let v : Version := { Version.empty 0 0 with bytes := [(200, some 7)], lines := [1] }
    s.group? 0 = some spent ∧ spent.splits = [] ∧ spent.retired = false ∧ s.ops = []
    ∧ (ended crew).crew? 0 = some crew ∧ (ended crew).crewDone crew = true ∧ crew.restart = false ∧ crew.task = none ∧ crew.role = .single
    ∧ crew.discarded = false ∧ (ended crew).version? 0 = none
    ∧ ({ ended crew with versions := [v], dir := [(1, { DirEntry.u with st := .v })] } : State).dirReady 1 (.cmt 0) = true
    ∧ ({ ended crew with versions := [v] } : State).version? 0 = some v ∧ NMap.wf none v.bytes = true := by decide +kernel

/-- A task with one successor counter, of value 2 and of value 1: it is counted down, and it releases its task (R350 to R353). -/
def withSucc : TaskRec := { bits := BitVec.ofNat 512 (64 * 2 ^ 128), addr := 0 }

theorem wit_completion :
    let c : Crew := { crew with task := some withSucc }
    let s (v : Nat) : State := (ended c).wrN 64 4 v
    let judged (v : Nat) : Option (Nat × Bool) := match (s v).counters (s v) c (succCounts withSucc.succs) with
      | (.ok [k], t) => if t.poisoned (k.pa - 64) 68 || !t.dirReady (k.pa / 192) (.wr none none []) then none else some (k.n, k.free.isSome)
      | _ => none
    (s 1).crew? 0 = some c ∧ succCounts withSucc.succs = [(64, 1)] ∧ judged 2 = some (1, false) ∧ judged 1 = some (1, true)
    ∧ (match ((s 0).counters (s 0) c (succCounts withSucc.succs)).1 with
      | .ok _ => 0
      | .error e => e.1) = 0x0D
    ∧ (s 1).replayLaunch c = none ∧ (s 1).version? 0 = none ∧ ((s 1).launch? 0).isSome = true := by decide +kernel

/-- A redundant unit and its shadow, both ended, their signatures equal; a launch to be replayed, after none and after three replays
(R402 to R409). -/
theorem wit_redundancy :
    let p : Crew := { crew with role := .primary 1 }
    let d : Crew := { crew with cid := 1, role := .shadow 0 }
    let s : State := { State.reset with crews := [p, d] }
    let l : Launch := { grid with record := gridRec ||| 1 <<< 378, snaps := [(3, [(73728, 1)])] }
    s.crew? 0 = some p ∧ s.crew? 1 = some d ∧ s.crewDone p = true ∧ s.crewDone d = true ∧ s.sigOf 0 = s.sigOf 1 ∧ p.reruns = 0
    ∧ { s with versions := [{ Version.empty 0 0 with bytes := [(5, some 1)], vas := [(5, some 5)] }] }.sigOf 0 ≠ s.sigOf 1
    ∧ l.replayable = true ∧ l.conflict = false ∧ l.replays < 3 ∧ 73728 / 24576 = 3 ∧ NMap.wf unlisted [(73728, (1 : Byte))] = true
    ∧ { s with launches := [l] }.launch? 0 = some l := by decide +kernel

/-- A trap in normal mode, with a handler and with none, and in handler mode; a versioned unit; the instructions that trap, return,
hint and halt (R376 to R401). -/
theorem wit_traps :
    let h (i : Instr) : Group := groupOf i fun p => { p with hmode := true }
    let v : Crew := { crew with versioned := true }
    (∀ i ∈ [Instr.trap { oE with mode := 255 }, .bkpt oE, .rtt oE, .phint oE, .tlbinv oE, .tlbinvAll oE, .halt oE, .ctxsave oE, .ctxload oE],
      Accepted i (host (h i) crew) (who (h i) crew) ∧ Room (host (h i) crew) (who (h i) crew)
      ∧ Accepted i (demo i [] []) (issuer i [] []) ∧ (who (h i) crew).p.hmode = true ∧ (issuer i [] []).p.hmode = false)
    ∧ (demo (.trap oE) [] []).group? 0 = some (groupAt (.trap oE) [] []) ∧ (groupAt (.trap oE) [] []).split? 0 = some (splitAt (.trap oE))
    ∧ ((demo (.trap oE) [] []).ctx 0).tvec = 0
    ∧ (((demo (.trap oE) [] []).setCtx 0 { Context.none with tvec := 0x8000 }).ctx 0).tvec ≠ 0
    ∧ ({ host (h (.trap oE)) v with versions := [Version.empty 0 0] } : State).version? 0 = some (Version.empty 0 0)
    ∧ ((host (h (.halt oE)) crew).ctx 0).halt = none ∧ (h (.phint oE)).stopReq = false := by
  unfold Accepted Room
  decide +kernel

/-- A split of the handler that returns to a repeated word, one of a versioned unit, one of a revived group. -/
def returning (w : Word) : Group :=
  groupOf (.rtt oE) fun p => { p with hmode := true, trap := { TrapRegs.zero with tcause := w, trep := 0x1F0C1 } }

theorem wit_return :
    (∀ w, Accepted (.rtt oE) (host (returning w) crew) (who (returning w) crew) ∧ (who (returning w) crew).p.trap.tcause = w)
    ∧ (0 : Word).getLsbD 31 = false ∧ (0x80000000 : Word).getLsbD 31 = true ∧ (0x40000000 : Word).getLsbD 30 = true :=
  ⟨fun _ => ⟨⟨rfl, rfl, rfl⟩, rfl⟩, by decide⟩

/-- An image in memory that CTXLOAD accepts, at a line (R400). -/
theorem wit_images :
    let g : Group := { groupOf (.ctxload oE) (fun p => { p with hmode := true }) with count := 16 }
    let s := (paged (host g crew)).wrN 0 16 (16 + 2 * 2 ^ 64)
    s.issuer = some (who g crew) ∧ boundBad (.ctxload oE) 16 = false ∧ g.count ≤ 512 ∧ g.count % 16 = 0 ∧ g.gidx < 16 ∧ g.prio < 16
    ∧ (∀ p ∈ g.splits, p.stack.length ≤ 16)
    ∧ (match s.range crew .src {} false 0 0xC40 with
      | (.ok a, t) => a.all (fun x => !t.segPoisoned crew x.1) && ofBytes ((t.loadBytes crew (a.map Prod.fst)).take 8) == 16
      | _ => false) = true
    ∧ s.lineReady crew 0 false true = true := by decide +kernel

/-! #### Fault service and pre-emption -/

/-- A fault record to be written, with room in the ring; a group parked on it, and its reply (R381, R382). -/
def recOf (kind : Nat) (index : Option Nat) : FaultRec :=
  { id := 5, kind, cause := 5, ncause := 0, fetch := false, write := false, lane := 0, tag := 0, loc := 0, pc := 0, addr := 0, ngrp := 1, shown := 1, index }
def parkedAt (kind : Nat) (index : Option Nat) : State :=
  let g := { groupAt (.nop oE) [] [] with parked := some { record := 5, split := 0, trap := { cause := 5 } } }
  { paged (host g crew) with
    ctxs := [(0, { Context.none.flat with fring := 0x9000, frlog := 1, faults := [recOf kind index], nextFault := 6 })] }

theorem wit_fault_ring :
    let s := parkedAt 0 none
    (s.ctx 0).faults = [] ++ recOf 0 none :: [] ∧ (s.ctx 0).fring = 0x9000 ∧ s.rdN 0x9000 8 - s.rdN 0x9008 8 < 2 ^ (s.ctx 0).frlog
    ∧ s.replyPending (s.ctx 0) 0 = false ∧ s.dirReady (0x9040 / 192) (.wr none none []) = true ∧ s.dirReady (0x9000 / 192) (.wr none none []) = true
    ∧ (∀ n ∈ [1, 2, 3, 4], ∀ kind ∈ [0, 1, 2, 3, 4], ((parkedAt kind (some 0)).wrN 0x9060 8 n).rdN 0x9060 8 = n
      ∧ ((parkedAt kind (some 0)).ctx 0).faults.find? (fun q => q.id == 5) = some (recOf kind (some 0))
      ∧ ((parkedAt kind (some 0)).groups.filter fun g => g.parked.any fun k => k.record == 5).length = 1)
    ∧ (parkedAt 0 none).saved = [] := by decide +kernel

/-- A group that stops at PHINT, a crew whose groups have stopped, a saved crew, a time slice that has run, groups enough parked
(R388 to R394). -/
theorem wit_preemption :
    let g (st : Bool) : Group := { groupOf (.phint oE) (fun p => { p with hold := .phint 0 0 0 }) with stopReq := true, stopped := st }
    let s (st : Bool) : State := { paged (host (g st) crew) with ctxs := [(0, { Context.none.flat with save := 0x9000, pshare := 1, tslice := 1 })] }
    (s false).group? 0 = some (g false) ∧ (g false).splits ≠ [] ∧ crew.outst = 0 ∧ ((s false).ctx 0).halt = none ∧ (s false).copies = []
    ∧ ((s true).ctx 0).save ≠ 0 ∧ (s true).crew? 0 = some crew ∧ (s true).sreds = []
    ∧ ((parkedAt 0 none).groupsOf 0).length = 1 ∧ (1 : Nat) * 1 ≤ 1 * 256 ∧ (∀ d < 4, ((s true).die d).steals = [])
    ∧ 1000 * 1 ≤ ({ crew with slice := 1000 } : Crew).slice := by decide +kernel

/-- A crew saved out of the device, and a cluster where it can be resumed. -/
theorem wit_resume :
    let v : Saved := { crew, groups := [{ Group.placed 0 with retired := true }], accs := [], tags := [], scratch := [], live := [], ops := [], bad := [], bars := [] }
    let s : State := { paged State.reset with saved := [v], launches := [{ grid with started := true, live := 1 }] }
    s.saved.find? (fun v => v.crew.cid == 0) = some v ∧ (s.resumeAt v 95).isSome = true ∧ (s.specOf v.crew 0).isSome = true ∧ s.crews = [] := by
  decide +kernel

/-! #### The directory -/

/-- Entries in every state, with and without copies, busy, and held in K (R41 to R52). -/
theorem wit_directory :
    let s (e : DirEntry) : State := { State.reset with dir := [(9, e)] }
    let e (st : DSt) : DirEntry := { DirEntry.u with st, sharers := 3, owner := 1 }
    (∀ st ∈ [DSt.s, .e, .m, .k, .v], (s (e st)).dirAt 9 = e st ∧ (e st).txn = none ∧ (e st).queue = [])
    ∧ State.reset.dirAt 9 = DirEntry.u ∧ (State.reset.snoopSet 9).length < 16
    ∧ dirAcks (e .s) (.wr (some 0) none []) = [1] ∧ dirAcks (e .s) (.rds 5) = [] ∧ dirFwd (e .m) (.rds 5) = true ∧ dirFwd (e .s) (.rds 5) = false
    ∧ dirSpills (e .v) .recall = some 0 ∧ dirSpills (e .s) .recall = none ∧ 192 * 9 + 192 ≤ 0xC000000000 := by decide +kernel

/-- A transaction that waits for its last acknowledgement, or for its owner's answer; an engine command at its turn, and one accepted
that holds a line; a version with a line to spill (R45 to R52, R384). -/
theorem wit_directory_answers :
    let t : Txn := { req := .rds 5, acks := [], acked := [3], fwd := false, fwdDone := false }
    let e (t : Txn) : DirEntry := { DirEntry.u with st := .m, owner := 3, txn := some t }
    let s (e : DirEntry) : State := { State.reset with dir := [(9, e)] }
    let c : Copy := { copyOf false with need := [9] }
    let d : Copy := { copyOf true with held := [9] }
    let v : Version := { Version.empty 0 0 with lines := [9] }
    ((s (e t)).dirAt 9).txn = some t ∧ 3 ∈ t.acked ∧ dirSpills (e t) t.req = none
    ∧ ((s (e { t with acked := [], fwd := true })).dirAt 9).txn = some { t with acked := [], fwd := true }
    ∧ ({ State.reset with copies := [c] } : State).kTurn 8 = true ∧ ({ State.reset with copies := [c] } : State).kcmd? 8 = some c.k
    ∧ ({ s { DirEntry.u with st := .k, engine := 8 } with copies := [d] } : State).kcmd? 8 = some d.k ∧ d.k.accepted = true
    ∧ ({ ended crew with versions := [v] } : State).version? 0 = some v ∧ ((ended crew).ctx 0).vlog = 0
    ∧ (s DirEntry.u).canWriteBack { line := 9, ctx := 0, tile := 0, nc := false, data := [], dirty := 0, valid := 15, victim := false, way := 0 } = true
    ∧ (match (walk (paged State.reset) 0x2000 0).res with
      | .ok t => t.pa == 0 && !t.nc
      | .error _ => false) = true := by decide +kernel

/-! #### The device's outside -/

/-- CTXCMD naming each operation, with the descriptor's line idle (R375, R411). -/
theorem wit_context_commands :
    let s (w : Word) : State := { State.reset with bar0 := { Bar0.reset with ctxcmd := w } }
    (∀ op ∈ [1, 2, 3], ((s (0x8000001F + BitVec.ofNat 32 (256 * op))).bar0.ctxcmd.toNat.testBit 31 = true)
      ∧ (s (0x8000001F + BitVec.ofNat 32 (256 * op))).bar0.ctxcmd.toNat % 32 = 31
      ∧ (s (0x8000001F + BitVec.ofNat 32 (256 * op))).bar0.ctxcmd.toNat / 256 % 4 = op)
    ∧ (s 0).contained = none ∧ (∀ d ∈ (s 0).dies, d.stageRejected = none) ∧ (s 0).dirReady 0 (.rdu 0 false) = true ∧ (s 0).poisoned 0 192 = false
    ∧ (s 0).tearBusy 31 = false ∧ ((s 0).ctx 31).registered = false ∧ ((paged (s 0)).ctx 0).registered = true
    ∧ (paged (demo (.nop oE) [] [])).tearBusy 0 = true := by decide +kernel

/-- The device up and contained; lines that the host finds free, and one that it does not (R411, R426). -/
theorem wit_host_port :
    (State.reset.contained = none ∧ ∀ d ∈ State.reset.dies, d.stageRejected = none) ∧ ({ State.reset with contained := some 5 } : State).contained ≠ none
    ∧ State.reset.dirReady 0 (.wr none none []) = true ∧ State.reset.dirReady 0x3FFFFFFF (.rdu 0 false) = true
    ∧ ({ State.reset with dir := [(9, { DirEntry.u with st := .k })] } : State).dirReady 9 (.wr none none []) = false
    ∧ State.reset.inbound = [] ∧ State.reset.poisoned 0 8 = false := by decide +kernel

/-- A queued error record, room in the ring and none, a late class 0 error; the unit that consumes an uncorrectable error (R412 to
R417). -/
theorem wit_errors :
    let s := State.reset.logError 1 0 0x01 { addr := 64 }
    let b : Bar0 := { Bar0.reset with errctl := 0x80000001 }
    State.reset.dies.length = 4 ∧ (s.die 1).errQ.length = 1 ∧ (s.die 1).seq = 1 ∧ s.contained = none
    ∧ (b.errctl.getLsbD 31 = true ∧ b.errprod < b.errcons + 2 ^ (b.errctl.toNat % 16)) ∧ Bar0.reset.errctl.getLsbD 31 = false
    ∧ NMap.get none (s.die 1).lastClass0 0x01 = some (s.die 1).stamp ∧ (demo (.nop oE) [] []).firstSplit 0 = some (0, 0)
    ∧ (demo (.nop oE) [] []).replayLaunch crew = none ∧ (State.reset.fatal 2 0x22 {}).contained = some 0 := by decide +kernel

/-- Clusters idle and not, in retention, with what they lose; tiles listed in their form (R416 to R424). -/
theorem wit_power :
    let s (g : List Group) (r : Bool) : State := { State.reset.setCluster 0 { Cluster.reset with retention := r } with groups := g }
    ((s [] false).cluster 0).retention = false ∧ ((s [] true).cluster 0).retention = true ∧ (s [] false).groups = []
    ∧ (∀ b ∈ ((s [] true).cluster 0).banks, b.mode ≠ .fifo) ∧ (s [] true).saved = []
    ∧ (Group.placed 0).core / 4 = 0 ∧ (Group.placed 0).retired = false ∧ NMap.wf Tile.reset State.reset.tiles = true
    ∧ (∃ b : Bank, ((s [] true).setCluster 0 { Cluster.reset with retention := true, banks := [b] }).lossOwners 0 = [3]) := by
  refine ⟨rfl, rfl, rfl, by decide +kernel, rfl, rfl, rfl, rfl, ⟨{ mode := .fifo, auto := false, owner := some 3, slots := [(0, { words := [], full := true, ph := false })] }, ?_⟩⟩
  decide +kernel

/-- Boot stages, and an SPDM request, on a device that is up, contained, and in its boot failure (R419, R429, R430). -/
theorem wit_firmware :
    (State.reset.die 0).stageRejected = none ∧ (({ State.reset with dies := [{ Die.reset with stageRejected := some 2 }] } : State).die 0).stageRejected = some 2
    ∧ State.reset.bootFailed = false ∧ ({ State.reset with dies := [{ Die.reset with stageRejected := some 2 }] } : State).bootFailed = true := by decide

/-! #### Turns, ends and homes -/

/-- The turn of a split given by name. -/
theorem wit_turn : Turn { demo (.nop oE) [] [] with agenda := [.clauseStart 0 0] } 0 0 { demo (.nop oE) [] [] with tick := 1 } :=
  .inl ⟨[], rfl, rfl⟩

/-- A split of a halted context at its clause boundary (R388, R401). -/
theorem wit_halted :
    let s : State := { atBoundary with ctxs := [(0, { Context.none.flat with halt := some 0 })], agenda := [] }
    s.agenda = [] ∧ s.group? 0 = some (Group.placed 0) ∧ (Group.placed 0).split? 0 = some Split.placed ∧ s.crew? 0 = some (Crew.placed 0)
    ∧ (Group.placed 0).runs = true ∧ Split.placed.cl = none ∧ Split.placed.retained = none ∧ Split.placed.hold = .none
    ∧ (s.ctx 0).halt ≠ none := by decide

/-- The last lanes of a split end: with an operation outstanding that may trap, and owing a trap (R232). -/
theorem wit_retained :
    let q : Split := splitAt (.exit oE)
    let g := groupOf (.exit oE) fun p => { p with owed := [{ cause := 0x0E }] }
    Accepted (.exit oE) (demo (.exit oE) [] []) (issuer (.exit oE) [] []) ∧ q.memb &&& ~~~q.exec = 0 ∧ q.stack = []
    ∧ { demo (.exit oE) [] [] with ops := [opOf (.hdec 4 2 3 false [(0, 5)] none)] }.mayTrap 0 0 = true
    ∧ (who g crew).p.owed = [{ cause := 0x0E }] ∧ (host g crew).mayTrap 0 0 = false ∧ Accepted (.exit oE) (host g crew) (who g crew)
    ∧ (∀ p ∈ g.splits, p.hold ≠ .gbar) := by
  unfold Accepted
  decide

/-- Two FIFO accesses to one slot that is empty: the older has its turn, the younger and one of the other phase wait (R192). -/
theorem wit_fifo_turn :
    let b : Bank := { mode := .fifo, auto := false, owner := some 0, slots := [] }
    let x (id ph : Nat) : Op := { opOf (.fpush 0 0 ph [(0, 1)]) with id }
    let s (l : List Op) : State := { (flight .done).setCluster 0 { Cluster.reset with banks := putAt Cluster.reset.banks 0 b } with ops := l }
    (s [x 7 0]).fifoTurn 0 (x 7 0) = true ∧ (s [x 7 1]).fifoTurn 0 (x 7 1) = false ∧ (s [x 6 0, x 7 0]).fifoTurn 0 (x 7 0) = false := by
  decide +kernel

/-- A wait that a resume executes again on the registers as they stand (R27, R208, R321). -/
theorem wit_again :
    let o : Op := { opOf (.nbarwait 0 5) with again := some (.nbarwait oE) }
    let s : State := paged (demo (.nop oE) [] [(0, 9)])
    s.group? o.gid = some (groupAt (.nop oE) [] [(0, 9)]) ∧ s.crew? 0 = some crew ∧ (groupAt (.nop oE) [] [(0, 9)]).split? o.split = some (splitAt (.nop oE))
    ∧ (s.executeAgain o).ops.map (·.kind) = [.done]
    ∧ ((paged (demo (.nop oE) [] [])).executeAgain { o with again := some (.nbarwait { oE with a := 1 }) }).ops.map (·.kind)
        = [.nbarwait 0 0] := by decide +kernel

/-- The words of a barrier in a save image (Table 08-4). -/
theorem test_barrier_word :
    Bar.word { phase := 0x1234, scope := 2, arrived := 5, expect := 7 } = 0x1234000200050007
    ∧ Bar.ofWord 0x1234000200050007 = { phase := 0x1234, scope := 2, arrived := 5, expect := 7 } := by decide

/-- Sixteen lines of one set, and one more. -/
def sameSet : List Nat := ((List.range 1200).map (16384 * ·)).filter fun l => homeSlice (192 * l) == homeSlice 0

/-- A set full of lines that an accepted command holds, and a command that wants another line of the set (R49). -/
theorem wit_set_of_k :
    let e (i : Nat) : DirEntry := { DirEntry.u with st := .k, engine := 8, since := 40 - i }
    let line := nth 0 sameSet 16
    let c : Copy := { copyOf false with id := 9, need := [line] }
    let s : State := { State.reset with dir := (sameSet.take 16).mapIdx fun i l => (l, e i), copies := [copyOf true, c] }
    s.kcmd? 9 = some c.k ∧ s.kTurn 9 = true ∧ c.k.need = line :: [] ∧ (s.dirAt line).st = .u ∧ 16 ≤ (s.snoopSet line).length
    ∧ snoopVictim (s.snoopSet line) = none ∧ s.kVictim line = some (nth 0 sameSet 15)
    ∧ (s.dirAt (nth 0 sameSet 15)).st = .k ∧ DReq.recall ∉ (s.dirAt (nth 0 sameSet 15)).queue := by decide +kernel

/-- A request that waits at a free home, and one at the host port (R45, R411). -/
theorem wit_waiting_requests :
    let s (st : DSt) : State := { State.reset with dir := [(9, { DirEntry.u with st, sharers := 1, queue := [.rds 2] })] }
    ((s .s).dirAt 9).queue = [.rds 2] ∧ ((s .s).dirAt 9).txn = none ∧ dirWaits ((s .s).dirAt 9) (.rds 2) = false
    ∧ dirWaits ((s .k).dirAt 9) (.rds 2) = true
    ∧ (∃ t, ({ State.reset with inbound := [.write 64 [1]] } : State).taken (.write 64 [1]) = some t ∧ t.rdB 64 = 1)
    ∧ ({ s .k with inbound := [.read 1728 8] } : State).taken (.read 1728 8) = none := by
  refine ⟨by decide, by decide, by decide, by decide, ⟨_, rfl, by decide⟩, by decide⟩

/-- SHA-384 of the measurement chain's one block (R429), the digest computed outside from FIPS 180-4: M = 0, digest 0x123456789. -/
theorem test_sha384 : extend 0 0x123456789
    = 0x373d5ada9cd56d861c0bbeeacaa89463c3a1731e713dce48b9d525764a33e4251af6817e95f71a4fba24f72341dd3952 := by decide +kernel

/-- A context with ready-table backing, one with none, and a table with a free entry; a steal whose copy, and whose
acknowledgement, is under way (R360, R363, R367). -/
theorem wit_backing :
    let s (b : Nat) : State := (paged State.reset).setCtx 0 { Context.none.flat with rtback := b }
    let t (m : StealMsg) : State := ((s 1).setCluster 4 { Cluster.reset with ready := [(2, some (entry (.pending 3 63)))] }).setDie 0
      { (s 1).die 0 with steals := [m] }
    ((s 1).ctx 0).rtback ≠ 0 ∧ ((s 0).ctx 0).rtback = 0 ∧ TableFree (s 1) 0 23 ∧ ((s 1).die 0).insQ = []
    ∧ ((t (.ack 3 63 4 2)).cluster 4).entry 2 = some (entry (.pending 3 63)) ∧ .ack 3 63 4 2 ∈ ((t (.ack 3 63 4 2)).die (4 / 24)).steals
    ∧ .ack 3 63 4 2 ∉ ((t (.confirm 4 2)).die (4 / 24)).steals :=
  ⟨by decide, by decide, ⟨rfl, 0, by decide, by decide⟩, by decide, by decide +kernel, by decide, by decide⟩

/-- A record in a line that an engine owns, which a thread waits for, and in one that is free (R47, R371). -/
theorem wit_record_waits :
    let l : List Seg := [{ va := 1728, place := .phys 1728 false, len := 64 }]
    ({ State.reset with dir := [(9, { DirEntry.u with st := .k, engine := 8 })] } : State).threadReads crew l = false
    ∧ State.reset.threadReads crew l = true := by decide +kernel

/-- A miss that needs an entry of a set whose entries no Recall can free, and one that finds an entry (R49). -/
theorem wit_ask_entry :
    let line := nth 0 sameSet 16
    let s : State := { State.reset with dir := (sameSet.take 16).map fun l => (l, { DirEntry.u with st := .k, engine := 8 }) }
    s.creating crew (192 * line) false false = some (.rds 0) ∧ s.dirRoom line (.rds 0) = false ∧ (s.dirAt line).queue = []
    ∧ State.reset.dirRoom line (.rds 0) = true ∧ State.reset.creating crew (192 * line) true false = none := by decide +kernel

/-- A version that is discarded, with a line that is free and one in a transaction (R45, R386); a unit of which a group is to end
with no trap. -/
theorem wit_discard :
    let v : Version := { Version.empty 0 0 with lines := [9, 10] }
    let t : Txn := { req := .rdu 0 false, acks := [], acked := [], fwd := true, fwdDone := false }
    let s : State := { State.reset with
      versions := [v], dir := [(9, { DirEntry.u with st := .v }), (10, { DirEntry.u with st := .v, txn := some t })] }
    s.version? 0 = some v ∧ v.lines.Nodup ∧ (s.dirAt 9).txn = none ∧ (s.dirAt 9).queue = [] ∧ (s.dirAt 10).txn = some t
    ∧ ({ groupOf (.trap oE) id with endReq := true } : Group).endReq = true := by decide

/-- A cluster whose one cache bank is free in a set, and one where it is taken (R38, R189). -/
theorem wit_ways :
    let b : List Bank := putAt (List.replicate 32 { Bank.reset with mode := .scratch }) 5 { Bank.reset with mode := .cache }
    let l : CLine := { line := 265, ctx := 0, tile := 0, nc := false, way := 5, valid := 15, data := [], dirty := 0, victim := false }
    let cl (ls : List CLine) : Cluster := { Cluster.reset with banks := b, cache := ls }
    (cl []).banksIn .cache = [5] ∧ (cl [l]).cache.filter (fun x => x.line % 256 == 9 % 256) = [l] ∧ l.way = 5
    ∧ (State.reset.setCluster 0 (cl [l])).bankChange 0 = none ∧ State.reset.dirReady 9 (.rdu 0 false) = true := by decide +kernel

/-- A load that meets a line an engine owns; a CBCAL in progress before a multiply that came earlier (R59, R292). -/
theorem wit_waiting_engines :
    let k : State := { State.reset with dir := [(9, { DirEntry.u with st := .k, engine := 8 })] }
    k.accReady crew [{ accAt 1728 with lane := 0 }] false false = false ∧ State.reset.accReady crew [accAt 1728] false false = true
    ∧ ({ Tile.reset with busy := .cal (tcmd (.cal 3)) [1] false, q := [tcmd (.mvm 0 0 0 0 false 0 1 [] [])] } : Tile).free = true := by
  decide +kernel

/-- Two splits at one boundary that may merge, while the WAIT of their next clause is unmet (R20, R120; log 101). -/
theorem wit_merge_partner :
    let q : Split := { Split.placed with num := 1 }
    let x : Group := { Group.placed 0 with splits := [Split.placed, q] }
    let s : State := { atBoundary with groups := [x], agenda := [] }
    mergeable Split.placed q = true ∧ s.goesOn x 0 Split.placed = true ∧ Split.placed.pc = q.pc ∧ q.retained = none := by decide +kernel

/-- A replay that waits for a copy of its launch, one that has nothing to wait for, and the errors it recovers (R14, R404). -/
theorem wit_replay_waits :
    let e : ReplayErr := { die := 0, event := 0x10, loc := 0, addr := 64 }
    let l : Launch := { grid with record := gridRec ||| 1 <<< 378, live := 1 }
    let s (cs : List Copy) (r : List ReplayErr) : State :=
      { demo (.nop oE) [] [] with launches := [{ l with replay := r }], copies := cs, agenda := [] }
    let t (cs : List Copy) (r : List ReplayErr) := ((s cs r).replayOn 0).launches.map fun l => (l.replays, l.replay)
    t [copyOf true] [e] = [(0, [e])] ∧ t [] [e, e] = [(1, [])]
    ∧ ((s [copyOf true] [e]).replayOn 0).groups.map (fun g => g.splits) = [[]] ∧ ((s [] [e]).replayOn 0).groups = []
    ∧ ((s [] [e]).replayOn 0).dies.map (fun d => d.seq) = [1, 0, 0, 0] ∧ ((s [copyOf true] [e]).launch? 0).isSome = true := by decide +kernel

/-- A held write whose leaf still waits for DIRTY (R35), an error record that tells of suppressed ones (R414), and a thread's read of a
line that an engine owns (R47). -/
theorem wit_held_and_told :
    let h : HeldWrite := { pa := 0x8000000000000, va := 0, bytes := [1], aop := none, ent := some 1728 }
    let k : State := { State.reset with dir := [(9, { DirEntry.u with st := .k, engine := 8, queue := [.orB 1728 6] })] }
    k.dirtyPending 1728 = true ∧ k.heldReady [h] = false ∧ State.reset.heldReady [h] = true
    ∧ (Die.dropRecord Die.reset (1 <<< 128, 4)).suppressed = [(1, 5)]
    ∧ k.readsNow crew [{ va := 1728, place := .phys 1728 false, len := 8 }] = false := by decide +kernel

/-- A watch that has been triggered, one that has not, and an MWAIT that the first ends (R211). -/
theorem wit_woken :
    let p (b : Bool) : Split := { Split.placed with watch := some { slice := 0, line := 9, trig := b } }
    let s : State := flight .mwait
    (s.wakeMwaits 0 (p false)).ops.map (·.kind) = [.mwait] ∧ (s.wakeMwaits 0 (p true)).ops.map (·.kind) = [.done]
    ∧ (s.wakeMwaits 0 Split.placed).ops.map (·.kind) = [.done] := by decide +kernel

/-- A command that costs nothing goes past one that has stalled; one that costs something does not (R248). -/
theorem wit_energy_past :
    let k := issuer (.mma oE) [] []
    let q : Split := { Split.placed with num := 1, hold := .energy 1 }
    let g : Group := { groupAt (.mma oE) [] [] with splits := [splitAt (.mma oE), q] }
    let s (cost : Nat) : State := { (demo (.mma oE) [] []).setCtx 0 { Context.none.flat with ecost := [cost] } with groups := [g] }
    (s 0).energyAhead k = true ∧ (s 0).energyPay k 0 ≠ none ∧ (s 3).energyPay k 0 = none := by decide +kernel

/-- A split that gives way is waited for no longer by another (R30, R89; log 120). -/
theorem wit_gives_way :
    let q : Split := { Split.placed with num := 1, yieldTo := [(0, 0)] }
    let g : Group := { groupAt (.yield oE) [] [] with splits := [splitAt (.yield oE), q] }
    let k : Issuer := { g, p := splitAt (.yield oE), c := crew }
    Accepted (.yield oE) (host g crew) k
    ∧ ((after (.yield oE) (host g crew)).groups.map fun h => h.splits.map fun p => p.yieldTo) = [[[(0, 1)], []]] := by
  unfold Accepted
  decide +kernel

end Sys2Proof.Tests
end

/-! ## Lane entries

The entries of block 0x00 that compute lane by lane: their encoding checks (R93, R98) and what an accepted one writes. -/

namespace Sys2Proof

open Sys2Proof.Machine

/-! ### Encoding checks of format A -/

/-- The encoding checks of a format-A entry are those of its shape (Table 04-16, orders 5 and 6). -/
theorem encCheck_of_shapeA {i : Instr} {h : ShA} (hs : shapeA i = some h) :
    encCheck i = if h.fail1 then some 0x01 else if h.fail2 then some 0x02 else none := by
  have hr : ∀ o, i ≠ .rep o := by
    rintro o rfl
    cases hs
  unfold encCheck
  split
  · exact absurd rfl (hr _)
  · simp only [hs]

theorem fail_of_encCheck_none {i : Instr} {h : ShA} (hs : shapeA i = some h) (he : encCheck i = none) :
    h.fail1 = false ∧ h.fail2 = false := by
  rw [encCheck_of_shapeA hs] at he
  split at he
  · cases he
  · split at he
    · cases he
    · rename_i h1 h2
      exact ⟨by simpa using h1, by simpa using h2⟩

section Shape

variable {o : OpA} {types : List Ty} {mask : BitVec 6} {b c : Use} {bad2 : Bool}

theorem fail1_of_type (hr : o.typ.isRsv = false) (ht : o.typ ∉ .dflt :: types) :
    (shInt o types mask b c bad2).fail1 = true := by
  have hbad : (!o.typ.isRsv && !(types.contains o.typ || (true && o.typ == .dflt))) = true := by
    simp only [List.mem_cons, not_or] at ht
    simp [hr, ht.1, ht.2]
  unfold ShA.fail1 shInt
  simp only [hbad, Bool.or_true, Bool.true_or]

theorem fail2_of_sub (hb : o.sub &&& ~~~mask ≠ 0 ∨ bad2 = true) : (shInt o types mask b c bad2).fail2 = true := by
  unfold ShA.fail2 shInt
  rcases hb with hb | hb <;> simp only [hb, ne_eq, not_false_eq_true, decide_true, Bool.or_true, Bool.true_or]

theorem fail2_of_rsv (hr : o.typ.isRsv = true) : (shInt o types mask b c bad2).fail2 = true := by
  unfold ShA.fail2 shInt
  simp only [hr, Bool.true_or]

/-- An accepted entry has one of its types, or none (R93). -/
theorem type_of_accepted {i : Instr} {s : State} {k : Issuer} (h : Accepted i s k)
    (hs : shapeA i = some (shInt o types mask b c bad2)) : o.typ ∈ .dflt :: types := by
  obtain ⟨h1, h2⟩ := fail_of_encCheck_none hs h.2.1
  by_contra ht
  cases hr : o.typ.isRsv with
  | true => rw [fail2_of_rsv hr] at h2; cases h2
  | false => rw [fail1_of_type hr ht] at h1; cases h1

/-- An accepted entry has no SUB value that its shape rejects. -/
theorem sub_of_accepted {i : Instr} {s : State} {k : Issuer} (h : Accepted i s k)
    (hs : shapeA i = some (shInt o types mask b c bad2)) : ¬(o.sub &&& ~~~mask ≠ 0 ∨ bad2 = true) := by
  intro hb
  have h2 := (fail_of_encCheck_none hs h.2.1).2
  rw [fail2_of_sub hb] at h2
  cases h2

end Shape

/-- A failing encoding check of a program instruction traps with its cause (Table 04-16). -/
theorem traps_of_encCheck {i : Instr} {s : State} {k : Issuer} {cause : Cause} (hk : s.issuer = some k)
    (hx : ∃ body, exec i s = issue i s body) (he : encCheck i = some cause) : Traps i s k s { cause } := by
  obtain ⟨body, hx⟩ := hx
  unfold Traps
  rw [hx]
  unfold issue
  simp only [hk, he]

/-- An integer or logic entry traps for a type that it does not list (0x01) and for a SUB value above its last (0x02). -/
theorem shInt_traps {i : OpA → Instr} {types : List Ty} {last : Nat} {mask : BitVec 6} {b c : Use} {s : State} {k : Issuer}
    (bad2 : BitVec 6 → Bool) (hx : ∀ o, ∃ body, exec (i o) s = issue (i o) s body)
    (hs : ∀ o, shapeA (i o) = some (shInt o types mask b c (bad2 o.sub)))
    (hl : ∀ n : BitVec 6, last < n.toNat → n &&& ~~~mask ≠ 0 ∨ bad2 n = true) (o : OpA) (hk : s.issuer = some k) :
    (o.typ.isRsv = false → o.typ ∉ .dflt :: types → Traps (i o) s k s { cause := 0x01 })
    ∧ (encCheck (i { o with sub := 0 }) = none → last < o.sub.toNat → Traps (i o) s k s { cause := 0x02 }) := by
  constructor
  · intro hr ht
    apply traps_of_encCheck hk (hx o)
    rw [encCheck_of_shapeA (hs o), fail1_of_type hr ht]
    rfl
  · intro he hn
    have h1 : (shInt o types mask b c (bad2 o.sub)).fail1 = false := (fail_of_encCheck_none (hs _) he).1
    apply traps_of_encCheck hk (hx o)
    rw [encCheck_of_shapeA (hs o), h1, fail2_of_sub (hl o.sub hn)]
    rfl

/-! ### What an accepted entry writes -/

section Writes

variable {i : Instr} {o : OpA} {s : State} {k : Issuer}

theorem laneSuch_intOp {n32 sat : Bool} {f : Int → Int → Int → Int} {P : Nat → Word → Prop} (h : Accepted i s k)
    (hx : exec i s = intOp i o s n32 sat f)
    (hP : ∀ l, P l (intOut n32 sat (f (val n32 (k.src o o.a l)) (val n32 (k.src o o.b l)) (val n32 (k.src o o.c l))))) :
    LaneSuch i o s k P :=
  ⟨_, laneResult_of h.1 (hx.trans (issue_done h rfl)), hP⟩

theorem laneSuch_wordOp {f : Word → Word → Word → Word} {P : Nat → Word → Prop} (h : Accepted i s k)
    (hx : exec i s = wordOp i o s f) (hP : ∀ l, P l (f (k.src o o.a l) (k.src o o.b l) (k.src o o.c l))) :
    LaneSuch i o s k P :=
  ⟨_, laneResult_of h.1 (hx.trans (issue_done h rfl)), hP⟩

@[simp] theorem intOp_issues {n32 sat : Bool} {f : Int → Int → Int → Int} :
    ∃ body, intOp i o s n32 sat f = issue i s body :=
  ⟨_, intOp.eq_def ..⟩

@[simp] theorem wordOp_issues {f : Word → Word → Word → Word} : ∃ body, wordOp i o s f = issue i s body :=
  ⟨_, wordOp.eq_def ..⟩

end Writes

end Sys2Proof

/-! ## Integer arithmetic

The integer arithmetic of Table 05-7 (R124): VAL and its inverse, saturation, and the entries. -/

namespace Sys2Proof

open Sys2Proof.Machine

/-! ### Values of the operand type -/

theorem val_isN32 (o : OpA) (w : Word) : val o.isN32 w = VAL o w := by
  unfold val VAL OpA.isN32
  simp only [beq_iff_eq]

theorem loOf_isN32 (o : OpA) : loOf o.isN32 = LO o := by
  unfold loOf LO OpA.isN32
  simp only [beq_iff_eq]
  rfl

theorem hiOf_isN32 (o : OpA) : hiOf o.isN32 = HI o := by
  unfold hiOf HI OpA.isN32
  simp only [beq_iff_eq]
  rfl

theorem VAL_bounds (o : OpA) (w : Word) : LO o ≤ VAL o w ∧ VAL o w ≤ HI o := by
  unfold LO HI VAL
  have hu := w.isLt
  have hl := BitVec.le_toInt w
  have hh := BitVec.toInt_lt (x := w)
  split <;> omega

/-- A number within the operand type is the VAL of its word. -/
theorem VAL_wordOf {o : OpA} {x : Int} (hl : LO o ≤ x) (hh : x ≤ HI o) : VAL o (wordOf x) = x := by
  unfold VAL wordOf
  unfold LO at hl
  unfold HI at hh
  split
  · rename_i ht
    rw [if_pos ht] at hl hh
    rw [BitVec.toNat_ofInt]
    omega
  · rename_i ht
    rw [if_neg ht] at hl hh
    exact BitVec.toInt_ofInt_eq_self (by decide) (by omega) (by omega)

theorem LO_le_HI (o : OpA) : LO o ≤ HI o := by
  unfold LO HI
  split <;> decide

/-- The result of an integer entry is the exact value, wrapped or saturated (R124). -/
theorem isInt_intOut (o : OpA) (sat : Bool) (x : Int) : IsInt o sat x (intOut o.isN32 sat x) := by
  unfold IsInt intOut
  cases sat with
  | false => rfl
  | true =>
    simp only [if_true, loOf_isN32, hiOf_isN32]
    exact VAL_wordOf (le_min (le_max_right _ _) (LO_le_HI o)) (min_le_right _ _)

/-! ### The entries -/

section Entries

variable {i : Instr} {o : OpA} {s : State} {k : Issuer}

@[simp] theorem exec_iadd : exec (.iadd o) s = intOp (.iadd o) o s o.isN32 (o.sub.getLsbD 0) fun a b _ => a + b := rfl
@[simp] theorem exec_isub : exec (.isub o) s = intOp (.isub o) o s o.isN32 (o.sub.getLsbD 0) fun a b _ => a - b := rfl
@[simp] theorem exec_imul : exec (.imul o) s = intOp (.imul o) o s o.isN32 (o.sub.getLsbD 0) fun a b _ => a * b := rfl
@[simp] theorem exec_imulh : exec (.imulh o) s = intOp (.imulh o) o s o.isN32 false fun a b _ => a * b / 4294967296 := rfl
@[simp] theorem exec_imad : exec (.imad o) s = intOp (.imad o) o s o.isN32 (o.sub.getLsbD 0) fun a b c => a * b + c := rfl
@[simp] theorem exec_imin : exec (.imin o) s = intOp (.imin o) o s o.isN32 false fun a b _ => min a b := rfl
@[simp] theorem exec_imax : exec (.imax o) s = intOp (.imax o) o s o.isN32 false fun a b _ => max a b := rfl
@[simp] theorem exec_iabs : exec (.iabs o) s = intOp (.iabs o) o s false (o.sub.getLsbD 0) fun a _ _ => (a.natAbs : Int) := rfl
@[simp] theorem exec_ineg : exec (.ineg o) s = intOp (.ineg o) o s false (o.sub.getLsbD 0) fun a _ _ => -a := rfl
@[simp] theorem exec_iaddc : exec (.iaddc o) s = intOp (.iaddc o) o s true false fun a b c =>
    if o.sub.getLsbD 0 then (a + b + c % 2) / 4294967296 else a + b + c % 2 := rfl

theorem laneSuch_isInt {sat : Bool} {f : Int → Int → Int → Int} (h : Accepted i s k)
    (hx : exec i s = intOp i o s o.isN32 sat f) :
    LaneSuch i o s k fun l => IsInt o sat (f (VAL o (k.src o o.a l)) (VAL o (k.src o o.b l)) (VAL o (k.src o o.c l))) :=
  laneSuch_intOp h hx fun l => by
    simp only [val_isN32]
    exact isInt_intOut o sat _

/-- An entry whose exact value lies in the operand type gives that value. -/
theorem laneSuch_VAL {f : Int → Int → Int → Int} (h : Accepted i s k) (hx : exec i s = intOp i o s o.isN32 false f)
    (hf : ∀ a b c, LO o ≤ a ∧ a ≤ HI o → LO o ≤ b ∧ b ≤ HI o → LO o ≤ f a b c ∧ f a b c ≤ HI o) :
    LaneSuch i o s k fun l w => VAL o w = f (VAL o (k.src o o.a l)) (VAL o (k.src o o.b l)) (VAL o (k.src o o.c l)) :=
  laneSuch_intOp h hx fun l => by
    obtain ⟨hl, hh⟩ := hf _ _ (VAL o (k.src o o.c l)) (VAL_bounds o (k.src o o.a l)) (VAL_bounds o (k.src o o.b l))
    simp only [val_isN32]
    exact VAL_wordOf hl hh

/-- An accepted entry that lists .i32 alone computes on signed numbers. -/
theorem isN32_of_i32 {mask : BitVec 6} {b c : Use} {bad2 : Bool} (h : Accepted i s k)
    (hs : shapeA i = some (shInt o [.i32] mask b c bad2)) : o.isN32 = false := by
  have ht := type_of_accepted h hs
  simp only [List.mem_cons, List.not_mem_nil, or_false] at ht
  rcases ht with ht | ht <;> simp [OpA.isN32, ht]

theorem iabs_result (h : Accepted (.iabs o) s k) :
    LaneSuch (.iabs o) o s k fun l => IsInt o (o.sub.getLsbD 0) |VAL o (k.src o o.a l)| := by
  simp only [Int.abs_eq_natAbs]
  exact laneSuch_isInt (f := fun a _ _ => (a.natAbs : Int)) h (by rw [exec_iabs, isN32_of_i32 h rfl])

theorem ineg_result (h : Accepted (.ineg o) s k) :
    LaneSuch (.ineg o) o s k fun l => IsInt o (o.sub.getLsbD 0) (-VAL o (k.src o o.a l)) :=
  laneSuch_isInt (f := fun a _ _ => -a) h (by rw [exec_ineg, isN32_of_i32 h rfl])

/-- IADDC: the 33-bit sum of the sources and the carry in, its low word or under .co its carry. -/
theorem iaddc_result (h : Accepted (.iaddc o) s k) :
    LaneSuch (.iaddc o) o s k fun l w =>
      let x := (k.src o o.a l).toNat + (k.src o o.b l).toNat + (k.src o o.c l).toNat % 2
      w.toNat = if o.sub.getLsbD 0 then x / 4294967296 else x % 4294967296 :=
  laneSuch_intOp h exec_iaddc fun l => by
    have ha := (k.src o o.a l).isLt
    have hb := (k.src o o.b l).isLt
    simp only [intOut, val, wordOf, if_true, Bool.false_eq_true, if_false, BitVec.toNat_ofInt]
    cases o.sub.getLsbD 0 with
    | true => simp only [if_true]; omega
    | false => simp only [Bool.false_eq_true, if_false]; omega

end Entries

/-- Settles O1: each entry by the lemma of its kind of result, and the traps from the entries' shapes. -/
theorem integerArithmetic : Obligations.IntegerArithmetic := by
  unfold Obligations.IntegerArithmetic
  intro s k o
  refine ⟨?add, ?sub, ?mul, ?mulh, ?mad, ?min, ?max, iabs_result, ineg_result, iaddc_result, ?traps⟩
  case add => exact fun h => laneSuch_isInt (f := fun a b _ => a + b) h exec_iadd
  case sub => exact fun h => laneSuch_isInt (f := fun a b _ => a - b) h exec_isub
  case mul => exact fun h => laneSuch_isInt (f := fun a b _ => a * b) h exec_imul
  case mulh => exact fun h => laneSuch_isInt (f := fun a b _ => a * b / 4294967296) h exec_imulh
  case mad => exact fun h => laneSuch_isInt (f := fun a b c => a * b + c) h exec_imad
  case min =>
    exact fun h => laneSuch_VAL h exec_imin fun _ _ _ ha hb =>
      ⟨le_min ha.1 hb.1, min_le_of_left_le ha.2⟩
  case max =>
    exact fun h => laneSuch_VAL h exec_imax fun _ _ _ ha hb =>
      ⟨le_max_of_le_left ha.1, max_le ha.2 hb.2⟩
  case traps =>
    intro i types last hi hk
    simp only [List.mem_cons, List.not_mem_nil, or_false, Prod.mk.injEq] at hi
    rcases hi with hi | hi | hi | hi | hi | hi | hi | hi | hi | hi
    all_goals
      obtain ⟨rfl, rfl, rfl⟩ := hi
      exact shInt_traps (fun _ => false) (fun _ => by simp) (fun _ => rfl) (by decide) o hk

end Sys2Proof

/-! ## Comparison, shifts and logic

Comparison, selection, the shifts and the bitwise instructions (R125, R126). -/

namespace Sys2Proof

open Sys2Proof.Machine

section Equations

variable {o : OpA} {s : State}

@[simp] theorem exec_icmp : exec (.icmp o) s = wordOp (.icmp o) o s fun a b _ =>
    if icmpCc o.subLo (val o.isN32 a) (val o.isN32 b) then 1 else 0 := rfl
@[simp] theorem exec_sel : exec (.sel o) s = wordOp (.sel o) o s fun a b c => if c ≠ 0 then a else b := rfl
@[simp] theorem exec_shl : exec (.shl o) s = wordOp (.shl o) o s fun a b _ => a <<< shiftN b := rfl
@[simp] theorem exec_shr : exec (.shr o) s = wordOp (.shr o) o s fun a b _ => a >>> shiftN b := rfl
@[simp] theorem exec_sar : exec (.sar o) s = wordOp (.sar o) o s fun a b _ => a.sshiftRight (shiftN b) := rfl
@[simp] theorem exec_rol : exec (.rol o) s = wordOp (.rol o) o s fun a b _ => a.rotateLeft (shiftN b % 32) := rfl
@[simp] theorem exec_and : exec (.and o) s = wordOp (.and o) o s fun a b _ => a &&& b := rfl
@[simp] theorem exec_or : exec (.or o) s = wordOp (.or o) o s fun a b _ => a ||| b := rfl
@[simp] theorem exec_xor : exec (.xor o) s = wordOp (.xor o) o s fun a b _ => a ^^^ b := rfl
@[simp] theorem exec_not : exec (.not o) s = wordOp (.not o) o s fun a _ _ => ~~~a := rfl
@[simp] theorem exec_andn : exec (.andn o) s = wordOp (.andn o) o s fun a b _ => a &&& ~~~b := rfl

end Equations

theorem bit_shiftLeft (a : Word) (n j : Nat) (hj : j < 32) :
    (a <<< n).getLsbD j = (decide (n ≤ j) && a.getLsbD (j - n)) := by
  rw [BitVec.getLsbD_shiftLeft, decide_eq_true hj, Bool.true_and, ← decide_not]
  simp only [Nat.not_lt]

theorem bit_shiftRight (a : Word) (n j : Nat) : (a >>> n).getLsbD j = a.getLsbD (j + n) := by
  rw [BitVec.getLsbD_ushiftRight, Nat.add_comm]

/-- Past bit 31 an arithmetic right shift brings in bit 31 (R126). -/
theorem bit_sshiftRight (a : Word) (n j : Nat) (hj : j < 32) :
    (a.sshiftRight n).getLsbD j = a.getLsbD (min (j + n) 31) := by
  rw [BitVec.getLsbD_sshiftRight, decide_eq_false (by omega), Bool.not_false, Bool.true_and]
  by_cases h : n + j < 32
  · rw [if_pos h, show min (j + n) 31 = n + j by omega]
  · rw [if_neg h, show min (j + n) 31 = 31 by omega, BitVec.msb_eq_getLsbD_last]

/-- Bit `j` of the source goes to bit `j + n` modulo 32 of the rotated word (R126). -/
theorem bit_rotateLeft (a : Word) (n j : Nat) (hj : j < 32) :
    (a.rotateLeft (n % 32)).getLsbD ((j + n) % 32) = a.getLsbD j := by
  have hn : n % 32 % 32 = n % 32 := Nat.mod_mod _ _
  rw [BitVec.getLsbD_rotateLeft, hn]
  by_cases h : j + n % 32 < 32
  · have hm : (j + n) % 32 = j + n % 32 := by omega
    rw [hm, decide_eq_false (by omega), cond_false, decide_eq_true h, Bool.true_and, Nat.add_sub_cancel]
  · have hm : (j + n) % 32 = j + n % 32 - 32 := by omega
    rw [hm, decide_eq_true (by omega), cond_true]
    congr 1
    omega

/-- SUB of an accepted ICMP names one of its six conditions. -/
theorem icmp_sub {o : OpA} {s : State} {k : Issuer} (h : Accepted (.icmp o) s k) : o.sub.toNat ≤ 5 := by
  have hd : ∀ n : BitVec 6, ¬(n &&& ~~~7#6 ≠ 0 ∨ decide (5 < n.toNat % 8) = true) → n.toNat ≤ 5 := by decide
  exact hd o.sub (sub_of_accepted h rfl)

theorem one_or_zero {c : Bool} {p : Prop} (h : c = true ↔ p) :
    (if c then 1 else 0 : Word) = 1 ∧ p ∨ (if c then 1 else 0 : Word) = 0 ∧ ¬p := by
  cases c with
  | true => exact .inl ⟨rfl, h.mp rfl⟩
  | false => exact .inr ⟨rfl, fun hp => Bool.false_ne_true (h.mpr hp)⟩

/-- Settles O2: ICMP by its six conditions, the others bit by bit, and the traps from the entries' shapes. -/
theorem comparisonShiftLogic : Obligations.ComparisonShiftLogic := by
  unfold Obligations.ComparisonShiftLogic
  intro s k o
  refine ⟨?icmp, ?sel, ?shl, ?shr, ?sar, ?rol, ?and, ?or, ?xor, ?not, ?andn, ?traps⟩
  case icmp =>
    refine fun h => laneSuch_wordOp h exec_icmp fun l => one_or_zero ?_
    have hn := icmp_sub h
    rw [val_isN32, val_isN32, show o.subLo = o.sub.toNat from Nat.mod_eq_of_lt (by omega)]
    generalize o.sub.toNat = n at hn
    interval_cases n <;> exact decide_eq_true_iff
  case sel => exact fun h => laneSuch_wordOp h exec_sel fun l => ite_not ..
  case shl => exact fun h => laneSuch_wordOp h exec_shl fun l j => bit_shiftLeft _ _ j
  case shr => exact fun h => laneSuch_wordOp h exec_shr fun l j _ => bit_shiftRight _ _ j
  case sar => exact fun h => laneSuch_wordOp h exec_sar fun l j => bit_sshiftRight _ _ j
  case rol => exact fun h => laneSuch_wordOp h exec_rol fun l j => bit_rotateLeft _ _ j
  case and => exact fun h => laneSuch_wordOp h exec_and fun l j _ => BitVec.getLsbD_and
  case or => exact fun h => laneSuch_wordOp h exec_or fun l j _ => BitVec.getLsbD_or
  case xor => exact fun h => laneSuch_wordOp h exec_xor fun l j _ => BitVec.getLsbD_xor
  case not =>
    exact fun h => laneSuch_wordOp h exec_not fun l j hj => by
      rw [BitVec.getLsbD_not, decide_eq_true hj, Bool.true_and]
  case andn =>
    exact fun h => laneSuch_wordOp h exec_andn fun l j hj => by
      rw [BitVec.getLsbD_and, BitVec.getLsbD_not, decide_eq_true hj, Bool.true_and]
  case traps =>
    intro i types last hi hk
    simp only [List.mem_cons, List.not_mem_nil, or_false, Prod.mk.injEq] at hi
    rcases hi with ⟨rfl, rfl, rfl⟩ | hi
    · exact shInt_traps (fun n => decide (5 < n.toNat % 8)) (fun _ => by simp) (fun _ => rfl) (by decide) o hk
    · rcases hi with hi | hi | hi | hi | hi | hi | hi | hi | hi | hi
      all_goals
        obtain ⟨rfl, rfl, rfl⟩ := hi
        exact shInt_traps (fun _ => false) (fun _ => by simp) (fun _ => rfl) (by decide) o hk

end Sys2Proof

/-! ## Encoding checks of block 0x40

The checks that any format-A shape makes on type, rounding and SUB (R93, R98), and the traps of an entry of R154. -/

namespace Sys2Proof

open Sys2Proof.Machine

section Checks

variable {h : ShA}

theorem fail1_of_unlisted_type (hr : h.o.typ.isRsv = false) (ht : h.o.typ ∉ .dflt :: h.tys) : h.fail1 = true := by
  simp only [List.mem_cons, not_or] at ht
  simp [ShA.fail1, hr, ht.1, ht.2]

theorem fail1_of_rnd_above (hr : h.o.rnd.isRsv = false) (hc : h.rnd < h.o.rnd.code) : h.fail1 = true := by
  simp [ShA.fail1, hr, hc]

theorem fail2_of_undefined_sub (hb : h.o.sub &&& ~~~h.mask ≠ 0 ∨ h.bad2 = true) : h.fail2 = true := by
  unfold ShA.fail2
  rcases hb with hb | hb <;> simp only [hb, ne_eq, not_false_eq_true, decide_true, Bool.or_true, Bool.true_or]

theorem encCheck_of_fail1 {i : Instr} (hs : shapeA i = some h) (hf : h.fail1 = true) : encCheck i = some 0x01 := by
  rw [encCheck_of_shapeA hs, hf]
  rfl

theorem encCheck_of_fail2 {i : Instr} (hs : shapeA i = some h) (h1 : h.fail1 = false) (h2 : h.fail2 = true) :
    encCheck i = some 0x02 := by
  rw [encCheck_of_shapeA hs, h1, h2]
  rfl

/-- An accepted entry has no SUB value that its shape leaves undefined (R98). -/
theorem defined_sub_of_accepted {i : Instr} {s : State} {k : Issuer} (ha : Accepted i s k) (hs : shapeA i = some h) :
    ¬(h.o.sub &&& ~~~h.mask ≠ 0 ∨ h.bad2 = true) := fun hb =>
  absurd (fail_of_encCheck_none hs ha.2.1).2 (by simp [fail2_of_undefined_sub hb])

/-- An entry that lists roundings up to 3 does not round stochastically. -/
theorem ne_sr_of_accepted {i : Instr} {s : State} {k : Issuer} (ha : Accepted i s k) (hs : shapeA i = some h)
    (h3 : h.rnd = 3) : h.o.rnd ≠ .sr := by
  intro hr
  have h1 := (fail_of_encCheck_none hs ha.2.1).1
  rw [fail1_of_rnd_above (by rw [hr]; rfl) (by rw [hr, h3]; decide)] at h1
  cases h1

end Checks

/-- An entry of R154 traps for a type and for a rounding that it does not list (0x01), and for a SUB value above its last
(0x02). -/
theorem shFp_traps {i : OpA → Instr} {tys types : List Ty} {rnd last : Nat} {mask : BitVec 6} {b c : Use} {s : State}
    {k : Issuer} (bad2 : BitVec 6 → Bool) (hx : ∀ o, ∃ body, exec (i o) s = issue (i o) s body)
    (hs : ∀ o, shapeA (i o) = some (shFp o tys rnd mask b c (bad2 o.sub))) (ht : tys ⊆ types)
    (hl : ∀ n : BitVec 6, last < n.toNat → n &&& ~~~mask ≠ 0 ∨ bad2 n = true) (o : OpA) (hk : s.issuer = some k) :
    (o.typ.isRsv = false → o.typ ∉ .dflt :: types → Traps (i o) s k s { cause := 0x01 })
    ∧ (o.rnd.isRsv = false → rnd < o.rnd.code → Traps (i o) s k s { cause := 0x01 })
    ∧ (encCheck (i { o with sub := 0 }) = none → last < o.sub.toNat → Traps (i o) s k s { cause := 0x02 }) := by
  refine ⟨fun hr hn => ?type, fun hr hn => ?rnd, fun he hn => ?sub⟩ <;> apply traps_of_encCheck hk (hx o)
  case type =>
    exact encCheck_of_fail1 (hs o) (fail1_of_unlisted_type hr fun hm => hn (List.cons_subset_cons _ ht hm))
  case rnd => exact encCheck_of_fail1 (hs o) (fail1_of_rnd_above hr hn)
  case sub =>
    have h1 : (shFp o tys rnd mask b c (bad2 o.sub)).fail1 = false := (fail_of_encCheck_none (hs _) he).1
    exact encCheck_of_fail2 (hs o) h1 (fail2_of_undefined_sub (hl o.sub hn))

end Sys2Proof

/-! ## Rounding an exact value

A magnitude cut at a spacing 2^q, and its rounding to an integral number of units (R146). -/

namespace Sys2Proof

open Sys2Proof.Machine

theorem abs_RAT_fin (neg : Bool) (m : Nat) (e : ℤ) : |RAT (.fin neg m e)| = (m : ℚ) * 2 ^ e := by
  have h0 : (0 : ℚ) ≤ (m : ℚ) * 2 ^ e := by positivity
  cases neg
  · simp only [RAT, Bool.false_eq_true, if_false, one_mul, abs_of_nonneg h0]
  · simp only [RAT, if_true, neg_mul, one_mul, abs_neg, abs_of_nonneg h0]

theorem RAT_fin_congr {neg : Bool} {m m' : Nat} {e e' : ℤ} (h : (m' : ℚ) * 2 ^ e' = m * 2 ^ e) :
    RAT (.fin neg m' e') = RAT (.fin neg m e) := by
  simp only [RAT, mul_assoc, h]

/-- The exponent of a non-zero magnitude m × 2^e. -/
theorem log_mul_two_zpow {m : Nat} (hm : m ≠ 0) (e : ℤ) : Int.log 2 ((m : ℚ) * 2 ^ e) = (m.log2 : ℤ) + e := by
  have hpos : (0 : ℚ) < (m : ℚ) * 2 ^ e := by positivity
  have hlo : (2 : ℚ) ^ m.log2 ≤ m := by exact_mod_cast Nat.log2_self_le hm
  have hhi : (m : ℚ) < 2 ^ (m.log2 + 1) := by exact_mod_cast Nat.lt_log2_self
  have h1 : (2 : ℚ) ^ ((m.log2 : ℤ) + e) ≤ m * 2 ^ e := by
    rw [zpow_add₀ two_ne_zero, zpow_natCast]
    gcongr
  have h2 : (m : ℚ) * 2 ^ e < 2 ^ ((m.log2 : ℤ) + e + 1) := by
    rw [add_right_comm, zpow_add₀ two_ne_zero, ← Nat.cast_succ, zpow_natCast]
    gcongr
  have h1' := (Int.zpow_le_iff_le_log one_lt_two hpos).mp (by exact_mod_cast h1)
  have h2' := (Int.lt_zpow_iff_log_lt one_lt_two hpos).mp (by exact_mod_cast h2)
  omega

/-- A cut keeps the value: its units and what is cut off, a fraction below 1. -/
theorem cutAt_value (m : Nat) (e q : ℤ) : (cutAt m e q).rem < (cutAt m e q).den
    ∧ (m : ℚ) * 2 ^ e / 2 ^ q = (cutAt m e q).n + ((cutAt m e q).rem : ℚ) / (cutAt m e q).den := by
  unfold cutAt
  split
  · next h =>
    obtain ⟨d, rfl⟩ := Int.le.dest h
    refine ⟨one_pos, ?_⟩
    rw [show (q + d - q).toNat = d by omega, zpow_add₀ two_ne_zero, zpow_natCast]
    push_cast
    field_simp
    rw [add_zero]
  · next h =>
    obtain ⟨d, rfl⟩ := Int.le.dest (not_le.mp h).le
    rw [show (e + d - e).toNat = d by omega]
    refine ⟨Nat.mod_lt _ (Nat.two_pow_pos d), ?_⟩
    have hdm : (m : ℚ) = 2 ^ d * (m / 2 ^ d : ℕ) + (m % 2 ^ d : ℕ) := by exact_mod_cast (Nat.div_add_mod m (2 ^ d)).symm
    rw [zpow_add₀ two_ne_zero, zpow_natCast]
    push_cast
    field_simp
    rw [hdm]

/-- A value that is a whole number of units is cut without remainder. -/
theorem cutAt_exact {m N : Nat} {e q : ℤ} (h : (m : ℚ) * 2 ^ e / 2 ^ q = N) :
    (cutAt m e q).n = N ∧ (cutAt m e q).rem = 0 := by
  obtain ⟨hr, hv⟩ := cutAt_value m e q
  have hd : (0 : ℚ) < (cutAt m e q).den := by exact_mod_cast Nat.zero_lt_of_lt hr
  have hz : (cutAt m e q).rem + (cutAt m e q).den * (cutAt m e q).n = (cutAt m e q).den * N := by
    rw [h] at hv
    field_simp at hv
    rw [mul_comm _ N, mul_comm _ (cutAt m e q).n, add_comm]
    exact_mod_cast hv.symm
  obtain ⟨hn, hr0⟩ := (Nat.div_mod_unique (Nat.zero_lt_of_lt hr)).mpr ⟨hz, hr⟩
  rw [Nat.mul_div_cancel_left _ (Nat.zero_lt_of_lt hr)] at hn
  rw [Nat.mul_mod_right] at hr0
  exact ⟨hn.symm, hr0.symm⟩

/-- A cut without remainder is not rounded up. -/
theorem up_exact {c : Cut} (hr : c.rem = 0) (hd : 0 < c.den) (mode : Rnd) (neg : Bool) (g : Nat) :
    c.up mode neg g = false := by
  cases mode <;> simp [Cut.up, hr, hd.ne]

theorem rounded_of_iff {b : Bool} {p : Prop} (h : b = true ↔ p) (n : Nat) :
    p ∧ ((if b then n + 1 else n : ℕ) : ℤ) = n + 1 ∨ ¬p ∧ ((if b then n + 1 else n : ℕ) : ℤ) = n := by
  cases b with
  | true => exact .inl ⟨h.mp rfl, by simp⟩
  | false => exact .inr ⟨fun hp => Bool.false_ne_true (h.mpr hp), by simp⟩

/-- The model's rounding of a cut is that of R146, for every rounding but the stochastic one. -/
theorem rounds_cut {mode : Rnd} (hm : mode ≠ .sr) (neg : Bool) (g m : Nat) (e q : ℤ) :
    let c := cutAt m e q
    ROUNDS mode neg ((m : ℚ) * 2 ^ e / 2 ^ q) (if c.up mode neg g then c.n + 1 else c.n : ℕ) := by
  intro c
  obtain ⟨hr, hv⟩ : c.rem < c.den ∧ _ = (c.n : ℚ) + (c.rem : ℚ) / c.den := cutAt_value m e q
  have hd : (0 : ℚ) < c.den := by exact_mod_cast Nat.zero_lt_of_lt hr
  have hlt : (c.rem : ℚ) / c.den < 1 := (div_lt_one hd).mpr (by exact_mod_cast hr)
  have hfl : ⌊(m : ℚ) * 2 ^ e / 2 ^ q⌋ = (c.n : ℤ) := by
    rw [hv, Int.floor_eq_iff]
    push_cast
    exact ⟨le_add_of_nonneg_right (by positivity), by linarith⟩
  have hfr : (m : ℚ) * 2 ^ e / 2 ^ q - ((c.n : ℤ) : ℚ) = (c.rem : ℚ) / c.den := by
    rw [hv]
    push_cast
    ring
  have hne : (c.rem != 0) = true ↔ (c.rem : ℚ) / c.den ≠ 0 := by
    simp [hd.ne']
  have hup : (decide (c.den < 2 * c.rem) || (decide (2 * c.rem = c.den) && c.n % 2 == 1)) = true
      ↔ 1 / 2 < (c.rem : ℚ) / c.den ∨ (c.rem : ℚ) / c.den = 1 / 2 ∧ (c.n : ℤ) % 2 = 1 := by
    have h1 : 1 / 2 < (c.rem : ℚ) / c.den ↔ c.den < 2 * c.rem := by
      rw [div_lt_div_iff₀ two_pos hd, one_mul, mul_comm]
      exact_mod_cast Iff.rfl
    have h2 : (c.rem : ℚ) / c.den = 1 / 2 ↔ 2 * c.rem = c.den := by
      rw [div_eq_div_iff hd.ne' two_ne_zero, one_mul, mul_comm]
      exact_mod_cast Iff.rfl
    rw [h1, h2, Bool.or_eq_true, Bool.and_eq_true, decide_eq_true_iff, decide_eq_true_iff, beq_iff_eq]
    omega
  unfold ROUNDS
  rw [hfl]
  simp only [hfr]
  cases mode with
  | sr => exact absurd rfl hm
  | rz => exact rounded_of_iff (by simp [Cut.up]) _
  | rd => exact rounded_of_iff (by simp only [Cut.up, Bool.and_eq_true, hne]) _
  | ru => exact rounded_of_iff (by simp only [Cut.up, Bool.and_eq_true, hne, Bool.not_eq_true']) _
  | rn => exact rounded_of_iff hup _
  | rsv x => exact rounded_of_iff hup _

end Sys2Proof

/-! ## FP32 words

What a word holds as an FP32 value (Table 06-1), by its sign and the 31 bits of its magnitude; and exact conversion to it. -/

namespace Sys2Proof

open Sys2Proof.Machine

/-! ### Magnitudes -/

/-- The significand of an FP32 magnitude. -/
def sigOf (m : Nat) : Nat := if m < 8388608 then m else 8388608 + m % 8388608

/-- The exponent of its unit. -/
def expOf (m : Nat) : ℤ := ((m / 8388608 - 1 : ℕ) : ℤ) - 149

/-- An FP32 magnitude in units of 2^-149. -/
def unitsOf (m : Nat) : Nat := sigOf m * 2 ^ (m / 8388608 - 1)

theorem sigOf_lt (m : Nat) : sigOf m < 16777216 := by
  unfold sigOf
  split <;> omega

theorem sigOf_eq_zero {m : Nat} : sigOf m = 0 ↔ m = 0 := by
  unfold sigOf
  split <;> omega

theorem expOf_bounds {m : Nat} (h : m < 0x7F800000) : -149 ≤ expOf m ∧ expOf m ≤ 104 := by
  unfold expOf
  omega

theorem sigOf_mul_expOf (m : Nat) : (sigOf m : ℚ) * 2 ^ expOf m = unitsOf m * 2 ^ (-149 : ℤ) := by
  unfold expOf unitsOf
  rw [sub_eq_add_neg, zpow_add₀ two_ne_zero, zpow_natCast]
  push_cast
  ring

/-- The encoding of `n` units of 2^(k - 149), as CONVERT forms it, is worth that. -/
theorem unitsOf_encoding {k n : Nat} (hn : n < 16777216) (h : k = 0 ∨ 8388608 ≤ n) :
    unitsOf (k * 8388608 + n) = n * 2 ^ k := by
  unfold unitsOf sigOf
  rcases Nat.lt_or_ge n 8388608 with hs | hs
  · obtain rfl : k = 0 := by omega
    rw [if_pos (by omega), show (0 * 8388608 + n) / 8388608 - 1 = 0 by omega, zero_mul, zero_add]
  · rw [if_neg (by omega), show (k * 8388608 + n) / 8388608 - 1 = k by omega,
      show 8388608 + (k * 8388608 + n) % 8388608 = n by omega]

/-- A larger magnitude is worth more. -/
theorem unitsOf_strictMono : StrictMono unitsOf := strictMono_nat_of_lt_succ fun m => by
  obtain ⟨k, n, rfl, hn, h⟩ : ∃ k n, m = k * 8388608 + n ∧ n < 16777216 ∧ (k = 0 ∨ 8388608 ≤ n) :=
    ⟨m / 8388608 - 1, m - (m / 8388608 - 1) * 8388608, by omega, by omega, by omega⟩
  have hp := Nat.two_pow_pos k
  rw [unitsOf_encoding hn h]
  rcases Nat.lt_or_ge (n + 1) 16777216 with hs | hs
  · rw [show k * 8388608 + n + 1 = k * 8388608 + (n + 1) by omega, unitsOf_encoding hs (by omega)]
    exact Nat.mul_lt_mul_of_pos_right n.lt_succ_self hp
  · rw [show k * 8388608 + n + 1 = (k + 1) * 8388608 + 8388608 by omega, unitsOf_encoding (by omega) (by omega),
      pow_succ, show 8388608 * (2 ^ k * 2) = 16777216 * 2 ^ k by omega]
    exact Nat.mul_lt_mul_of_pos_right hn hp

theorem unitsOf_zero : unitsOf 0 = 0 := rfl

/-! ### Reading a word -/

/-- The 31 bits of a word's magnitude. -/
def magOf (w : Word) : Nat := w.toNat % 2147483648

theorem magOf_lt (w : Word) : magOf w < 2147483648 := Nat.mod_lt _ (by decide)

/-- Table 06-1 for FP32: the fields of a word, read from its magnitude. -/
theorem f32_fields (w : Word) : f32 w = if magOf w / 8388608 = 255 then
      (if magOf w % 8388608 = 0 then .inf (w.getLsbD 31) else .nan)
    else if magOf w / 8388608 = 0 then .fin (w.getLsbD 31) (magOf w % 8388608) (-149)
    else .fin (w.getLsbD 31) (8388608 + magOf w % 8388608) (-149 + ((magOf w / 8388608 : ℕ) - 1 : ℤ)) := by
  have he : w.toNat / 8388608 % 256 = magOf w / 8388608 := by unfold magOf; omega
  have hf : w.toNat % 8388608 = magOf w % 8388608 := by unfold magOf; omega
  rw [← he, ← hf]
  simp [f32, Fmt.decode, Fmt.intRange, Fmt.frac, Fmt.expBits, Fmt.width, Fmt.minQ, Fmt.bias, BitVec.getLsbD]
  congr

theorem f32_eq (w : Word) : f32 w = if 0x7F800000 < magOf w then .nan
    else if magOf w = 0x7F800000 then .inf (w.getLsbD 31) else .fin (w.getLsbD 31) (sigOf (magOf w)) (expOf (magOf w)) := by
  have hm := magOf_lt w
  rw [f32_fields]
  unfold sigOf expOf
  by_cases hn : 0x7F800000 < magOf w
  · rw [if_pos hn, if_pos (by omega), if_neg (by omega)]
  rw [if_neg hn]
  by_cases hi : magOf w = 0x7F800000
  · rw [if_pos hi, if_pos (by omega), if_pos (by omega)]
  rw [if_neg hi, if_neg (by omega)]
  by_cases hs : magOf w < 8388608
  · rw [if_pos hs, if_pos (by omega)]
    congr 1 <;> omega
  · rw [if_neg hs, if_neg (by omega)]
    congr 1
    omega

theorem f32_eq_nan {w : Word} : f32 w = .nan ↔ 0x7F800000 < magOf w := by
  rw [f32_eq]
  split_ifs <;> simp [*]

theorem f32_eq_inf {w : Word} {neg : Bool} : f32 w = .inf neg ↔ magOf w = 0x7F800000 ∧ w.getLsbD 31 = neg := by
  rw [f32_eq]
  split_ifs with h1 h2
  · simp [h1.ne']
  · simp [h2]
  · simp [h2]

theorem f32_eq_fin {w : Word} {neg : Bool} {m : Nat} {e : ℤ} : f32 w = .fin neg m e ↔
    magOf w < 0x7F800000 ∧ w.getLsbD 31 = neg ∧ sigOf (magOf w) = m ∧ expOf (magOf w) = e := by
  rw [f32_eq]
  split_ifs with h1 h2
  · simp [h1.le]
  · simp [h2]
  · simp [lt_of_le_of_ne (not_lt.mp h1) h2]

/-! ### Forming a word -/

/-- The word of a sign and a magnitude. -/
def wordOfMag (neg : Bool) (mag : Nat) : Word := BitVec.ofNat 32 (Fmt.f32.signed neg mag)

theorem toNat_wordOfMag {mag : Nat} (h : mag < 2147483648) (neg : Bool) :
    (wordOfMag neg mag).toNat = (if neg then 2147483648 else 0) + mag := by
  unfold wordOfMag
  rw [BitVec.toNat_ofNat]
  cases neg
  · simp only [Fmt.signed, Bool.false_eq_true, if_false, zero_add]
    omega
  · simp only [Fmt.signed, Fmt.width, if_true]
    omega

theorem getLsbD_31 (w : Word) : w.getLsbD 31 = decide (2147483648 ≤ w.toNat) := by
  rw [← BitVec.msb_eq_getLsbD_last w, BitVec.msb_eq_decide]

theorem magOf_wordOfMag {mag : Nat} (h : mag < 2147483648) (neg : Bool) : magOf (wordOfMag neg mag) = mag := by
  unfold magOf
  rw [toNat_wordOfMag h]
  cases neg
  · simp only [Bool.false_eq_true, if_false, zero_add]
    omega
  · simp only [if_true]
    omega

theorem sign_wordOfMag {mag : Nat} (h : mag < 2147483648) (neg : Bool) : (wordOfMag neg mag).getLsbD 31 = neg := by
  rw [getLsbD_31, toNat_wordOfMag h]
  cases neg
  · simp [h]
  · simp

/-- A word is its sign and its magnitude. -/
theorem wordOfMag_magOf (w : Word) : wordOfMag (w.getLsbD 31) (magOf w) = w := by
  have hw := w.isLt
  apply BitVec.eq_of_toNat_eq
  rw [toNat_wordOfMag (magOf_lt w), getLsbD_31]
  simp only [magOf, decide_eq_true_eq]
  split <;> omega

theorem f32_wordOfMag {mag : Nat} (h : mag < 0x7F800000) (neg : Bool) :
    f32 (wordOfMag neg mag) = .fin neg (sigOf mag) (expOf mag) := by
  rw [f32_eq_fin, magOf_wordOfMag (by omega), sign_wordOfMag (by omega)]
  exact ⟨h, rfl, rfl, rfl⟩

/-! ### CONVERT to FP32 -/

theorem toF32_nan (mode : Rnd) : toF32 .nan mode = 0x7FC00000 := rfl

theorem toF32_zero (neg : Bool) (e : ℤ) (mode : Rnd) : toF32 (.fin neg 0 e) mode = wordOfMag neg 0 := by
  unfold toF32 convert wordOfMag
  simp only [Fmt.intRange, if_true]

/-- An infinity is converted to the word it was read from. -/
theorem toF32_of_inf {w : Word} {neg : Bool} (h : f32 w = .inf neg) (mode : Rnd) : toF32 (.inf neg) mode = w := by
  obtain ⟨hm, hs⟩ := f32_eq_inf.mp h
  rw [← wordOfMag_magOf w, hm, hs]
  rfl

/-- A zero is converted to the word it was read from. -/
theorem toF32_of_zero {w : Word} {neg : Bool} {e : ℤ} (h : f32 w = .fin neg 0 e) (mode : Rnd) :
    toF32 (.fin neg 0 e) mode = w := by
  obtain ⟨_, hs, hm, _⟩ := f32_eq_fin.mp h
  rw [toF32_zero, ← wordOfMag_magOf w, sigOf_eq_zero.mp hm, hs]

theorem magEnc_f32 (n : Nat) (q : ℤ) : Fmt.f32.magEnc n q = (q + 149).toNat * 8388608 + n := by
  simp [Fmt.magEnc, Fmt.minQ, Fmt.bias, Fmt.frac]

theorem spacing_f32 (m : Nat) (e : ℤ) : Fmt.f32.spacing m e = max ((m.log2 : ℤ) + e - 23) (-149) := by
  simp [Fmt.spacing, Fmt.intRange, Fmt.minQ, Fmt.bias, Fmt.frac]

/-- A value of `N` units of FP32's spacing, `N` below 2^24, is converted without rounding. -/
theorem toF32_of_units {neg : Bool} {m N : Nat} {e : ℤ} (hm : m ≠ 0) (hq : Fmt.f32.spacing m e ≤ 104)
    (hv : (m : ℚ) * 2 ^ e / 2 ^ Fmt.f32.spacing m e = N) (hN : N < 16777216) :
    toF32 (.fin neg m e) .rn = wordOfMag neg ((Fmt.f32.spacing m e + 149).toNat * 8388608 + N) := by
  obtain ⟨hn, hr⟩ := cutAt_exact hv
  have hup : (cutAt m e (Fmt.f32.spacing m e)).up .rn neg 0 = false :=
    up_exact hr (Nat.zero_lt_of_lt (cutAt_value m e _).1) .rn neg 0
  have hmag : ¬ Fmt.f32.maxEnc < (Fmt.f32.spacing m e + 149).toNat * 8388608 + N := by
    simp only [Fmt.maxEnc]
    omega
  unfold toF32 convert wordOfMag
  simp only [Fmt.intRange, hm, if_false, hup, Bool.false_eq_true, hn, magEnc_f32, hmag]

/-- At FP32's spacing 2^q a value of at most 24 significant bits is a whole number of units, normal or at the least spacing. -/
theorem units_at_spacing {M : Nat} {E q : ℤ} (hM0 : M ≠ 0) (hM : M < 16777216) (hE : -149 ≤ E)
    (hq : q = max ((M.log2 : ℤ) + E - 23) (-149)) :
    ∃ N : ℕ, (M : ℚ) * 2 ^ E / 2 ^ q = N ∧ N < 16777216 ∧ (q = -149 ∨ 8388608 ≤ N) := by
  have hM24 : M.log2 < 24 := (Nat.log2_lt hM0).mpr (hM.trans_eq (by norm_num))
  obtain ⟨d, hd⟩ := Int.le.dest (show q ≤ E by omega)
  refine ⟨M * 2 ^ d, ?_, ?_, ?_⟩
  · rw [← hd, zpow_add₀ two_ne_zero, zpow_natCast]
    push_cast
    field_simp
  · calc M * 2 ^ d < 2 ^ (M.log2 + 1) * 2 ^ d := Nat.mul_lt_mul_of_pos_right Nat.lt_log2_self (Nat.two_pow_pos d)
      _ = 2 ^ (M.log2 + 1 + d) := (pow_add ..).symm
      _ ≤ 2 ^ 24 := Nat.pow_le_pow_right two_pos (by omega)
      _ = 16777216 := by norm_num
  · rcases eq_or_ne q (-149) with h | h
    · exact .inl h
    · refine .inr ?_
      calc 8388608 = 2 ^ 23 := by norm_num
        _ = 2 ^ M.log2 * 2 ^ d := by rw [← pow_add, show M.log2 + d = 23 by omega]
        _ ≤ M * 2 ^ d := Nat.mul_le_mul_right _ (Nat.log2_self_le hM0)

/-- A value that FP32 holds is converted to itself: `M` units of 2^E, `M` below 2^24 and `E` from -149 to 104. -/
theorem f32_toF32_exact {neg : Bool} {m M : Nat} {e E : ℤ} (hv : (m : ℚ) * 2 ^ e = M * 2 ^ E) (hM : M < 16777216)
    (hE : -149 ≤ E) (hE' : E ≤ 104) :
    ∃ m' e', f32 (toF32 (.fin neg m e) .rn) = .fin neg m' e' ∧ (m' : ℚ) * 2 ^ e' = m * 2 ^ e := by
  rcases eq_or_ne m 0 with rfl | hm
  · rw [toF32_zero]
    exact ⟨_, _, f32_wordOfMag (by decide) neg, by simp [sigOf]⟩
  have hM0 : M ≠ 0 := by
    rintro rfl
    have : (m : ℚ) * 2 ^ e ≠ 0 := by positivity
    simp [hv] at this
  -- The exponent of the value, read from both of its forms.
  have hL : (m.log2 : ℤ) + e = M.log2 + E := by rw [← log_mul_two_zpow hm, hv, log_mul_two_zpow hM0]
  have hM24 : M.log2 < 24 := (Nat.log2_lt hM0).mpr (hM.trans_eq (by norm_num))
  have hq := spacing_f32 m e
  rw [hL] at hq
  obtain ⟨N, hunits, hN, hnorm⟩ := units_at_spacing hM0 hM hE hq
  rw [← hv] at hunits
  rw [toF32_of_units hm (by omega) hunits hN]
  refine ⟨_, _, f32_wordOfMag (by omega) neg, ?_⟩
  rw [sigOf_mul_expOf, unitsOf_encoding hN (hnorm.imp_left fun h => by omega), Nat.cast_mul, ← hunits, Nat.cast_pow,
    Nat.cast_two, ← zpow_natCast, Int.toNat_of_nonneg (by omega), mul_assoc, ← zpow_add₀ two_ne_zero,
    add_neg_cancel_right, div_mul_cancel₀]
  positivity

end Sys2Proof

/-! ## Comparison and conversion of FP32

FCMP, FCLASS, FRND, FTOI, ITOF, FEXP, FMANT and LDEXP (R157, R158, R159). -/

namespace Sys2Proof

open Sys2Proof.Machine

section Equations

variable {o : OpA} {s : State}

@[simp] theorem exec_fcmp : exec (.fcmp o) s = wordOp (.fcmp o) o s fun a b _ => if fcmpCc o.subLo a b then 1 else 0 := rfl
@[simp] theorem exec_fclass : exec (.fclass o) s = wordOp (.fclass o) o s fun a _ _ => BitVec.ofNat 32 (2 ^ classBit a) := rfl
@[simp] theorem exec_frnd : exec (.frnd o) s = wordOp (.frnd o) o s fun a _ _ =>
    toF32 (roundIntegral (f32 a) o.rnd) .rn := rfl
@[simp] theorem exec_ftoi : exec (.ftoi o) s = wordOp (.ftoi o) o s fun a _ _ =>
    BitVec.ofNat 32 (convert (f32 a) (if o.isN32 then .n32 else .i32) o.rnd false 0) := rfl
@[simp] theorem exec_itof : exec (.itof o) s = wordOp (.itof o) o s fun a _ _ => toF32 (ofInt (val o.isN32 a) 0) o.rnd := rfl
@[simp] theorem exec_fexp : exec (.fexp o) s = wordOp (.fexp o) o s fun a _ _ => wordOf (fexpOut a) := rfl
@[simp] theorem exec_fmant : exec (.fmant o) s = wordOp (.fmant o) o s fun a _ _ =>
    toF32 (if (f32 a).isZero then f32 a else (f32 a).scale (-fexpOut a)) .rn := rfl
@[simp] theorem exec_ldexp : exec (.ldexp o) s = wordOp (.ldexp o) o s fun a b _ => toF32 ((f32 a).scale b.toInt) o.rnd := rfl

end Equations

/-! ### Comparison and classification (R157) -/

theorem isNan32_iff {w : Word} : isNan32 w = true ↔ f32 w = .nan := by
  rw [f32_eq_nan]
  exact decide_eq_true_iff

/-- The comparison key is the magnitude with its sign, so that −0 equals +0. -/
theorem f32Cmp_eq (w : Word) : f32Cmp w = if w.getLsbD 31 then -(magOf w : ℤ) else magOf w := by
  have hk : f32Key w = if w.getLsbD 31 then -(magOf w : ℤ) - 1 else magOf w := rfl
  unfold f32Cmp
  rw [hk]
  cases w.getLsbD 31
  · rw [if_neg Bool.false_ne_true, if_neg (by omega), if_neg (by omega)]
    rfl
  · rw [if_pos rfl, if_pos rfl]
    by_cases hm : magOf w = 0
    · simp [hm]
    · rw [if_neg (by omega), if_pos (by omega)]
      omega

/-- An odd extension of a rising function rises. -/
theorem signed_lt_iff {f : Nat → Nat} (hf : StrictMono f) (h0 : f 0 = 0) (x y : Bool) (a b : Nat) :
    ((if x then -(f a : ℤ) else f a) < if y then -(f b : ℤ) else f b)
      ↔ (if x then -(a : ℤ) else a) < if y then -(b : ℤ) else b := by
  have hab := hf.lt_iff_lt (a := a) (b := b)
  have hba := hf.lt_iff_lt (a := b) (b := a)
  have ha := hf.lt_iff_lt (a := 0) (b := a)
  have hb := hf.lt_iff_lt (a := 0) (b := b)
  cases x <;> cases y <;> simp only [Bool.false_eq_true, if_false, if_true] <;> omega

/-- A finite word's value is its magnitude's units, with its sign. -/
theorem RAT_of_fin {w : Word} {neg : Bool} {m : Nat} {e : ℤ} (h : f32 w = .fin neg m e) :
    RAT (.fin neg m e) = ((if neg then -(unitsOf (magOf w) : ℤ) else unitsOf (magOf w) : ℤ) : ℚ) * 2 ^ (-149 : ℤ) := by
  obtain ⟨_, _, rfl, rfl⟩ := f32_eq_fin.mp h
  cases neg
  · simp only [RAT, Bool.false_eq_true, if_false, one_mul, sigOf_mul_expOf, Int.cast_natCast]
  · simp only [RAT, if_true, sigOf_mul_expOf, Int.cast_neg, Int.cast_natCast, neg_mul, one_mul]

theorem abs_RAT_of_fin {w : Word} {neg : Bool} {m : Nat} {e : ℤ} (h : f32 w = .fin neg m e) :
    |RAT (.fin neg m e)| = (unitsOf (magOf w) : ℚ) * 2 ^ (-149 : ℤ) := by
  obtain ⟨_, _, rfl, rfl⟩ := f32_eq_fin.mp h
  rw [abs_RAT_fin, sigOf_mul_expOf]

/-- The comparison key orders words as their values are ordered, the infinities included; NaN is unordered. -/
theorem FLESS_f32 (u v : Word) : FLESS (f32 u) (f32 v) ↔ f32 u ≠ .nan ∧ f32 v ≠ .nan ∧ f32Cmp u < f32Cmp v := by
  rw [f32Cmp_eq, f32Cmp_eq]
  cases hu : f32 u with
  | nan => simp [FLESS]
  | inf x =>
    obtain ⟨hmu, hsu⟩ := f32_eq_inf.mp hu
    cases hv : f32 v with
    | nan => simp [FLESS]
    | inf y =>
      obtain ⟨hmv, hsv⟩ := f32_eq_inf.mp hv
      rw [hmu, hmv, hsu, hsv]
      cases x <;> cases y <;> simp [FLESS]
    | fin y n f =>
      obtain ⟨hmv, hsv, -, -⟩ := f32_eq_fin.mp hv
      rw [hmu, hsu, hsv]
      cases x <;> cases y <;> simp [FLESS] <;> omega
  | fin x m e =>
    obtain ⟨hmu, hsu, -, -⟩ := f32_eq_fin.mp hu
    cases hv : f32 v with
    | nan => simp [FLESS]
    | inf y =>
      obtain ⟨hmv, hsv⟩ := f32_eq_inf.mp hv
      rw [hmv, hsu, hsv]
      cases x <;> cases y <;> simp [FLESS] <;> omega
    | fin y n f =>
      have hsv := (f32_eq_fin.mp hv).2.1
      rw [hsu, hsv, ← signed_lt_iff unitsOf_strictMono unitsOf_zero]
      have hp : (0 : ℚ) < 2 ^ (-149 : ℤ) := by positivity
      show RAT (.fin x m e) < RAT (.fin y n f) ↔ _
      rw [RAT_of_fin hu, RAT_of_fin hv, mul_lt_mul_iff_left₀ hp, Int.cast_lt]
      simp

theorem FSAME_f32 (u v : Word) : FSAME (f32 u) (f32 v) ↔ f32 u ≠ .nan ∧ f32 v ≠ .nan ∧ f32Cmp u = f32Cmp v := by
  unfold FSAME
  rw [FLESS_f32, FLESS_f32]
  constructor
  · rintro ⟨hu, hv, h1, h2⟩
    exact ⟨hu, hv, le_antisymm (not_lt.mp fun h => h2 ⟨hv, hu, h⟩) (not_lt.mp fun h => h1 ⟨hu, hv, h⟩)⟩
  · rintro ⟨hu, hv, h⟩
    exact ⟨hu, hv, fun ⟨_, _, hl⟩ => hl.ne h, fun ⟨_, _, hg⟩ => hg.ne' h⟩

/-- What FCMP's code `n` says of two words. -/
def FCmpSays (n : Nat) (u v : Word) : Prop := match n with
  | 0 => FSAME (f32 u) (f32 v) | 1 => ¬ FSAME (f32 u) (f32 v) | 2 => FLESS (f32 u) (f32 v)
  | 3 => FLESS (f32 u) (f32 v) ∨ FSAME (f32 u) (f32 v) | 4 => FLESS (f32 v) (f32 u)
  | 5 => FLESS (f32 v) (f32 u) ∨ FSAME (f32 u) (f32 v)
  | _ => f32 u = .nan ∨ f32 v = .nan

/-- FCMP's codes on two words: NaN satisfies .ne and .un alone. -/
theorem fcmpCc_iff {n : Nat} (hn : n ≤ 6) (u v : Word) : fcmpCc n u v = true ↔ FCmpSays n u v := by
  unfold fcmpCc
  simp only [isNan32_iff]
  by_cases h : f32 u = .nan ∨ f32 v = .nan
  · have hs : ¬ FSAME (f32 u) (f32 v) := fun hs => h.elim hs.1 hs.2.1
    have hl : ¬ FLESS (f32 u) (f32 v) := fun hl => by
      obtain ⟨hu, hv, _⟩ := (FLESS_f32 u v).mp hl
      exact h.elim hu hv
    have hg : ¬ FLESS (f32 v) (f32 u) := fun hg => by
      obtain ⟨hv, hu, _⟩ := (FLESS_f32 v u).mp hg
      exact h.elim hu hv
    rw [if_pos h]
    interval_cases n <;> simp [FCmpSays, h, hs, hl, hg]
  · obtain ⟨hu, hv⟩ := not_or.mp h
    rw [if_neg h]
    interval_cases n <;> simp [FCmpSays, icmpCc, FSAME_f32, FLESS_f32, hu, hv] <;> omega

/-- SUB of an accepted FCMP names one of its seven codes. -/
theorem fcmp_sub {o : OpA} {s : State} {k : Issuer} (h : Accepted (.fcmp o) s k) : o.sub.toNat ≤ 6 := by
  have hd : ∀ n : BitVec 6, ¬(n &&& ~~~7#6 ≠ 0 ∨ decide (n.toNat % 8 = 7) = true) → n.toNat ≤ 6 := by decide
  exact hd o.sub (defined_sub_of_accepted h rfl)

/-- FCLASS reads a word's magnitude, its sign and the quiet bit. -/
theorem classBit_eq (w : Word) : classBit w = if 0x7F800000 < magOf w then (if w.getLsbD 22 then 9 else 8)
    else if magOf w = 0x7F800000 then (if w.getLsbD 31 then 0 else 7)
    else if magOf w = 0 then (if w.getLsbD 31 then 3 else 4)
    else if magOf w < 8388608 then (if w.getLsbD 31 then 2 else 5) else if w.getLsbD 31 then 1 else 6 := rfl

theorem classBit_nan {w : Word} (h : f32 w = .nan) : classBit w = if w.getLsbD 22 then 9 else 8 := by
  rw [classBit_eq, if_pos (f32_eq_nan.mp h)]

theorem classBit_inf {w : Word} {neg : Bool} (h : f32 w = .inf neg) : classBit w = if neg then 0 else 7 := by
  obtain ⟨hm, hs⟩ := f32_eq_inf.mp h
  rw [classBit_eq, if_neg (by omega), if_pos hm, hs]

/-- The bit of a finite word's class, by its magnitude's value. -/
theorem classBit_fin {w : Word} {neg : Bool} {m : Nat} {e : ℤ} (h : f32 w = .fin neg m e) :
    let n := |RAT (.fin neg m e)|
    2 ^ classBit w = if n = 0 then (if neg then 8 else 16)
      else if n < 2 ^ (-126 : ℤ) then (if neg then 4 else 32) else if neg then 2 else 64 := by
  obtain ⟨hm, hs, -, -⟩ := f32_eq_fin.mp h
  have hp : (0 : ℚ) < 2 ^ (-149 : ℤ) := by positivity
  have h0 : |RAT (.fin neg m e)| = 0 ↔ magOf w = 0 := by
    rw [abs_RAT_of_fin h, mul_eq_zero, or_iff_left hp.ne', Nat.cast_eq_zero]
    exact unitsOf_strictMono.injective.eq_iff' unitsOf_zero
  have h1 : |RAT (.fin neg m e)| < 2 ^ (-126 : ℤ) ↔ magOf w < 8388608 := by
    have hu : ((unitsOf 8388608 : ℕ) : ℚ) * 2 ^ (-149 : ℤ) = 2 ^ (-126 : ℤ) := by
      rw [show unitsOf 8388608 = 8388608 from rfl]
      norm_num
    rw [abs_RAT_of_fin h, ← hu, mul_lt_mul_iff_left₀ hp, Nat.cast_lt]
    exact unitsOf_strictMono.lt_iff_lt
  have hc : classBit w = if magOf w = 0 then (if neg then 3 else 4)
      else if magOf w < 8388608 then (if neg then 2 else 5) else if neg then 1 else 6 := by
    rw [classBit_eq, if_neg (by omega), if_neg (by omega), hs]
  intro n
  simp only [n, h0, h1, hc]
  split_ifs <;> rfl

/-! ### Integral values and integers (R158) -/

/-- An FP32 value rounded to an integral number is again an FP32 value: it is its own where its unit is at least 1, and at most
2^23 elsewhere. -/
theorem rounded_in_f32 {m : Nat} {e : ℤ} (hm : m < 16777216) (he : e ≤ 104) (mode : Rnd) (neg : Bool) :
    let c := cutAt m e 0
    ∃ (M : ℕ) (E : ℤ), ((if c.up mode neg 0 then c.n + 1 else c.n : ℕ) : ℚ) * 2 ^ (0 : ℤ) = M * 2 ^ E ∧ M < 16777216
      ∧ -149 ≤ E ∧ E ≤ 104 := by
  intro c
  rcases le_or_gt 0 e with h | h
  · have hc : c = { n := m * 2 ^ (e - 0).toNat, rem := 0, den := 1 } := if_pos h
    rw [up_exact (by rw [hc]) (by rw [hc]; exact one_pos), hc]
    refine ⟨m, e, ?_, hm, by omega, he⟩
    simp only [Bool.false_eq_true, if_false, zpow_zero, mul_one]
    push_cast
    rw [← zpow_natCast, Int.toNat_of_nonneg (by omega), sub_zero]
  · have hn : c.n = m / 2 ^ (0 - e).toNat := by
      unfold c cutAt
      rw [if_neg (by omega)]
    have hle : c.n ≤ m / 2 := by
      rw [hn]
      refine Nat.div_le_div_left ?_ two_pos
      exact Nat.le_self_pow (n := (0 - e).toNat) (by omega) 2
    refine ⟨_, 0, rfl, ?_, by decide, by decide⟩
    split <;> omega

/-- FRND of a finite value: an FP32 value with its sign and the rounded magnitude. -/
theorem frnd_fin {w : Word} {neg : Bool} {m : Nat} {e : ℤ} (h : f32 w = .fin neg m e) {mode : Rnd} (hm : mode ≠ .sr) :
    let x := f32 (toF32 (roundIntegral (.fin neg m e) mode) .rn)
    SIGN x = neg ∧ FINITE x ∧ ∃ n : ℤ, ROUNDS mode neg |RAT (.fin neg m e)| n ∧ |RAT x| = n := by
  obtain ⟨hw, -, rfl, rfl⟩ := f32_eq_fin.mp h
  have hr := rounds_cut hm neg 0 (sigOf (magOf w)) (expOf (magOf w)) 0
  rw [zpow_zero, div_one, ← abs_RAT_fin neg] at hr
  obtain ⟨M, E, hv, hM, hE, hE'⟩ := rounded_in_f32 (sigOf_lt (magOf w)) (expOf_bounds hw).2 mode neg
  obtain ⟨m', e', hf, hval⟩ := f32_toF32_exact (neg := neg) hv hM hE hE'
  intro x
  have hx : x = .fin neg m' e' := hf
  rw [hx]
  refine ⟨rfl, trivial, _, hr, ?_⟩
  rw [abs_RAT_fin, hval, zpow_zero, mul_one, Int.cast_natCast]

section Integers

variable {f : Fmt} {r : ℤ × ℤ}

theorem convert_int_nan (hf : f.intRange = some r) (mode : Rnd) (sat : Bool) (g : Nat) : convert .nan f mode sat g = 0 := by
  unfold convert
  rw [hf]

theorem convert_int_inf (hf : f.intRange = some r) (neg : Bool) (mode : Rnd) (sat : Bool) (g : Nat) :
    convert (.inf neg) f mode sat g = f.clampInt r (if neg then r.1 else r.2) := by
  unfold convert
  rw [hf]

theorem convert_int_fin (hf : f.intRange = some r) (neg : Bool) (m : Nat) (e : ℤ) (mode : Rnd) (sat : Bool) (g : Nat) :
    let c := cutAt m e 0
    let n : ℕ := if c.up mode neg g then c.n + 1 else c.n
    convert (.fin neg m e) f mode sat g = f.clampInt r (if neg then -(n : ℤ) else n) := by
  unfold convert
  rw [hf]

end Integers

/-- FTOI's destination. -/
def ftoiFmt (o : OpA) : Fmt := if o.isN32 then .n32 else .i32

theorem intRange_ftoiFmt (o : OpA) : (ftoiFmt o).intRange = some (LO o, HI o) := by
  rw [← loOf_isN32, ← hiOf_isN32]
  unfold ftoiFmt
  cases o.isN32 <;> rfl

/-- The word of a clamped integer is worth the clamped integer. -/
theorem VAL_clampInt (o : OpA) (x : ℤ) :
    VAL o (BitVec.ofNat 32 ((ftoiFmt o).clampInt (LO o, HI o) x)) = max (LO o) (min (HI o) x) := by
  have hw : (ftoiFmt o).width = 32 := by
    unfold ftoiFmt
    cases o.isN32 <;> rfl
  have hword : BitVec.ofNat 32 ((ftoiFmt o).clampInt (LO o, HI o) x) = wordOf (max (LO o) (min (HI o) x)) := by
    unfold Fmt.clampInt wordOf
    rw [hw]
    apply BitVec.eq_of_toNat_eq
    rw [BitVec.toNat_ofNat, BitVec.toNat_ofInt]
    omega
  rw [hword]
  exact VAL_wordOf (le_max_left _ _) (max_le (LO_le_HI o) (min_le_left _ _))

/-- FTOI of an infinity: the end of the type's range. -/
theorem ftoi_inf (o : OpA) (neg : Bool) :
    VAL o (BitVec.ofNat 32 (convert (.inf neg) (ftoiFmt o) o.rnd false 0)) = if neg then LO o else HI o := by
  have h := LO_le_HI o
  rw [convert_int_inf (intRange_ftoiFmt o), VAL_clampInt]
  cases neg
  · exact (max_eq_right (le_min h h)).trans (min_self _)
  · exact max_eq_left (min_le_right _ _)

/-- FTOI of a finite value: its rounded magnitude, with its sign, clamped. -/
theorem ftoi_fin {o : OpA} (hm : o.rnd ≠ .sr) (neg : Bool) (m : Nat) (e : ℤ) :
    ∃ n : ℤ, ROUNDS o.rnd neg |RAT (.fin neg m e)| n
      ∧ VAL o (BitVec.ofNat 32 (convert (.fin neg m e) (ftoiFmt o) o.rnd false 0))
        = max (LO o) (min (HI o) (if neg then -n else n)) := by
  have hr := rounds_cut hm neg 0 m e 0
  rw [zpow_zero, div_one, ← abs_RAT_fin neg] at hr
  exact ⟨_, hr, by rw [convert_int_fin (intRange_ftoiFmt o), VAL_clampInt]⟩

theorem RAT_ofInt (x : ℤ) : RAT (ofInt x 0) = x := by
  simp only [ofInt, RAT, zpow_zero, mul_one, Nat.cast_natAbs, decide_eq_true_eq]
  split
  · next h => rw [abs_of_neg h]; simp
  · next h => rw [abs_of_nonneg (not_lt.mp h), one_mul]

/-! ### Exponents and mantissas (R159) -/

theorem RAT_scale (neg : Bool) (m : Nat) (e n : ℤ) : RAT (.fin neg m (e + n)) = RAT (.fin neg m e) * 2 ^ n := by
  simp only [RAT, zpow_add₀ (two_ne_zero (α := ℚ)), mul_assoc]

theorem log_abs_RAT {m : Nat} (hm : m ≠ 0) (neg : Bool) (e : ℤ) : Int.log 2 |RAT (.fin neg m e)| = (m.log2 : ℤ) + e := by
  rw [abs_RAT_fin, log_mul_two_zpow hm]

theorem RAT_fin_eq_zero {neg : Bool} {m : Nat} {e : ℤ} : RAT (.fin neg m e) = 0 ↔ m = 0 := by
  have hp : (2 : ℚ) ^ e ≠ 0 := by positivity
  rw [← abs_eq_zero, abs_RAT_fin, mul_eq_zero, or_iff_left hp, Nat.cast_eq_zero]

theorem fexpOut_of_fin {w : Word} {neg : Bool} {m : Nat} {e : ℤ} (h : f32 w = .fin neg m e) :
    fexpOut w = if m = 0 then -2147483648 else (m.log2 : ℤ) + e := by
  unfold fexpOut
  rw [h]
  rfl

theorem log2_lt_of_fin {w : Word} {neg : Bool} {m : Nat} {e : ℤ} (h : f32 w = .fin neg m e) (hm : m ≠ 0) : m.log2 < 24 := by
  obtain ⟨-, -, rfl, -⟩ := f32_eq_fin.mp h
  exact (Nat.log2_lt hm).mpr ((sigOf_lt _).trans_eq (by norm_num))

/-- FEXP of a finite value that is not zero: its binary exponent. -/
theorem fexp_fin {w : Word} {neg : Bool} {m : Nat} {e : ℤ} (h : f32 w = .fin neg m e) (hm : m ≠ 0) :
    (wordOf (fexpOut w)).toInt = Int.log 2 |RAT (.fin neg m e)| := by
  have hl := log2_lt_of_fin h hm
  obtain ⟨he, he'⟩ : -149 ≤ e ∧ e ≤ 104 := by
    obtain ⟨hw, -, -, rfl⟩ := f32_eq_fin.mp h
    exact expOf_bounds hw
  rw [fexpOut_of_fin h, if_neg hm, log_abs_RAT hm]
  exact BitVec.toInt_ofInt_eq_self (by decide) (by omega) (by omega)

/-- FMANT of a finite value that is not zero: the value divided by 2^FEXP, exactly. -/
theorem fmant_fin {w : Word} {neg : Bool} {m : Nat} {e : ℤ} (h : f32 w = .fin neg m e) (hm : m ≠ 0) :
    let x := f32 (toF32 ((FVal.fin neg m e).scale (-fexpOut w)) .rn)
    SIGN x = neg ∧ RAT x = RAT (.fin neg m e) / 2 ^ Int.log 2 |RAT (.fin neg m e)| := by
  have hl := log2_lt_of_fin h hm
  have hM : m < 16777216 := by
    obtain ⟨-, -, rfl, -⟩ := f32_eq_fin.mp h
    exact sigOf_lt _
  rw [fexpOut_of_fin h, if_neg hm, log_abs_RAT hm]
  obtain ⟨m', e', hf, hval⟩ := f32_toF32_exact (neg := neg) (m := m) (e := e + -((m.log2 : ℤ) + e)) rfl hM (by omega) (by omega)
  intro x
  have hx : x = .fin neg m' e' := hf
  rw [hx]
  refine ⟨rfl, ?_⟩
  rw [RAT_fin_congr hval, RAT_scale, zpow_neg, div_eq_mul_inv]

/-! ### The obligation -/

/-- Settles O4: each entry by what it does to a NaN, an infinity and a finite value, and the traps from the entries' shapes. -/
theorem floatCompareConvert : Obligations.FloatCompareConvert := by
  unfold Obligations.FloatCompareConvert
  intro s k o
  dsimp only
  refine ⟨?fcmp, ?fclass, ?frnd, ?ftoi, ?itof, ?fexp, ?fmant, ?ldexp, ?traps⟩
  case fcmp =>
    refine fun h => laneSuch_wordOp h exec_fcmp fun l => Or.imp And.symm And.symm (one_or_zero ?_)
    have hn := fcmp_sub h
    rw [show o.subLo = o.sub.toNat from Nat.mod_eq_of_lt (by omega)]
    exact fcmpCc_iff hn _ _
  case fclass =>
    refine fun h => laneSuch_wordOp h exec_fclass fun l => ?_
    obtain ⟨x, hx⟩ : ∃ x, f32 (k.src o o.a l) = x := ⟨_, rfl⟩
    simp only [hx]
    cases x with
    | nan =>
      rw [classBit_nan hx]
      cases (k.src o o.a l).getLsbD 22 <;> rfl
    | inf neg =>
      rw [classBit_inf hx]
      cases neg <;> rfl
    | fin neg m e =>
      rw [classBit_fin hx]
      dsimp only
      split_ifs <;> rfl
  case frnd =>
    refine fun h => laneSuch_wordOp h exec_frnd fun l => ?_
    cases hx : f32 (k.src o o.a l) with
    | nan => exact toF32_nan _
    | inf neg => exact toF32_of_inf hx _
    | fin neg m e => exact frnd_fin hx (ne_sr_of_accepted h rfl rfl)
  case ftoi =>
    refine fun h => laneSuch_wordOp h exec_ftoi fun l => ?_
    cases hx : f32 (k.src o o.a l) with
    | nan => exact congrArg (BitVec.ofNat 32) (convert_int_nan (intRange_ftoiFmt o) ..)
    | inf neg => exact ftoi_inf o neg
    | fin neg m e => exact ftoi_fin (ne_sr_of_accepted h rfl rfl) neg m e
  case itof =>
    refine fun h => laneSuch_wordOp h exec_itof fun l => ?_
    rw [val_isN32]
    exact ⟨ofInt _ 0, trivial, RAT_ofInt _, rfl, rfl⟩
  case fexp =>
    refine fun h => laneSuch_wordOp h exec_fexp fun l => ?_
    cases hx : f32 (k.src o o.a l) with
    | nan => simp only [fexpOut, hx]; rfl
    | inf neg => simp only [fexpOut, hx]; rfl
    | fin neg m e =>
      show if m = 0 then _ else _
      split
      · next hm => rw [fexpOut_of_fin hx, if_pos hm]; rfl
      · next hm => exact fexp_fin hx hm
  case fmant =>
    refine fun h => laneSuch_wordOp h exec_fmant fun l => ?_
    cases hx : f32 (k.src o o.a l) with
    | nan => exact toF32_nan _
    | inf neg => exact toF32_of_inf hx _
    | fin neg m e =>
      show if RAT (.fin neg m e) = 0 then _ else _
      split
      · next h0 =>
        obtain rfl := RAT_fin_eq_zero.mp h0
        exact toF32_of_zero hx _
      · next h0 =>
        have hm : m ≠ 0 := fun hm => h0 (RAT_fin_eq_zero.mpr hm)
        have hz : (FVal.fin neg m e).isZero = false := beq_false_of_ne hm
        rw [hz]
        exact fmant_fin hx hm
  case ldexp =>
    refine fun h => laneSuch_wordOp h exec_ldexp fun l => ?_
    cases hx : f32 (k.src o o.a l) with
    | nan => exact toF32_nan _
    | inf neg => exact toF32_of_inf hx _
    | fin neg m e => exact ⟨(FVal.fin neg m e).scale _, trivial, rfl, RAT_scale neg m e _, rfl⟩
  case traps =>
    intro i types rnds last hi hk
    simp only [List.mem_cons, List.not_mem_nil, or_false, Prod.mk.injEq] at hi
    rcases hi with ⟨rfl, rfl, rfl, rfl⟩ | hi
    · exact shFp_traps (fun n => decide (n.toNat % 8 = 7)) (fun _ => by simp) (fun _ => rfl) (fun _ h => h) (by decide) o hk
    · rcases hi with hi | hi | hi | hi | hi | hi | hi
      all_goals
        obtain ⟨rfl, rfl, rfl, rfl⟩ := hi
        exact shFp_traps (fun _ => false) (fun _ => by simp) (fun _ => rfl) (by simp) (by decide) o hk

end Sys2Proof
